-- ==== Sys2Proof/Word.lean ====
section
/-! DEFINITION. The word types of the B8 (R3 to R6), the operand source of Formats R and T (R67), and their plainest
arithmetic. -/

namespace Sys2Proof

/-- A byte (R5). -/
abbrev Byte := BitVec 8
/-- A double: scalar registers, virtual addresses, control registers (R5). -/
abbrev Word := BitVec 64
/-- An instruction word (R5, R62). -/
abbrev IWord := BitVec 32
/-- A vector register: byte lane i is bits 8i+7 to 8i (R17). -/
abbrev VReg := BitVec 512
/-- A predicate register: bit i governs byte lane i (R17). -/
abbrev PReg := BitVec 64
/-- The accumulator: element (i, j) is bits 32(32i+j)+31 to 32(32i+j) (R20). -/
abbrev Acc := BitVec 32768

/-- A source operand of Format R or T: kind tag and 5-bit field (R67). -/
structure Src where
  k : BitVec 2
  n : BitVec 5
deriving DecidableEq, Repr

/-- Bits h to l of x as an unsigned integer: the helper bits(x, h, l) (R11). -/
def bits (x h l : Nat) : Nat := x / 2 ^ l % 2 ^ (h + 1 - l)

/-- x modulo 2^n as a signed integer. -/
def toS (x n : Nat) : Int := if 2 * (x % 2 ^ n) < 2 ^ n then (x % 2 ^ n : Nat) else (x % 2 ^ n : Nat) - (2 ^ n : Nat)

end Sys2Proof
end

