-- ==== Sys2Proof/Syntax.lean ====
section
/-! DEFINITION. The instructions and steps of the B8: one constructor for each row of spec/opcode_table.json. An encoded
instruction holds the fields its row gives it; a kind tag and the field beside it are one Src (R67). A step without an
encoding holds the numbers that name what it acts on (a brick, a strand, a channel, a place in a list of State). -/

namespace Sys2Proof

/-- One constructor per row of the opcode table. -/
inductive Instr where
  | add (d : BitVec 4) (a : Src) (b : Src)
  | sub (d : BitVec 4) (a : Src) (b : Src)
  | min (d : BitVec 4) (a : Src) (b : Src)
  | max (d : BitVec 4) (a : Src) (b : Src)
  | minu (d : BitVec 4) (a : Src) (b : Src)
  | maxu (d : BitVec 4) (a : Src) (b : Src)
  | and (d : BitVec 4) (a : Src) (b : Src)
  | or (d : BitVec 4) (a : Src) (b : Src)
  | xor (d : BitVec 4) (a : Src) (b : Src)
  | andn (d : BitVec 4) (a : Src) (b : Src)
  | shl (d : BitVec 4) (a : Src) (b : Src)
  | shr (d : BitVec 4) (a : Src) (b : Src)
  | sar (d : BitVec 4) (a : Src) (b : Src)
  | rol (d : BitVec 4) (a : Src) (b : Src)
  | clz (d : BitVec 4) (a : Src)
  | ctz (d : BitVec 4) (a : Src)
  | popc (d : BitVec 4) (a : Src)
  | seq (d : BitVec 4) (a : Src) (b : Src)
  | sne (d : BitVec 4) (a : Src) (b : Src)
  | slt (d : BitVec 4) (a : Src) (b : Src)
  | sltu (d : BitVec 4) (a : Src) (b : Src)
  | sle (d : BitVec 4) (a : Src) (b : Src)
  | sleu (d : BitVec 4) (a : Src) (b : Src)
  | sel (d : BitVec 4) (a : Src) (b : Src)
  | mul (d : BitVec 4) (a : Src) (b : Src)
  | mulh (d : BitVec 4) (a : Src) (b : Src)
  | mulhu (d : BitVec 4) (a : Src) (b : Src)
  | div (d : BitVec 4) (a : Src) (b : Src)
  | divu (d : BitVec 4) (a : Src) (b : Src)
  | rem (d : BitVec 4) (a : Src) (b : Src)
  | remu (d : BitVec 4) (a : Src) (b : Src)
  | clmul (d : BitVec 4) (a : Src) (b : Src)
  | clmulh (d : BitVec 4) (a : Src) (b : Src)
  | bswap (d : BitVec 4) (a : Src)
  | addI (d : BitVec 4) (a : BitVec 4) (i : BitVec 18)
  | andI (d : BitVec 4) (a : BitVec 4) (i : BitVec 18)
  | orI (d : BitVec 4) (a : BitVec 4) (i : BitVec 18)
  | xorI (d : BitVec 4) (a : BitVec 4) (i : BitVec 18)
  | shlI (d : BitVec 4) (a : BitVec 4) (n : BitVec 6)
  | shrI (d : BitVec 4) (a : BitVec 4) (n : BitVec 6)
  | sarI (d : BitVec 4) (a : BitVec 4) (n : BitVec 6)
  | sltI (d : BitVec 4) (a : BitVec 4) (i : BitVec 17)
  | sltuI (d : BitVec 4) (a : BitVec 4) (i : BitVec 17)
  | beq (a : BitVec 4) (b : BitVec 4) (o : BitVec 15)
  | bne (a : BitVec 4) (b : BitVec 4) (o : BitVec 15)
  | blt (a : BitVec 4) (b : BitVec 4) (o : BitVec 15)
  | bge (a : BitVec 4) (b : BitVec 4) (o : BitVec 15)
  | bltu (a : BitVec 4) (b : BitVec 4) (o : BitVec 15)
  | bgeu (a : BitVec 4) (b : BitVec 4) (o : BitVec 15)
  | bz (a : BitVec 4) (o : BitVec 19)
  | bnz (a : BitVec 4) (o : BitVec 19)
  | jmp (o : BitVec 26)
  | call (o : BitVec 26)
  | jr (a : BitVec 4)
  | callr (a : BitVec 4)
  | ret
  | yield
  | exit
  | trap
  | nop
  | hintImm (p : BitVec 24)
  | hintMod (p : BitVec 24)
  | hintSched (p : BitVec 24)
  | ldB (d : BitVec 4) (b : BitVec 4) (o : BitVec 11) (l : BitVec 4)
  | ldBs (d : BitVec 4) (b : BitVec 4) (o : BitVec 11) (l : BitVec 4)
  | ldH (d : BitVec 4) (b : BitVec 4) (o : BitVec 11) (l : BitVec 4)
  | ldHs (d : BitVec 4) (b : BitVec 4) (o : BitVec 11) (l : BitVec 4)
  | ldW (d : BitVec 4) (b : BitVec 4) (o : BitVec 11) (l : BitVec 4)
  | ldWs (d : BitVec 4) (b : BitVec 4) (o : BitVec 11) (l : BitVec 4)
  | ldD (d : BitVec 4) (b : BitVec 4) (o : BitVec 11) (l : BitVec 4)
  | stB (d : BitVec 4) (b : BitVec 4) (o : BitVec 11)
  | stH (d : BitVec 4) (b : BitVec 4) (o : BitVec 11)
  | stW (d : BitVec 4) (b : BitVec 4) (o : BitVec 11)
  | stD (d : BitVec 4) (b : BitVec 4) (o : BitVec 11)
  | amoAdd (d : BitVec 4) (b : BitVec 4) (v : BitVec 4) (s : BitVec 3) (o : BitVec 4) (l : BitVec 4)
  | amoXchg (d : BitVec 4) (b : BitVec 4) (v : BitVec 4) (s : BitVec 3) (o : BitVec 4) (l : BitVec 4)
  | amoCas (d : BitVec 4) (b : BitVec 4) (v : BitVec 4) (s : BitVec 3) (o : BitVec 4) (l : BitVec 4)
  | amoMin (d : BitVec 4) (b : BitVec 4) (v : BitVec 4) (s : BitVec 3) (o : BitVec 4) (l : BitVec 4)
  | amoMax (d : BitVec 4) (b : BitVec 4) (v : BitVec 4) (s : BitVec 3) (o : BitVec 4) (l : BitVec 4)
  | amoAnd (d : BitVec 4) (b : BitVec 4) (v : BitVec 4) (s : BitVec 3) (o : BitVec 4) (l : BitVec 4)
  | amoOr (d : BitVec 4) (b : BitVec 4) (v : BitVec 4) (s : BitVec 3) (o : BitVec 4) (l : BitVec 4)
  | amoXor (d : BitVec 4) (b : BitVec 4) (v : BitVec 4) (s : BitVec 3) (o : BitVec 4) (l : BitVec 4)
  | bind (a : Src) (b : Src)
  | unbind (a : Src) (b : Src)
  | acq (d : BitVec 4) (a : Src) (b : Src)
  | acqAll
  | rel (a : Src) (b : Src)
  | fenceS
  | fenceX (a : Src) (b : Src)
  | landSet (a : Src) (b : Src)
  | vld (d : BitVec 5) (b : BitVec 4) (o : BitVec 11) (l : BitVec 4)
  | vst (d : BitVec 5) (b : BitVec 4) (o : BitVec 11)
  | vldp (d : BitVec 4) (b : BitVec 4) (o : BitVec 11) (l : BitVec 4)
  | vstp (d : BitVec 4) (b : BitVec 4) (o : BitVec 11)
  | vgather (w : BitVec 2) (d : BitVec 5) (a : Src) (b : BitVec 5) (l : BitVec 4)
  | vscatter (w : BitVec 2) (d : BitVec 5) (a : Src) (b : BitVec 5) (l : BitVec 4)
  | vadd (d : BitVec 5) (a : Src) (b : Src) (s : BitVec 2) (w : BitVec 2)
  | vsub (d : BitVec 5) (a : Src) (b : Src) (s : BitVec 2) (w : BitVec 2)
  | vmul (d : BitVec 5) (a : Src) (b : Src) (w : BitVec 2)
  | vmulh (d : BitVec 5) (a : Src) (b : Src) (w : BitVec 2)
  | vmin (d : BitVec 5) (a : Src) (b : Src) (w : BitVec 2)
  | vmax (d : BitVec 5) (a : Src) (b : Src) (w : BitVec 2)
  | vabs (d : BitVec 5) (a : Src) (s : BitVec 1) (w : BitVec 2)
  | vneg (d : BitVec 5) (a : Src) (s : BitVec 1) (w : BitVec 2)
  | vand (d : BitVec 5) (a : Src) (b : Src)
  | vor (d : BitVec 5) (a : Src) (b : Src)
  | vxor (d : BitVec 5) (a : Src) (b : Src)
  | vandn (d : BitVec 5) (a : Src) (b : Src)
  | vshl (d : BitVec 5) (a : Src) (b : Src) (w : BitVec 2)
  | vshr (d : BitVec 5) (a : Src) (b : Src) (w : BitVec 2)
  | vsar (d : BitVec 5) (a : Src) (b : Src) (w : BitVec 2)
  | vcmpEq (d : BitVec 3) (a : Src) (b : Src) (w : BitVec 2)
  | vcmpNe (d : BitVec 3) (a : Src) (b : Src) (w : BitVec 2)
  | vcmpLt (d : BitVec 3) (a : Src) (b : Src) (w : BitVec 2)
  | vcmpLe (d : BitVec 3) (a : Src) (b : Src) (w : BitVec 2)
  | vcmpLtu (d : BitVec 3) (a : Src) (b : Src) (w : BitVec 2)
  | vcmpLeu (d : BitVec 3) (a : Src) (b : Src) (w : BitVec 2)
  | vfadd (d : BitVec 5) (a : Src) (b : Src) (f : BitVec 2)
  | vfsub (d : BitVec 5) (a : Src) (b : Src) (f : BitVec 2)
  | vfmul (d : BitVec 5) (a : Src) (b : Src) (f : BitVec 2)
  | vfmin (d : BitVec 5) (a : Src) (b : Src) (f : BitVec 2)
  | vfmax (d : BitVec 5) (a : Src) (b : Src) (f : BitVec 2)
  | vrcp (d : BitVec 5) (a : Src) (f : BitVec 2)
  | vrsqrt (d : BitVec 5) (a : Src) (f : BitVec 2)
  | vfcmpEq (d : BitVec 3) (a : Src) (b : Src) (f : BitVec 2)
  | vfcmpLt (d : BitVec 3) (a : Src) (b : Src) (f : BitVec 2)
  | vfcmpLe (d : BitVec 3) (a : Src) (b : Src) (f : BitVec 2)
  | vfcmpUn (d : BitVec 3) (a : Src) (b : Src) (f : BitVec 2)
  | vfdiv (f : BitVec 2) (d : BitVec 5) (a : Src) (b : Src) (l : BitVec 4)
  | vfsqrt (f : BitVec 2) (d : BitVec 5) (a : Src) (l : BitVec 4)
  | vfma (d : BitVec 5) (a : BitVec 5) (b : Src) (c : Src)
  | vfms (d : BitVec 5) (a : BitVec 5) (b : Src) (c : Src)
  | vcvt (s : BitVec 3) (d : BitVec 5) (a : BitVec 5) (h : BitVec 1) (w : BitVec 2) (v : BitVec 2) (t : BitVec 3)
  | vdec4 (d : BitVec 5) (a : BitVec 5) (g : BitVec 2) (l : BitVec 4)
  | venc4 (d : BitVec 5) (a : BitVec 5) (g : BitVec 2) (t : BitVec 2)
  | vbcast (d : BitVec 5) (a : Src) (w : BitVec 2)
  | vperm (d : BitVec 5) (a : Src) (b : Src) (w : BitVec 2)
  | vshuf (d : BitVec 5) (a : Src) (b : Src) (w : BitVec 2)
  | vslide (d : BitVec 5) (a : Src) (b : Src) (w : BitVec 2)
  | vredadd (d : BitVec 4) (a : BitVec 5) (b : Src) (w : BitVec 2)
  | vredmin (d : BitVec 4) (a : BitVec 5) (b : Src) (w : BitVec 2)
  | vredmax (d : BitVec 4) (a : BitVec 5) (b : Src) (w : BitVec 2)
  | vfredadd (d : BitVec 4) (a : BitVec 5) (b : Src) (f : BitVec 2)
  | vcompress (d : BitVec 5) (a : Src) (b : Src) (w : BitVec 2)
  | vexpand (d : BitVec 5) (a : Src) (b : Src) (w : BitVec 2)
  | vpopc (d : BitVec 5) (a : Src) (w : BitVec 2)
  | vclmul (d : BitVec 5) (a : Src) (b : Src) (w : BitVec 2)
  | vprefixAdd (d : BitVec 5) (a : Src) (b : Src) (w : BitVec 2)
  | pand (d : BitVec 3) (a : BitVec 3) (b : BitVec 3)
  | por (d : BitVec 3) (a : BitVec 3) (b : BitVec 3)
  | pxor (d : BitVec 3) (a : BitVec 3) (b : BitVec 3)
  | pnot (d : BitVec 3) (a : BitVec 3)
  | pcnt (d : BitVec 4) (a : BitVec 3)
  | pfirst (d : BitVec 3) (a : BitVec 3)
  | pmovS (d : BitVec 4) (a : BitVec 3)
  | psMov (d : BitVec 3) (a : BitVec 4)
  | vsel (d : BitVec 5) (a : BitVec 5) (b : Src) (c : Src)
  | mma (a : BitVec 4) (b : BitVec 4) (o : BitVec 4) (m : BitVec 6) (l : BitVec 4)
  | mmaR (a : BitVec 4) (d : BitVec 4) (m : BitVec 6) (l : BitVec 4)
  | mmaP (a : BitVec 4) (d : BitVec 4) (m : BitVec 6) (l : BitVec 4)
  | accZero (l : BitVec 4)
  | accLd (n : BitVec 4) (l : BitVec 4)
  | accSt (n : BitVec 4) (l : BitVec 4)
  | mxOpen (d : BitVec 4) (a : Src) (l : BitVec 4)
  | mxClose (d : BitVec 4) (a : Src) (l : BitVec 4)
  | mxRing (d : BitVec 4) (a : Src) (b : Src) (l : BitVec 4)
  | bufSet (n : BitVec 4) (s : BitVec 4)
  | bufAdvP (n : BitVec 4) (s : BitVec 4)
  | bufAdvC (n : BitVec 4) (s : BitVec 4)
  | bufQ (d : BitVec 4) (n : BitVec 4)
  | cpWait (d : BitVec 4) (c : BitVec 3) (m : BitVec 4) (t : BitVec 1) (s : BitVec 2) (l : BitVec 4)
  | cpPtr (d : BitVec 4) (c : BitVec 3) (l : BitVec 4)
  | cpInv (l : BitVec 4)
  | fork (a : Src) (b : Src)
  | join (a : Src)
  | migrate (a : Src)
  | texit (a : Src)
  | spawnG (d : BitVec 4) (a : Src)
  | send (d : BitVec 4) (a : Src) (b : Src) (l : BitVec 4)
  | sendh (d : BitVec 4) (a : Src) (b : Src) (l : BitVec 4)
  | mend
  | wfm (d : BitVec 4) (a : Src) (b : Src)
  | fbar (c : BitVec 6) (l : BitVec 4)
  | fbarM (c : BitVec 6) (l : BitVec 4)
  | fbcast (c : BitVec 6) (d : BitVec 4) (l : BitVec 4)
  | fbcastTx (c : BitVec 6) (s : BitVec 4) (d : BitVec 4) (l : BitVec 4)
  | fcomb (c : BitVec 6) (s : BitVec 4) (d : BitVec 4) (o : BitVec 5) (l : BitVec 4)
  | fpoll (c : BitVec 6) (d : BitVec 4) (l : BitVec 4)
  | get (d : BitVec 4) (a : Src) (b : Src) (l : BitVec 4)
  | put (d : BitVec 4) (a : Src) (b : Src) (l : BitVec 4)
  | getv (d : BitVec 5) (a : Src) (b : Src) (l : BitVec 4)
  | putv (d : BitVec 5) (a : Src) (b : Src) (l : BitVec 4)
  | equiv (a : Src) (l : BitVec 4)
  | chsw (d : BitVec 4) (a : Src) (b : Src) (l : BitVec 4)
  | map (a : Src) (b : Src) (l : BitVec 4)
  | grant (a : Src) (b : Src) (l : BitVec 4)
  | unmap (a : Src) (b : Src) (l : BitVec 4)
  | unmapSelf (a : Src) (b : Src) (l : BitVec 4)
  | mapw (d : BitVec 4) (a : Src) (l : BitVec 4)
  | csrr (s : BitVec 4) (c : BitVec 12)
  | csrw (s : BitVec 4) (c : BitVec 12)
  | eret
  | pause
  | brk
  | halt
  | accownWrite (b : Nat)
  | bindtabWrite (v : Word)
  | watchdogWrite (v : Word)
  | fpstatWrite (v : Word)
  | faultReply (n : Nat)
  | lateFaultTrap (b : Nat) (k : Nat)
  | watchdogDue (b : Nat) (k : Nat)
  | watchdog (b : Nat) (k : Nat)
  | preemptionRequest (l : Nat)
  | deadlineExpiry (b : Nat) (k : Nat)
  | forcedSave (b : Nat) (k : Nat)
  | remoteStoreArrival (b : Nat) (n : Nat)
  | storeAcknowledge (b : Nat) (n : Nat)
  | loadResponse (b : Nat) (op : Nat) (i : Nat)
  | rrbEviction (b : Nat) (n : Nat)
  | ringEntryComplete (b : Nat) (op : Nat)
  | matrixCommandFire (b : Nat)
  | matrixCommandComplete (b : Nat)
  | mmaRRequest (n : Nat)
  | mmaPRequest (n : Nat)
  | capabilityAnswer (b : Nat) (op : Nat)
  | copyStart (b : Nat) (n : Nat)
  | copyBegin (b : Nat) (c : Nat)
  | copyChunk (b : Nat) (c : Nat) (i : Nat)
  | copyComplete (b : Nat) (c : Nat)
  | messageArrival (n : Nat)
  | sendStatus (b : Nat) (op : Nat)
  | heapReplay (b : Nat)
  | handlerStart (b : Nat)
  | handlerTrap (b : Nat)
  | migrateArrival (n : Nat) (k : Nat)
  | strandDispatch (b : Nat) (k : Nat) (blk : Nat)
  | stealRequest (b : Nat) (k : Nat) (blk : Nat)
  | stealAnswer (b : Nat) (k : Nat)
  | stealBackoffExpiry (b : Nat) (k : Nat)
  | blockDeparture (b : Nat) (k : Nat)
  | blockResolve (b : Nat) (c : Nat)
  | acqRetry (b : Nat) (c : Nat)
  | fbarMArrival (b : Nat) (op : Nat)
  | footingRelease (d : Nat) (c : Nat)
  | coursePreempted (l : Nat)
  | launchResume (l : Nat)
  | launch (q : Nat)
  | launchPlacement (l : Nat) (org : Nat) (tag : Nat) (win : Nat)
  | launchComplete (l : Nat)
  | doorbell (q : Nat) (off : Nat) (size : Nat) (v : Word)
  | signalStore (q : Nat)
  | signalAdd (q : Nat)
  | signalLandSet (q : Nat)
  | waitCounter (q : Nat)
  | waitLanding (q : Nat)
  | waitSatisfied (q : Nat)
  | mark (q : Nat)
  | queueCreate (sp : Nat) (ring : Nat) (lg : Nat) (head : Nat) (prio : Nat) (tok : Nat)
  | queueReset (q : Nat)
  | slotTick
  | chainSwitchComplete (b : Nat) (r : Nat)
  | chswLimitExpiry (b : Nat) (r : Nat)
  | schedulerSwitchRequest (b : Nat) (r : Nat) (form : Nat)
  | mapRequest (n : Nat)
  | shootdownInvalidate (b : Nat) (w : Nat)
  | shootdownAcknowledge (b : Nat) (w : Nat)
  | withdrawalPoint (w : Nat)
  | spaceCreate (num : Nat) (world : Nat) (tmpl : Nat) (tok : Nat)
  | spaceTeardown (sp : Nat) (tok : Nat)
  | heatSweep
  | ownershipTransferToA (r : Nat)
  | transferAnswer (r : Nat)
  | ownershipTimeout (r : Nat)
  | ownershipTransferToP (r : Nat)
  | hostAtomicUnsupported (b : Nat) (op : Nat)
  | fallbackAnswer (tag : Nat) (v : Word)
  | flushRead (p : Nat)
  | flushReadComplete (p : Nat)
  | heartbeatWrite (d : Nat) (v : Word)
  | heartbeatTimeout
  | pairMismatch (d : Nat)
  | livenessWrite (v : Word)
  | hostLoss
  | queryState
  | resync
  | linkDown (p : Nat)
  | linkUp (p : Nat)
  | extentAdd (base : Nat) (len : Nat) (shared : Bool)
  | extentRelease (n : Nat)
  | extentForcedRemoval (n : Nat)
  | farLinePoison (a : Nat)
  | load (sp : Nat) (addr : Nat) (len : Nat) (va : Nat) (pa : Nat) (tok : Nat)
  | sessionEstablish (w : Nat)
  | keySet (w : Nat) (slot : Nat) (usage : Nat) (key : Nat)
  | keyClear (w : Nat) (slot : Nat)
  | protect (w : Nat) (base : Nat) (len : Nat) (mode : Nat) (slot : Nat)
  | seal (w : Nat) (base : Nat) (len : Nat) (slot : Nat) (tags : Nat)
  | lock (w : Nat) (mask : Nat)
  | tokens (w : Nat) (count : Nat)
  | attest (w : Nat) (nonce : Nat)
  | migrateOut (w : Nat) (dest : Nat)
  | receipt (w : Nat) (r : Nat)
  | release (w : Nat)
  | sessionTimeout (w : Nat)
  | graceExpiry (w : Nat)
  | worldAssign (d : Nat) (w : Nat)
  | clearRoutine (d : Nat)
  | clearTimeout (d : Nat)
  | migrationActive (w : Nat)
  | abortedLost (w : Nat)
  | moduleReset (failed : List Nat)
  | routerFault (b : Nat)
  | sensorSample (d : Nat) (i : Nat) (kind : Nat) (v : Nat)
  | droopCutExpiry (d : Nat)
  | powerPeriod (demand : List Nat)
  | moduleCapSet (cap : Nat)
  | snapshotTrigger
  | snapshotLatch
  | snapshotRead (n : Nat)
  | traceControlWrite (b : Nat) (off : Nat) (v : Word)
  | traceClear (b : Nat)
  | stop (b : Nat) (k : Nat)
  | stopTaken (b : Nat) (k : Nat)
  | resume (b : Nat) (k : Nat)
  | readReg (b : Nat) (k : Nat)
  | writeReg (b : Nat) (k : Nat)
  | readMem (b : Nat)
  | illegalOpcode (w : IWord)
  | pauseExpiry (b : Nat) (k : Nat)
  | bar2Access (a : Nat) (write : Bool) (v : Word)
  | regionHoldExpiry (r : Nat)
  | uncorrectableSoftError (a : Nat)
  | farLineRepair (a : Nat)
  | powerGating (b : Nat)
  | faultServiceTargetSet (sp : Nat) (kind : Nat) (a : Nat) (tsp : Nat) (k : Nat) (policy : Nat) (tok : Nat)
  | runtimeEntrySet (sp : Nat) (va : Word)
  | closedNodeRemoval (n : Nat)
  | gracePeriodSet (w : Nat) (sec : Nat)
  | sessionHeartbeat (w : Nat)
deriving DecidableEq, Repr

end Sys2Proof
end

