-- ==== Sys2Proof/WellFormed.lean ====
section
/-! DEFINITION. What the encoding tables demand of an instruction's fields (R63 to R69, R75 to R77, R80, R81): unassigned
sub-field values, reserved values, kind tags, the immediate a hint.imm extends and the fields of hint.mod an
instruction honours. -/

namespace Sys2Proof

/-- The three traps of an instruction word or its fields, in the order of R81 that comes before HINT_ORPHAN. -/
inductive EncTrap where
  | illegal
  | reserved
  | kindTag
deriving DecidableEq, Repr

/-- Facts of one instruction's encoding. A kind set is a mask over the four tags (R67, R68); mods is a mask over the
fields of hint.mod: 1 RM, 2 PRED, 4 ZERO, 8 SAT, 16 HOME, 32 RAWF, 64 FMT (R77). -/
structure Info where
  major : Nat
  srcs : List (Src × Nat) := []
  sregs : List (BitVec 4) := []
  ill : Bool := false
  res : Bool := false
  imm : Bool := false
  mods : Nat := 0
  event : Bool := false
deriving DecidableEq, Repr

/-- A step of the table that has no encoding. -/
def eventInfo : Info where
  major := 0
  event := true

/-- Conversion codes 101 and 110 are integers (R80). -/
def isInt (c : BitVec 3) : Bool := c == 5 || c == 6

/-- Bytes of an element of conversion code c with integer width w (R80, R147). -/
def cvtWidth (c : BitVec 3) (w : BitVec 2) : Nat :=
  if c == 0 then 4 else if c == 1 || c == 2 then 2 else if c == 3 || c == 4 then 1 else 2 ^ w.toNat

/-- Reserved values of the MODE field of mma, mma.r and mma.p (R155). -/
def modeReserved (m : BitVec 6) : Bool :=
  m.extractLsb' 3 2 == 3 || (m.extractLsb' 0 3 != 7 && m.extractLsb' 3 2 != 0)

/-- Reserved payloads of hint.sched (R78). -/
def schedReserved (p : BitVec 24) : Bool :=
  p.extractLsb' 0 2 == 3 || p.getLsbD 3 || p.extractLsb' 4 20 != 0

/-- The encoding facts of each row. -/
def Instr.info : Instr → Info
  | .add d a b => { major := 0x1, srcs := [(a, 14), (b, 14)], sregs := [d], imm := a.k == 3 || b.k == 3 }
  | .sub d a b => { major := 0x1, srcs := [(a, 14), (b, 14)], sregs := [d], imm := a.k == 3 || b.k == 3 }
  | .min d a b => { major := 0x1, srcs := [(a, 14), (b, 14)], sregs := [d], imm := a.k == 3 || b.k == 3 }
  | .max d a b => { major := 0x1, srcs := [(a, 14), (b, 14)], sregs := [d], imm := a.k == 3 || b.k == 3 }
  | .minu d a b => { major := 0x1, srcs := [(a, 14), (b, 14)], sregs := [d], imm := a.k == 3 || b.k == 3 }
  | .maxu d a b => { major := 0x1, srcs := [(a, 14), (b, 14)], sregs := [d], imm := a.k == 3 || b.k == 3 }
  | .and d a b => { major := 0x2, srcs := [(a, 14), (b, 14)], sregs := [d], imm := a.k == 3 || b.k == 3 }
  | .or d a b => { major := 0x2, srcs := [(a, 14), (b, 14)], sregs := [d], imm := a.k == 3 || b.k == 3 }
  | .xor d a b => { major := 0x2, srcs := [(a, 14), (b, 14)], sregs := [d], imm := a.k == 3 || b.k == 3 }
  | .andn d a b => { major := 0x2, srcs := [(a, 14), (b, 14)], sregs := [d], imm := a.k == 3 || b.k == 3 }
  | .shl d a b => { major := 0x2, srcs := [(a, 14), (b, 14)], sregs := [d], imm := a.k == 3 || b.k == 3 }
  | .shr d a b => { major := 0x2, srcs := [(a, 14), (b, 14)], sregs := [d], imm := a.k == 3 || b.k == 3 }
  | .sar d a b => { major := 0x2, srcs := [(a, 14), (b, 14)], sregs := [d], imm := a.k == 3 || b.k == 3 }
  | .rol d a b => { major := 0x2, srcs := [(a, 14), (b, 14)], sregs := [d], imm := a.k == 3 || b.k == 3 }
  | .clz d a => { major := 0x2, srcs := [(a, 14)], sregs := [d], imm := a.k == 3 }
  | .ctz d a => { major := 0x2, srcs := [(a, 14)], sregs := [d], imm := a.k == 3 }
  | .popc d a => { major := 0x2, srcs := [(a, 14)], sregs := [d], imm := a.k == 3 }
  | .seq d a b => { major := 0x3, srcs := [(a, 14), (b, 14)], sregs := [d], imm := a.k == 3 || b.k == 3 }
  | .sne d a b => { major := 0x3, srcs := [(a, 14), (b, 14)], sregs := [d], imm := a.k == 3 || b.k == 3 }
  | .slt d a b => { major := 0x3, srcs := [(a, 14), (b, 14)], sregs := [d], imm := a.k == 3 || b.k == 3 }
  | .sltu d a b => { major := 0x3, srcs := [(a, 14), (b, 14)], sregs := [d], imm := a.k == 3 || b.k == 3 }
  | .sle d a b => { major := 0x3, srcs := [(a, 14), (b, 14)], sregs := [d], imm := a.k == 3 || b.k == 3 }
  | .sleu d a b => { major := 0x3, srcs := [(a, 14), (b, 14)], sregs := [d], imm := a.k == 3 || b.k == 3 }
  | .sel d a b => { major := 0x3, srcs := [(a, 14), (b, 14)], sregs := [d], imm := a.k == 3 || b.k == 3 }
  | .mul d a b => { major := 0x4, srcs := [(a, 14), (b, 14)], sregs := [d], imm := a.k == 3 || b.k == 3 }
  | .mulh d a b => { major := 0x4, srcs := [(a, 14), (b, 14)], sregs := [d], imm := a.k == 3 || b.k == 3 }
  | .mulhu d a b => { major := 0x4, srcs := [(a, 14), (b, 14)], sregs := [d], imm := a.k == 3 || b.k == 3 }
  | .div d a b => { major := 0x4, srcs := [(a, 14), (b, 14)], sregs := [d], imm := a.k == 3 || b.k == 3 }
  | .divu d a b => { major := 0x4, srcs := [(a, 14), (b, 14)], sregs := [d], imm := a.k == 3 || b.k == 3 }
  | .rem d a b => { major := 0x4, srcs := [(a, 14), (b, 14)], sregs := [d], imm := a.k == 3 || b.k == 3 }
  | .remu d a b => { major := 0x4, srcs := [(a, 14), (b, 14)], sregs := [d], imm := a.k == 3 || b.k == 3 }
  | .clmul d a b => { major := 0x5, srcs := [(a, 14), (b, 14)], sregs := [d], imm := a.k == 3 || b.k == 3 }
  | .clmulh d a b => { major := 0x5, srcs := [(a, 14), (b, 14)], sregs := [d], imm := a.k == 3 || b.k == 3 }
  | .bswap d a => { major := 0x5, srcs := [(a, 14)], sregs := [d], imm := a.k == 3 }
  | .addI d a _ => { major := 0x6, sregs := [d, a], imm := true }
  | .andI d a _ => { major := 0x7, sregs := [d, a], imm := true }
  | .orI d a _ => { major := 0x8, sregs := [d, a], imm := true }
  | .xorI d a _ => { major := 0x9, sregs := [d, a], imm := true }
  | .shlI d a _ => { major := 0xa, sregs := [d, a] }
  | .shrI d a _ => { major := 0xa, sregs := [d, a] }
  | .sarI d a _ => { major := 0xa, sregs := [d, a] }
  | .sltI d a _ => { major := 0xb, sregs := [d, a], imm := true }
  | .sltuI d a _ => { major := 0xb, sregs := [d, a], imm := true }
  | .beq a b _ => { major := 0xc, sregs := [a, b] }
  | .bne a b _ => { major := 0xc, sregs := [a, b] }
  | .blt a b _ => { major := 0xc, sregs := [a, b] }
  | .bge a b _ => { major := 0xc, sregs := [a, b] }
  | .bltu a b _ => { major := 0xc, sregs := [a, b] }
  | .bgeu a b _ => { major := 0xc, sregs := [a, b] }
  | .bz a _ => { major := 0xc, sregs := [a] }
  | .bnz a _ => { major := 0xc, sregs := [a] }
  | .jmp _ => { major := 0xd }
  | .call _ => { major := 0xe }
  | .jr a => { major := 0xf, sregs := [a] }
  | .callr a => { major := 0xf, sregs := [a] }
  | .ret => { major := 0xf }
  | .yield => { major := 0xf }
  | .exit => { major := 0xf }
  | .trap => { major := 0xf }
  | .nop => { major := 0xf }
  | .hintImm _ => { major := 0x10 }
  | .hintMod _ => { major := 0x10 }
  | .hintSched p => { major := 0x10, res := schedReserved p }
  | .ldB d b _ _ => { major := 0x11, sregs := [d, b], imm := true, mods := 16 }
  | .ldBs d b _ _ => { major := 0x11, sregs := [d, b], imm := true, mods := 16 }
  | .ldH d b _ _ => { major := 0x11, sregs := [d, b], imm := true, mods := 16 }
  | .ldHs d b _ _ => { major := 0x11, sregs := [d, b], imm := true, mods := 16 }
  | .ldW d b _ _ => { major := 0x11, sregs := [d, b], imm := true, mods := 16 }
  | .ldWs d b _ _ => { major := 0x11, sregs := [d, b], imm := true, mods := 16 }
  | .ldD d b _ _ => { major := 0x11, sregs := [d, b], imm := true, mods := 16 }
  | .stB d b _ => { major := 0x12, sregs := [d, b], imm := true }
  | .stH d b _ => { major := 0x12, sregs := [d, b], imm := true }
  | .stW d b _ => { major := 0x12, sregs := [d, b], imm := true }
  | .stD d b _ => { major := 0x12, sregs := [d, b], imm := true }
  | .amoAdd d b v s o _ => { major := 0x13, sregs := [d, b, v], res := (decide (4 < s.toNat)) || (o.getLsbD 3 && (d != 0 || o.getLsbD 0)) }
  | .amoXchg d b v s o _ => { major := 0x13, sregs := [d, b, v], res := (decide (4 < s.toNat)) || (o.getLsbD 3 && (d != 0 || o.getLsbD 0)) }
  | .amoCas d b v s o _ => { major := 0x13, sregs := [d, b, v], ill := o.getLsbD 3, res := (decide (4 < s.toNat)) || (o.getLsbD 3 && (d != 0 || o.getLsbD 0)) }
  | .amoMin d b v s o _ => { major := 0x13, sregs := [d, b, v], res := (decide (4 < s.toNat)) || (o.getLsbD 3 && (d != 0 || o.getLsbD 0)) }
  | .amoMax d b v s o _ => { major := 0x13, sregs := [d, b, v], res := (decide (4 < s.toNat)) || (o.getLsbD 3 && (d != 0 || o.getLsbD 0)) }
  | .amoAnd d b v s o _ => { major := 0x13, sregs := [d, b, v], res := (decide (4 < s.toNat)) || (o.getLsbD 3 && (d != 0 || o.getLsbD 0)) }
  | .amoOr d b v s o _ => { major := 0x13, sregs := [d, b, v], res := (decide (4 < s.toNat)) || (o.getLsbD 3 && (d != 0 || o.getLsbD 0)) }
  | .amoXor d b v s o _ => { major := 0x13, sregs := [d, b, v], res := (decide (4 < s.toNat)) || (o.getLsbD 3 && (d != 0 || o.getLsbD 0)) }
  | .bind a b => { major := 0x14, srcs := [(a, 14), (b, 14)], imm := a.k == 3 || b.k == 3 }
  | .unbind a b => { major := 0x14, srcs := [(a, 14), (b, 14)], imm := a.k == 3 || b.k == 3 }
  | .acq d a b => { major := 0x14, srcs := [(a, 14), (b, 14)], sregs := [d], imm := a.k == 3 || b.k == 3 }
  | .acqAll => { major := 0x14 }
  | .rel a b => { major := 0x14, srcs := [(a, 14), (b, 14)], imm := a.k == 3 || b.k == 3 }
  | .fenceS => { major := 0x14 }
  | .fenceX a b => { major := 0x14, srcs := [(a, 14), (b, 14)], imm := a.k == 3 || b.k == 3 }
  | .landSet a b => { major := 0x14, srcs := [(a, 14), (b, 14)], imm := a.k == 3 || b.k == 3 }
  | .vld _ b _ _ => { major := 0x15, sregs := [b], imm := true, mods := 54 }
  | .vst _ b _ => { major := 0x15, sregs := [b], imm := true, mods := 34 }
  | .vldp _ b _ _ => { major := 0x15, sregs := [b], imm := true, mods := 54 }
  | .vstp _ b _ => { major := 0x15, sregs := [b], imm := true, mods := 34 }
  | .vgather _ _ a _ _ => { major := 0x16, srcs := [(a, 6)], imm := a.k == 3, mods := 22 }
  | .vscatter _ _ a _ _ => { major := 0x16, srcs := [(a, 6)], imm := a.k == 3, mods := 2 }
  | .vadd _ a b s _ => { major := 0x17, srcs := [(a, 15), (b, 15)], ill := s == 3, imm := a.k == 3 || b.k == 3, mods := 6 }
  | .vsub _ a b s _ => { major := 0x17, srcs := [(a, 15), (b, 15)], ill := s == 3, imm := a.k == 3 || b.k == 3, mods := 6 }
  | .vmul _ a b _ => { major := 0x17, srcs := [(a, 15), (b, 15)], imm := a.k == 3 || b.k == 3, mods := 6 }
  | .vmulh _ a b _ => { major := 0x17, srcs := [(a, 15), (b, 15)], imm := a.k == 3 || b.k == 3, mods := 6 }
  | .vmin _ a b _ => { major := 0x18, srcs := [(a, 15), (b, 15)], imm := a.k == 3 || b.k == 3, mods := 6 }
  | .vmax _ a b _ => { major := 0x18, srcs := [(a, 15), (b, 15)], imm := a.k == 3 || b.k == 3, mods := 6 }
  | .vabs _ a _ _ => { major := 0x18, srcs := [(a, 15)], imm := a.k == 3, mods := 6 }
  | .vneg _ a _ _ => { major := 0x18, srcs := [(a, 15)], imm := a.k == 3, mods := 6 }
  | .vand _ a b => { major := 0x19, srcs := [(a, 15), (b, 15)], imm := a.k == 3 || b.k == 3, mods := 6 }
  | .vor _ a b => { major := 0x19, srcs := [(a, 15), (b, 15)], imm := a.k == 3 || b.k == 3, mods := 6 }
  | .vxor _ a b => { major := 0x19, srcs := [(a, 15), (b, 15)], imm := a.k == 3 || b.k == 3, mods := 6 }
  | .vandn _ a b => { major := 0x19, srcs := [(a, 15), (b, 15)], imm := a.k == 3 || b.k == 3, mods := 6 }
  | .vshl _ a b _ => { major := 0x1a, srcs := [(a, 15), (b, 15)], imm := a.k == 3 || b.k == 3, mods := 6 }
  | .vshr _ a b _ => { major := 0x1a, srcs := [(a, 15), (b, 15)], imm := a.k == 3 || b.k == 3, mods := 6 }
  | .vsar _ a b _ => { major := 0x1a, srcs := [(a, 15), (b, 15)], imm := a.k == 3 || b.k == 3, mods := 6 }
  | .vcmpEq _ a b _ => { major := 0x1b, srcs := [(a, 15), (b, 15)], imm := a.k == 3 || b.k == 3, mods := 2 }
  | .vcmpNe _ a b _ => { major := 0x1b, srcs := [(a, 15), (b, 15)], imm := a.k == 3 || b.k == 3, mods := 2 }
  | .vcmpLt _ a b _ => { major := 0x1b, srcs := [(a, 15), (b, 15)], imm := a.k == 3 || b.k == 3, mods := 2 }
  | .vcmpLe _ a b _ => { major := 0x1b, srcs := [(a, 15), (b, 15)], imm := a.k == 3 || b.k == 3, mods := 2 }
  | .vcmpLtu _ a b _ => { major := 0x1b, srcs := [(a, 15), (b, 15)], imm := a.k == 3 || b.k == 3, mods := 2 }
  | .vcmpLeu _ a b _ => { major := 0x1b, srcs := [(a, 15), (b, 15)], imm := a.k == 3 || b.k == 3, mods := 2 }
  | .vfadd _ a b f => { major := 0x1c, srcs := [(a, 15), (b, 15)], ill := f == 3, imm := a.k == 3 || b.k == 3, mods := 7 }
  | .vfsub _ a b f => { major := 0x1c, srcs := [(a, 15), (b, 15)], ill := f == 3, imm := a.k == 3 || b.k == 3, mods := 7 }
  | .vfmul _ a b f => { major := 0x1c, srcs := [(a, 15), (b, 15)], ill := f == 3, imm := a.k == 3 || b.k == 3, mods := 7 }
  | .vfmin _ a b f => { major := 0x1c, srcs := [(a, 15), (b, 15)], ill := f == 3, imm := a.k == 3 || b.k == 3, mods := 7 }
  | .vfmax _ a b f => { major := 0x1c, srcs := [(a, 15), (b, 15)], ill := f == 3, imm := a.k == 3 || b.k == 3, mods := 7 }
  | .vrcp _ a f => { major := 0x1c, srcs := [(a, 15)], ill := f == 3, imm := a.k == 3, mods := 7 }
  | .vrsqrt _ a f => { major := 0x1c, srcs := [(a, 15)], ill := f == 3, imm := a.k == 3, mods := 7 }
  | .vfcmpEq _ a b f => { major := 0x1d, srcs := [(a, 15), (b, 15)], ill := f == 3, imm := a.k == 3 || b.k == 3, mods := 2 }
  | .vfcmpLt _ a b f => { major := 0x1d, srcs := [(a, 15), (b, 15)], ill := f == 3, imm := a.k == 3 || b.k == 3, mods := 2 }
  | .vfcmpLe _ a b f => { major := 0x1d, srcs := [(a, 15), (b, 15)], ill := f == 3, imm := a.k == 3 || b.k == 3, mods := 2 }
  | .vfcmpUn _ a b f => { major := 0x1d, srcs := [(a, 15), (b, 15)], ill := f == 3, imm := a.k == 3 || b.k == 3, mods := 2 }
  | .vfdiv f _ a b _ => { major := 0x1e, srcs := [(a, 15), (b, 15)], ill := f == 3, imm := a.k == 3 || b.k == 3, mods := 7 }
  | .vfsqrt f _ a _ => { major := 0x1e, srcs := [(a, 15)], ill := f == 3, imm := a.k == 3, mods := 7 }
  | .vfma _ _ b c => { major := 0x1f, srcs := [(b, 15), (c, 15)], imm := b.k == 3 || c.k == 3, mods := 71 }
  | .vfms _ _ b c => { major := 0x1f, srcs := [(b, 15), (c, 15)], imm := b.k == 3 || c.k == 3, mods := 71 }
  | .vcvt s _ _ h w v t => { major := 0x20, ill := t == 7 || s == 7, res := (!isInt s && v != 0) || (!isInt t && w != 0) || (cvtWidth s v == cvtWidth t w && h == 1), mods := 15 }
  | .vdec4 d _ g _ => { major := 0x20, res := (g == 3) || (g == 2 && d.getLsbD 0), mods := 6 }
  | .venc4 _ a g _ => { major := 0x20, res := (g == 3) || (g == 2 && a.getLsbD 0), mods := 7 }
  | .vbcast _ a _ => { major := 0x21, srcs := [(a, 15)], imm := a.k == 3, mods := 6 }
  | .vperm _ a b _ => { major := 0x21, srcs := [(a, 15), (b, 15)], imm := a.k == 3 || b.k == 3, mods := 6 }
  | .vshuf _ a b _ => { major := 0x21, srcs := [(a, 15), (b, 15)], imm := a.k == 3 || b.k == 3, mods := 6 }
  | .vslide _ a b _ => { major := 0x21, srcs := [(a, 15), (b, 15)], imm := a.k == 3 || b.k == 3, mods := 6 }
  | .vredadd d _ b _ => { major := 0x22, srcs := [(b, 15)], sregs := [d], imm := b.k == 3, mods := 2 }
  | .vredmin d _ b _ => { major := 0x22, srcs := [(b, 15)], sregs := [d], imm := b.k == 3, mods := 2 }
  | .vredmax d _ b _ => { major := 0x22, srcs := [(b, 15)], sregs := [d], imm := b.k == 3, mods := 2 }
  | .vfredadd d _ b f => { major := 0x22, srcs := [(b, 15)], sregs := [d], ill := f == 3, imm := b.k == 3, mods := 3 }
  | .vcompress _ a b _ => { major := 0x23, srcs := [(a, 15), (b, 15)], imm := a.k == 3 || b.k == 3, mods := 6 }
  | .vexpand _ a b _ => { major := 0x23, srcs := [(a, 15), (b, 15)], imm := a.k == 3 || b.k == 3, mods := 6 }
  | .vpopc _ a _ => { major := 0x23, srcs := [(a, 15)], imm := a.k == 3, mods := 6 }
  | .vclmul _ a b _ => { major := 0x23, srcs := [(a, 15), (b, 15)], imm := a.k == 3 || b.k == 3, mods := 6 }
  | .vprefixAdd _ a b _ => { major := 0x23, srcs := [(a, 15), (b, 15)], imm := a.k == 3 || b.k == 3, mods := 6 }
  | .pand _ _ _ => { major := 0x24, mods := 2 }
  | .por _ _ _ => { major := 0x24, mods := 2 }
  | .pxor _ _ _ => { major := 0x24, mods := 2 }
  | .pnot _ _ => { major := 0x24, mods := 2 }
  | .pcnt d _ => { major := 0x24, sregs := [d], mods := 2 }
  | .pfirst _ _ => { major := 0x24, mods := 2 }
  | .pmovS d _ => { major := 0x24, sregs := [d], mods := 2 }
  | .psMov _ a => { major := 0x24, sregs := [a], mods := 2 }
  | .vsel _ _ b c => { major := 0x25, srcs := [(b, 15), (c, 15)], imm := b.k == 3 || c.k == 3, mods := 6 }
  | .mma _ _ o m _ => { major := 0x26, res := (modeReserved m) || (!m.getLsbD 5 && o != 0) }
  | .mmaR a d m _ => { major := 0x26, sregs := [a, d], res := modeReserved m }
  | .mmaP a d m _ => { major := 0x26, sregs := [a, d], res := modeReserved m }
  | .accZero _ => { major := 0x27 }
  | .accLd _ _ => { major := 0x27 }
  | .accSt _ _ => { major := 0x27 }
  | .mxOpen d a _ => { major := 0x28, srcs := [(a, 6)], sregs := [d], imm := a.k == 3 }
  | .mxClose d a _ => { major := 0x28, srcs := [(a, 6)], sregs := [d], imm := a.k == 3 }
  | .mxRing d a b _ => { major := 0x28, srcs := [(a, 14), (b, 14)], sregs := [d], imm := a.k == 3 || b.k == 3 }
  | .bufSet _ s => { major := 0x29, sregs := [s] }
  | .bufAdvP _ s => { major := 0x29, sregs := [s] }
  | .bufAdvC _ s => { major := 0x29, sregs := [s] }
  | .bufQ d _ => { major := 0x29, sregs := [d] }
  | .cpWait d _ m _ s _ => { major := 0x2a, sregs := [d, m], res := s == 3 }
  | .cpPtr d _ _ => { major := 0x2a, sregs := [d] }
  | .cpInv _ => { major := 0x2a }
  | .fork a b => { major := 0x2b, srcs := [(a, 14), (b, 14)], imm := a.k == 3 || b.k == 3 }
  | .join a => { major := 0x2b, srcs := [(a, 14)], imm := a.k == 3 }
  | .migrate a => { major := 0x2b, srcs := [(a, 14)], imm := a.k == 3 }
  | .texit a => { major := 0x2b, srcs := [(a, 14)], imm := a.k == 3 }
  | .spawnG d a => { major := 0x2b, srcs := [(a, 14)], sregs := [d], imm := a.k == 3 }
  | .send d a b _ => { major := 0x2c, srcs := [(a, 14), (b, 14)], sregs := [d], imm := a.k == 3 || b.k == 3 }
  | .sendh d a b _ => { major := 0x2c, srcs := [(a, 14), (b, 14)], sregs := [d], imm := a.k == 3 || b.k == 3 }
  | .mend => { major := 0x2c }
  | .wfm d a b => { major := 0x2c, srcs := [(a, 14), (b, 14)], sregs := [d], imm := a.k == 3 || b.k == 3 }
  | .fbar _ _ => { major := 0x2d }
  | .fbarM _ _ => { major := 0x2d }
  | .fbcast _ d _ => { major := 0x2d, sregs := [d] }
  | .fbcastTx _ s d _ => { major := 0x2d, sregs := [s, d] }
  | .fcomb _ s d o _ => { major := 0x2d, sregs := [s, d], res := decide (6 < o.toNat) }
  | .fpoll _ d _ => { major := 0x2d, sregs := [d] }
  | .get d a b _ => { major := 0x2e, srcs := [(a, 14), (b, 14)], sregs := [d], imm := a.k == 3 || b.k == 3 }
  | .put d a b _ => { major := 0x2e, srcs := [(a, 14), (b, 14)], sregs := [d], imm := a.k == 3 || b.k == 3 }
  | .getv _ a b _ => { major := 0x2e, srcs := [(a, 14), (b, 14)], imm := a.k == 3 || b.k == 3 }
  | .putv _ a b _ => { major := 0x2e, srcs := [(a, 14), (b, 14)], imm := a.k == 3 || b.k == 3 }
  | .equiv a _ => { major := 0x2e, srcs := [(a, 14)], imm := a.k == 3 }
  | .chsw d a b _ => { major := 0x2e, srcs := [(a, 14), (b, 14)], sregs := [d], imm := a.k == 3 || b.k == 3 }
  | .map a b _ => { major := 0x2f, srcs := [(a, 14), (b, 14)], imm := a.k == 3 || b.k == 3 }
  | .grant a b _ => { major := 0x2f, srcs := [(a, 14), (b, 14)], imm := a.k == 3 || b.k == 3 }
  | .unmap a b _ => { major := 0x2f, srcs := [(a, 14), (b, 14)], imm := a.k == 3 || b.k == 3 }
  | .unmapSelf a b _ => { major := 0x2f, srcs := [(a, 14), (b, 14)], imm := a.k == 3 || b.k == 3 }
  | .mapw d a _ => { major := 0x2f, srcs := [(a, 14)], sregs := [d], imm := a.k == 3 }
  | .csrr s _ => { major := 0x30, sregs := [s] }
  | .csrw s _ => { major := 0x30, sregs := [s] }
  | .eret => { major := 0x30 }
  | .pause => { major := 0x30 }
  | .brk => { major := 0x30 }
  | .halt => { major := 0x30 }
  | .accownWrite _ => eventInfo
  | .bindtabWrite _ => eventInfo
  | .watchdogWrite _ => eventInfo
  | .fpstatWrite _ => eventInfo
  | .faultReply _ => eventInfo
  | .lateFaultTrap _ _ => eventInfo
  | .watchdogDue _ _ => eventInfo
  | .watchdog _ _ => eventInfo
  | .preemptionRequest _ => eventInfo
  | .deadlineExpiry _ _ => eventInfo
  | .forcedSave _ _ => eventInfo
  | .remoteStoreArrival _ _ => eventInfo
  | .storeAcknowledge _ _ => eventInfo
  | .loadResponse _ _ _ => eventInfo
  | .rrbEviction _ _ => eventInfo
  | .ringEntryComplete _ _ => eventInfo
  | .matrixCommandFire _ => eventInfo
  | .matrixCommandComplete _ => eventInfo
  | .mmaRRequest _ => eventInfo
  | .mmaPRequest _ => eventInfo
  | .capabilityAnswer _ _ => eventInfo
  | .copyStart _ _ => eventInfo
  | .copyBegin _ _ => eventInfo
  | .copyChunk _ _ _ => eventInfo
  | .copyComplete _ _ => eventInfo
  | .messageArrival _ => eventInfo
  | .sendStatus _ _ => eventInfo
  | .heapReplay _ => eventInfo
  | .handlerStart _ => eventInfo
  | .handlerTrap _ => eventInfo
  | .migrateArrival _ _ => eventInfo
  | .strandDispatch _ _ _ => eventInfo
  | .stealRequest _ _ _ => eventInfo
  | .stealAnswer _ _ => eventInfo
  | .stealBackoffExpiry _ _ => eventInfo
  | .blockDeparture _ _ => eventInfo
  | .blockResolve _ _ => eventInfo
  | .acqRetry _ _ => eventInfo
  | .fbarMArrival _ _ => eventInfo
  | .footingRelease _ _ => eventInfo
  | .coursePreempted _ => eventInfo
  | .launchResume _ => eventInfo
  | .launch _ => eventInfo
  | .launchPlacement _ _ _ _ => eventInfo
  | .launchComplete _ => eventInfo
  | .doorbell _ _ _ _ => eventInfo
  | .signalStore _ => eventInfo
  | .signalAdd _ => eventInfo
  | .signalLandSet _ => eventInfo
  | .waitCounter _ => eventInfo
  | .waitLanding _ => eventInfo
  | .waitSatisfied _ => eventInfo
  | .mark _ => eventInfo
  | .queueCreate _ _ _ _ _ _ => eventInfo
  | .queueReset _ => eventInfo
  | .slotTick => eventInfo
  | .chainSwitchComplete _ _ => eventInfo
  | .chswLimitExpiry _ _ => eventInfo
  | .schedulerSwitchRequest _ _ _ => eventInfo
  | .mapRequest _ => eventInfo
  | .shootdownInvalidate _ _ => eventInfo
  | .shootdownAcknowledge _ _ => eventInfo
  | .withdrawalPoint _ => eventInfo
  | .spaceCreate _ _ _ _ => eventInfo
  | .spaceTeardown _ _ => eventInfo
  | .heatSweep => eventInfo
  | .ownershipTransferToA _ => eventInfo
  | .transferAnswer _ => eventInfo
  | .ownershipTimeout _ => eventInfo
  | .ownershipTransferToP _ => eventInfo
  | .hostAtomicUnsupported _ _ => eventInfo
  | .fallbackAnswer _ _ => eventInfo
  | .flushRead _ => eventInfo
  | .flushReadComplete _ => eventInfo
  | .heartbeatWrite _ _ => eventInfo
  | .heartbeatTimeout => eventInfo
  | .pairMismatch _ => eventInfo
  | .livenessWrite _ => eventInfo
  | .hostLoss => eventInfo
  | .queryState => eventInfo
  | .resync => eventInfo
  | .linkDown _ => eventInfo
  | .linkUp _ => eventInfo
  | .extentAdd _ _ _ => eventInfo
  | .extentRelease _ => eventInfo
  | .extentForcedRemoval _ => eventInfo
  | .farLinePoison _ => eventInfo
  | .load _ _ _ _ _ _ => eventInfo
  | .sessionEstablish _ => eventInfo
  | .keySet _ _ _ _ => eventInfo
  | .keyClear _ _ => eventInfo
  | .protect _ _ _ _ _ => eventInfo
  | .seal _ _ _ _ _ => eventInfo
  | .lock _ _ => eventInfo
  | .tokens _ _ => eventInfo
  | .attest _ _ => eventInfo
  | .migrateOut _ _ => eventInfo
  | .receipt _ _ => eventInfo
  | .release _ => eventInfo
  | .sessionTimeout _ => eventInfo
  | .graceExpiry _ => eventInfo
  | .worldAssign _ _ => eventInfo
  | .clearRoutine _ => eventInfo
  | .clearTimeout _ => eventInfo
  | .migrationActive _ => eventInfo
  | .abortedLost _ => eventInfo
  | .moduleReset _ => eventInfo
  | .routerFault _ => eventInfo
  | .sensorSample _ _ _ _ => eventInfo
  | .droopCutExpiry _ => eventInfo
  | .powerPeriod _ => eventInfo
  | .moduleCapSet _ => eventInfo
  | .snapshotTrigger => eventInfo
  | .snapshotLatch => eventInfo
  | .snapshotRead _ => eventInfo
  | .traceControlWrite _ _ _ => eventInfo
  | .traceClear _ => eventInfo
  | .stop _ _ => eventInfo
  | .stopTaken _ _ => eventInfo
  | .resume _ _ => eventInfo
  | .readReg _ _ => eventInfo
  | .writeReg _ _ => eventInfo
  | .readMem _ => eventInfo
  | .illegalOpcode _ => eventInfo
  | .pauseExpiry _ _ => eventInfo
  | .bar2Access _ _ _ => eventInfo
  | .regionHoldExpiry _ => eventInfo
  | .uncorrectableSoftError _ => eventInfo
  | .farLineRepair _ => eventInfo
  | .powerGating _ => eventInfo
  | .faultServiceTargetSet _ _ _ _ _ _ _ => eventInfo
  | .runtimeEntrySet _ _ => eventInfo
  | .closedNodeRemoval _ => eventInfo
  | .gracePeriodSet _ _ => eventInfo
  | .sessionHeartbeat _ => eventInfo

/-- The tag of a source is in its operand's accepted set (R68). -/
def tagOk (x : Src × Nat) : Bool := x.2.testBit x.1.k.toNat

/-- A scalar source's field has bit 4 clear (R67). -/
def scalarFieldOk (x : Src × Nat) : Bool := !(x.1.k == 1 && x.1.n.getLsbD 4)

/-- The trap that the fields of an instruction raise by themselves, in the order of R81; none if they raise none. -/
def Instr.encTrap (i : Instr) : Option EncTrap :=
  if i.info.ill then some .illegal
  else if i.info.res || !i.info.srcs.all scalarFieldOk then some .reserved
  else if !i.info.srcs.all tagOk then some .kindTag
  else none

/-- An instruction is well-formed when its fields raise no trap by themselves (R81). -/
abbrev WellFormed (i : Instr) : Prop := i.encTrap = none

/-- Scalar registers that an instruction's fields name, sources included (for R187). -/
def Instr.scalars (i : Instr) : List Nat :=
  i.info.sregs.map BitVec.toNat ++ (i.info.srcs.filter (fun x => x.1.k == 1)).map (fun x => x.1.n.toNat)

end Sys2Proof
end

