-- ==== Sys2Proof/Decode.lean ====
section
/-! DEFINITION. Decoding and encoding of instruction words (R62 to R67, R80, R81). A word that matches a row of the opcode
map decodes to that row's instruction with the fields the row gives it; every other word is rejected by the name of its
trap. -/

namespace Sys2Proof

/-- The n-bit field of a word that starts at bit lo (R62). -/
def fieldAt (w lo n : Nat) : BitVec n := BitVec.ofNat n (w / 2 ^ lo)

/-- The source whose tag starts at bit kl and whose field starts at bit al (R67). -/
def srcAt (w kl al : Nat) : Src := ⟨fieldAt w kl 2, fieldAt w al 5⟩

/-- Rows of major 0x1 (R80). -/
def row01 (w : Nat) : Option Instr :=
  if bits w 3 0 = 0 ∧ bits w 25 22 = 0 then some (.add (fieldAt w 18 4) (srcAt w 16 11) (srcAt w 9 4))
  else if bits w 3 0 = 1 ∧ bits w 25 22 = 0 then some (.sub (fieldAt w 18 4) (srcAt w 16 11) (srcAt w 9 4))
  else if bits w 3 0 = 2 ∧ bits w 25 22 = 0 then some (.min (fieldAt w 18 4) (srcAt w 16 11) (srcAt w 9 4))
  else if bits w 3 0 = 3 ∧ bits w 25 22 = 0 then some (.max (fieldAt w 18 4) (srcAt w 16 11) (srcAt w 9 4))
  else if bits w 3 0 = 4 ∧ bits w 25 22 = 0 then some (.minu (fieldAt w 18 4) (srcAt w 16 11) (srcAt w 9 4))
  else if bits w 3 0 = 5 ∧ bits w 25 22 = 0 then some (.maxu (fieldAt w 18 4) (srcAt w 16 11) (srcAt w 9 4))
  else none

/-- Rows of major 0x2 (R80). -/
def row02 (w : Nat) : Option Instr :=
  if bits w 3 0 = 0 ∧ bits w 25 22 = 0 then some (.and (fieldAt w 18 4) (srcAt w 16 11) (srcAt w 9 4))
  else if bits w 3 0 = 1 ∧ bits w 25 22 = 0 then some (.or (fieldAt w 18 4) (srcAt w 16 11) (srcAt w 9 4))
  else if bits w 3 0 = 2 ∧ bits w 25 22 = 0 then some (.xor (fieldAt w 18 4) (srcAt w 16 11) (srcAt w 9 4))
  else if bits w 3 0 = 3 ∧ bits w 25 22 = 0 then some (.andn (fieldAt w 18 4) (srcAt w 16 11) (srcAt w 9 4))
  else if bits w 3 0 = 4 ∧ bits w 25 22 = 0 then some (.shl (fieldAt w 18 4) (srcAt w 16 11) (srcAt w 9 4))
  else if bits w 3 0 = 5 ∧ bits w 25 22 = 0 then some (.shr (fieldAt w 18 4) (srcAt w 16 11) (srcAt w 9 4))
  else if bits w 3 0 = 6 ∧ bits w 25 22 = 0 then some (.sar (fieldAt w 18 4) (srcAt w 16 11) (srcAt w 9 4))
  else if bits w 3 0 = 7 ∧ bits w 25 22 = 0 then some (.rol (fieldAt w 18 4) (srcAt w 16 11) (srcAt w 9 4))
  else if bits w 10 0 = 8 ∧ bits w 25 22 = 0 then some (.clz (fieldAt w 18 4) (srcAt w 16 11))
  else if bits w 10 0 = 9 ∧ bits w 25 22 = 0 then some (.ctz (fieldAt w 18 4) (srcAt w 16 11))
  else if bits w 10 0 = 10 ∧ bits w 25 22 = 0 then some (.popc (fieldAt w 18 4) (srcAt w 16 11))
  else none

/-- Rows of major 0x3 (R80). -/
def row03 (w : Nat) : Option Instr :=
  if bits w 3 0 = 0 ∧ bits w 25 22 = 0 then some (.seq (fieldAt w 18 4) (srcAt w 16 11) (srcAt w 9 4))
  else if bits w 3 0 = 1 ∧ bits w 25 22 = 0 then some (.sne (fieldAt w 18 4) (srcAt w 16 11) (srcAt w 9 4))
  else if bits w 3 0 = 2 ∧ bits w 25 22 = 0 then some (.slt (fieldAt w 18 4) (srcAt w 16 11) (srcAt w 9 4))
  else if bits w 3 0 = 3 ∧ bits w 25 22 = 0 then some (.sltu (fieldAt w 18 4) (srcAt w 16 11) (srcAt w 9 4))
  else if bits w 3 0 = 4 ∧ bits w 25 22 = 0 then some (.sle (fieldAt w 18 4) (srcAt w 16 11) (srcAt w 9 4))
  else if bits w 3 0 = 5 ∧ bits w 25 22 = 0 then some (.sleu (fieldAt w 18 4) (srcAt w 16 11) (srcAt w 9 4))
  else if bits w 3 0 = 6 ∧ bits w 25 22 = 0 then some (.sel (fieldAt w 18 4) (srcAt w 16 11) (srcAt w 9 4))
  else none

/-- Rows of major 0x4 (R80). -/
def row04 (w : Nat) : Option Instr :=
  if bits w 3 0 = 0 ∧ bits w 25 22 = 0 then some (.mul (fieldAt w 18 4) (srcAt w 16 11) (srcAt w 9 4))
  else if bits w 3 0 = 1 ∧ bits w 25 22 = 0 then some (.mulh (fieldAt w 18 4) (srcAt w 16 11) (srcAt w 9 4))
  else if bits w 3 0 = 2 ∧ bits w 25 22 = 0 then some (.mulhu (fieldAt w 18 4) (srcAt w 16 11) (srcAt w 9 4))
  else if bits w 3 0 = 3 ∧ bits w 25 22 = 0 then some (.div (fieldAt w 18 4) (srcAt w 16 11) (srcAt w 9 4))
  else if bits w 3 0 = 4 ∧ bits w 25 22 = 0 then some (.divu (fieldAt w 18 4) (srcAt w 16 11) (srcAt w 9 4))
  else if bits w 3 0 = 5 ∧ bits w 25 22 = 0 then some (.rem (fieldAt w 18 4) (srcAt w 16 11) (srcAt w 9 4))
  else if bits w 3 0 = 6 ∧ bits w 25 22 = 0 then some (.remu (fieldAt w 18 4) (srcAt w 16 11) (srcAt w 9 4))
  else none

/-- Rows of major 0x5 (R80). -/
def row05 (w : Nat) : Option Instr :=
  if bits w 3 0 = 0 ∧ bits w 25 22 = 0 then some (.clmul (fieldAt w 18 4) (srcAt w 16 11) (srcAt w 9 4))
  else if bits w 3 0 = 1 ∧ bits w 25 22 = 0 then some (.clmulh (fieldAt w 18 4) (srcAt w 16 11) (srcAt w 9 4))
  else if bits w 10 0 = 2 ∧ bits w 25 22 = 0 then some (.bswap (fieldAt w 18 4) (srcAt w 16 11))
  else none

/-- Rows of major 0x6 (R80). -/
def row06 (w : Nat) : Option Instr :=
  some (.addI (fieldAt w 22 4) (fieldAt w 18 4) (fieldAt w 0 18))

/-- Rows of major 0x7 (R80). -/
def row07 (w : Nat) : Option Instr :=
  some (.andI (fieldAt w 22 4) (fieldAt w 18 4) (fieldAt w 0 18))

/-- Rows of major 0x8 (R80). -/
def row08 (w : Nat) : Option Instr :=
  some (.orI (fieldAt w 22 4) (fieldAt w 18 4) (fieldAt w 0 18))

/-- Rows of major 0x9 (R80). -/
def row09 (w : Nat) : Option Instr :=
  some (.xorI (fieldAt w 22 4) (fieldAt w 18 4) (fieldAt w 0 18))

/-- Rows of major 0xa (R80). -/
def row0A (w : Nat) : Option Instr :=
  if bits w 17 6 = 0 then some (.shlI (fieldAt w 22 4) (fieldAt w 18 4) (fieldAt w 0 6))
  else if bits w 17 6 = 1024 then some (.shrI (fieldAt w 22 4) (fieldAt w 18 4) (fieldAt w 0 6))
  else if bits w 17 6 = 2048 then some (.sarI (fieldAt w 22 4) (fieldAt w 18 4) (fieldAt w 0 6))
  else none

/-- Rows of major 0xb (R80). -/
def row0B (w : Nat) : Option Instr :=
  if bits w 17 17 = 0 then some (.sltI (fieldAt w 22 4) (fieldAt w 18 4) (fieldAt w 0 17))
  else if bits w 17 17 = 1 then some (.sltuI (fieldAt w 22 4) (fieldAt w 18 4) (fieldAt w 0 17))
  else none

/-- Rows of major 0xc (R80). -/
def row0C (w : Nat) : Option Instr :=
  if bits w 25 23 = 0 then some (.beq (fieldAt w 19 4) (fieldAt w 15 4) (fieldAt w 0 15))
  else if bits w 25 23 = 1 then some (.bne (fieldAt w 19 4) (fieldAt w 15 4) (fieldAt w 0 15))
  else if bits w 25 23 = 2 then some (.blt (fieldAt w 19 4) (fieldAt w 15 4) (fieldAt w 0 15))
  else if bits w 25 23 = 3 then some (.bge (fieldAt w 19 4) (fieldAt w 15 4) (fieldAt w 0 15))
  else if bits w 25 23 = 4 then some (.bltu (fieldAt w 19 4) (fieldAt w 15 4) (fieldAt w 0 15))
  else if bits w 25 23 = 5 then some (.bgeu (fieldAt w 19 4) (fieldAt w 15 4) (fieldAt w 0 15))
  else if bits w 25 23 = 6 then some (.bz (fieldAt w 19 4) (fieldAt w 0 19))
  else if bits w 25 23 = 7 then some (.bnz (fieldAt w 19 4) (fieldAt w 0 19))
  else none

/-- Rows of major 0xd (R80). -/
def row0D (w : Nat) : Option Instr :=
  some (.jmp (fieldAt w 0 26))

/-- Rows of major 0xe (R80). -/
def row0E (w : Nat) : Option Instr :=
  some (.call (fieldAt w 0 26))

/-- Rows of major 0xf (R80). -/
def row0F (w : Nat) : Option Instr :=
  if bits w 10 0 = 0 ∧ bits w 25 15 = 2 then some (.jr (fieldAt w 11 4))
  else if bits w 10 0 = 1 ∧ bits w 25 15 = 2 then some (.callr (fieldAt w 11 4))
  else if bits w 25 0 = 2 then some (.ret)
  else if bits w 25 0 = 3 then some (.yield)
  else if bits w 25 0 = 4 then some (.exit)
  else if bits w 25 0 = 5 then some (.trap)
  else if bits w 25 0 = 6 then some (.nop)
  else none

/-- Rows of major 0x10 (R80). -/
def row10 (w : Nat) : Option Instr :=
  if bits w 25 24 = 0 then some (.hintImm (fieldAt w 0 24))
  else if bits w 25 24 = 1 then some (.hintMod (fieldAt w 0 24))
  else if bits w 25 24 = 2 then some (.hintSched (fieldAt w 0 24))
  else none

/-- Rows of major 0x11 (R80). -/
def row11 (w : Nat) : Option Instr :=
  if bits w 16 15 = 0 ∧ bits w 25 25 = 0 then some (.ldB (fieldAt w 21 4) (fieldAt w 17 4) (fieldAt w 4 11) (fieldAt w 0 4))
  else if bits w 16 15 = 0 ∧ bits w 25 25 = 1 then some (.ldBs (fieldAt w 21 4) (fieldAt w 17 4) (fieldAt w 4 11) (fieldAt w 0 4))
  else if bits w 16 15 = 1 ∧ bits w 25 25 = 0 then some (.ldH (fieldAt w 21 4) (fieldAt w 17 4) (fieldAt w 4 11) (fieldAt w 0 4))
  else if bits w 16 15 = 1 ∧ bits w 25 25 = 1 then some (.ldHs (fieldAt w 21 4) (fieldAt w 17 4) (fieldAt w 4 11) (fieldAt w 0 4))
  else if bits w 16 15 = 2 ∧ bits w 25 25 = 0 then some (.ldW (fieldAt w 21 4) (fieldAt w 17 4) (fieldAt w 4 11) (fieldAt w 0 4))
  else if bits w 16 15 = 2 ∧ bits w 25 25 = 1 then some (.ldWs (fieldAt w 21 4) (fieldAt w 17 4) (fieldAt w 4 11) (fieldAt w 0 4))
  else if bits w 16 15 = 3 ∧ bits w 25 25 = 0 then some (.ldD (fieldAt w 21 4) (fieldAt w 17 4) (fieldAt w 4 11) (fieldAt w 0 4))
  else none

/-- Rows of major 0x12 (R80). -/
def row12 (w : Nat) : Option Instr :=
  if bits w 3 0 = 0 ∧ bits w 16 15 = 0 ∧ bits w 25 25 = 0 then some (.stB (fieldAt w 21 4) (fieldAt w 17 4) (fieldAt w 4 11))
  else if bits w 3 0 = 0 ∧ bits w 16 15 = 1 ∧ bits w 25 25 = 0 then some (.stH (fieldAt w 21 4) (fieldAt w 17 4) (fieldAt w 4 11))
  else if bits w 3 0 = 0 ∧ bits w 16 15 = 2 ∧ bits w 25 25 = 0 then some (.stW (fieldAt w 21 4) (fieldAt w 17 4) (fieldAt w 4 11))
  else if bits w 3 0 = 0 ∧ bits w 16 15 = 3 ∧ bits w 25 25 = 0 then some (.stD (fieldAt w 21 4) (fieldAt w 17 4) (fieldAt w 4 11))
  else none

/-- Rows of major 0x13 (R80). -/
def row13 (w : Nat) : Option Instr :=
  if bits w 13 11 = 0 then some (.amoAdd (fieldAt w 22 4) (fieldAt w 18 4) (fieldAt w 14 4) (fieldAt w 8 3) (fieldAt w 4 4) (fieldAt w 0 4))
  else if bits w 13 11 = 1 then some (.amoXchg (fieldAt w 22 4) (fieldAt w 18 4) (fieldAt w 14 4) (fieldAt w 8 3) (fieldAt w 4 4) (fieldAt w 0 4))
  else if bits w 13 11 = 2 then some (.amoCas (fieldAt w 22 4) (fieldAt w 18 4) (fieldAt w 14 4) (fieldAt w 8 3) (fieldAt w 4 4) (fieldAt w 0 4))
  else if bits w 13 11 = 3 then some (.amoMin (fieldAt w 22 4) (fieldAt w 18 4) (fieldAt w 14 4) (fieldAt w 8 3) (fieldAt w 4 4) (fieldAt w 0 4))
  else if bits w 13 11 = 4 then some (.amoMax (fieldAt w 22 4) (fieldAt w 18 4) (fieldAt w 14 4) (fieldAt w 8 3) (fieldAt w 4 4) (fieldAt w 0 4))
  else if bits w 13 11 = 5 then some (.amoAnd (fieldAt w 22 4) (fieldAt w 18 4) (fieldAt w 14 4) (fieldAt w 8 3) (fieldAt w 4 4) (fieldAt w 0 4))
  else if bits w 13 11 = 6 then some (.amoOr (fieldAt w 22 4) (fieldAt w 18 4) (fieldAt w 14 4) (fieldAt w 8 3) (fieldAt w 4 4) (fieldAt w 0 4))
  else if bits w 13 11 = 7 then some (.amoXor (fieldAt w 22 4) (fieldAt w 18 4) (fieldAt w 14 4) (fieldAt w 8 3) (fieldAt w 4 4) (fieldAt w 0 4))
  else none

/-- Rows of major 0x14 (R80). -/
def row14 (w : Nat) : Option Instr :=
  if bits w 3 0 = 0 ∧ bits w 25 18 = 0 then some (.bind (srcAt w 16 11) (srcAt w 9 4))
  else if bits w 3 0 = 1 ∧ bits w 25 18 = 0 then some (.unbind (srcAt w 16 11) (srcAt w 9 4))
  else if bits w 3 0 = 2 ∧ bits w 25 22 = 0 then some (.acq (fieldAt w 18 4) (srcAt w 16 11) (srcAt w 9 4))
  else if bits w 25 0 = 3 then some (.acqAll)
  else if bits w 3 0 = 4 ∧ bits w 25 18 = 0 then some (.rel (srcAt w 16 11) (srcAt w 9 4))
  else if bits w 25 0 = 5 then some (.fenceS)
  else if bits w 3 0 = 6 ∧ bits w 25 18 = 0 then some (.fenceX (srcAt w 16 11) (srcAt w 9 4))
  else if bits w 3 0 = 7 ∧ bits w 25 18 = 0 then some (.landSet (srcAt w 16 11) (srcAt w 9 4))
  else none

/-- Rows of major 0x15 (R80). -/
def row15 (w : Nat) : Option Instr :=
  if bits w 16 15 = 0 then some (.vld (fieldAt w 21 5) (fieldAt w 17 4) (fieldAt w 4 11) (fieldAt w 0 4))
  else if bits w 3 0 = 0 ∧ bits w 16 15 = 1 then some (.vst (fieldAt w 21 5) (fieldAt w 17 4) (fieldAt w 4 11))
  else if bits w 16 15 = 2 ∧ bits w 21 21 = 0 then some (.vldp (fieldAt w 22 4) (fieldAt w 17 4) (fieldAt w 4 11) (fieldAt w 0 4))
  else if bits w 3 0 = 0 ∧ bits w 16 15 = 3 ∧ bits w 21 21 = 0 then some (.vstp (fieldAt w 22 4) (fieldAt w 17 4) (fieldAt w 4 11))
  else none

/-- Rows of major 0x16 (R80). -/
def row16 (w : Nat) : Option Instr :=
  if bits w 10 9 = 0 ∧ bits w 25 25 = 0 then some (.vgather (fieldAt w 23 2) (fieldAt w 18 5) (srcAt w 16 11) (fieldAt w 4 5) (fieldAt w 0 4))
  else if bits w 10 9 = 0 ∧ bits w 25 25 = 1 then some (.vscatter (fieldAt w 23 2) (fieldAt w 18 5) (srcAt w 16 11) (fieldAt w 4 5) (fieldAt w 0 4))
  else none

/-- Rows of major 0x17 (R80). -/
def row17 (w : Nat) : Option Instr :=
  if bits w 25 23 = 0 then some (.vadd (fieldAt w 18 5) (srcAt w 16 11) (srcAt w 9 4) (fieldAt w 2 2) (fieldAt w 0 2))
  else if bits w 25 23 = 1 then some (.vsub (fieldAt w 18 5) (srcAt w 16 11) (srcAt w 9 4) (fieldAt w 2 2) (fieldAt w 0 2))
  else if bits w 3 2 = 0 ∧ bits w 25 23 = 2 then some (.vmul (fieldAt w 18 5) (srcAt w 16 11) (srcAt w 9 4) (fieldAt w 0 2))
  else if bits w 3 2 = 0 ∧ bits w 25 23 = 3 then some (.vmulh (fieldAt w 18 5) (srcAt w 16 11) (srcAt w 9 4) (fieldAt w 0 2))
  else none

/-- Rows of major 0x18 (R80). -/
def row18 (w : Nat) : Option Instr :=
  if bits w 3 2 = 0 ∧ bits w 25 23 = 0 then some (.vmin (fieldAt w 18 5) (srcAt w 16 11) (srcAt w 9 4) (fieldAt w 0 2))
  else if bits w 3 2 = 0 ∧ bits w 25 23 = 1 then some (.vmax (fieldAt w 18 5) (srcAt w 16 11) (srcAt w 9 4) (fieldAt w 0 2))
  else if bits w 10 3 = 0 ∧ bits w 25 23 = 2 then some (.vabs (fieldAt w 18 5) (srcAt w 16 11) (fieldAt w 2 1) (fieldAt w 0 2))
  else if bits w 10 3 = 0 ∧ bits w 25 23 = 3 then some (.vneg (fieldAt w 18 5) (srcAt w 16 11) (fieldAt w 2 1) (fieldAt w 0 2))
  else none

/-- Rows of major 0x19 (R80). -/
def row19 (w : Nat) : Option Instr :=
  if bits w 3 0 = 0 ∧ bits w 25 23 = 0 then some (.vand (fieldAt w 18 5) (srcAt w 16 11) (srcAt w 9 4))
  else if bits w 3 0 = 0 ∧ bits w 25 23 = 1 then some (.vor (fieldAt w 18 5) (srcAt w 16 11) (srcAt w 9 4))
  else if bits w 3 0 = 0 ∧ bits w 25 23 = 2 then some (.vxor (fieldAt w 18 5) (srcAt w 16 11) (srcAt w 9 4))
  else if bits w 3 0 = 0 ∧ bits w 25 23 = 3 then some (.vandn (fieldAt w 18 5) (srcAt w 16 11) (srcAt w 9 4))
  else none

/-- Rows of major 0x1a (R80). -/
def row1A (w : Nat) : Option Instr :=
  if bits w 3 2 = 0 ∧ bits w 25 23 = 0 then some (.vshl (fieldAt w 18 5) (srcAt w 16 11) (srcAt w 9 4) (fieldAt w 0 2))
  else if bits w 3 2 = 0 ∧ bits w 25 23 = 1 then some (.vshr (fieldAt w 18 5) (srcAt w 16 11) (srcAt w 9 4) (fieldAt w 0 2))
  else if bits w 3 2 = 0 ∧ bits w 25 23 = 2 then some (.vsar (fieldAt w 18 5) (srcAt w 16 11) (srcAt w 9 4) (fieldAt w 0 2))
  else none

/-- Rows of major 0x1b (R80). -/
def row1B (w : Nat) : Option Instr :=
  if bits w 3 2 = 0 ∧ bits w 25 21 = 0 then some (.vcmpEq (fieldAt w 18 3) (srcAt w 16 11) (srcAt w 9 4) (fieldAt w 0 2))
  else if bits w 3 2 = 0 ∧ bits w 25 21 = 4 then some (.vcmpNe (fieldAt w 18 3) (srcAt w 16 11) (srcAt w 9 4) (fieldAt w 0 2))
  else if bits w 3 2 = 0 ∧ bits w 25 21 = 8 then some (.vcmpLt (fieldAt w 18 3) (srcAt w 16 11) (srcAt w 9 4) (fieldAt w 0 2))
  else if bits w 3 2 = 0 ∧ bits w 25 21 = 12 then some (.vcmpLe (fieldAt w 18 3) (srcAt w 16 11) (srcAt w 9 4) (fieldAt w 0 2))
  else if bits w 3 2 = 0 ∧ bits w 25 21 = 16 then some (.vcmpLtu (fieldAt w 18 3) (srcAt w 16 11) (srcAt w 9 4) (fieldAt w 0 2))
  else if bits w 3 2 = 0 ∧ bits w 25 21 = 20 then some (.vcmpLeu (fieldAt w 18 3) (srcAt w 16 11) (srcAt w 9 4) (fieldAt w 0 2))
  else none

/-- Rows of major 0x1c (R80). -/
def row1C (w : Nat) : Option Instr :=
  if bits w 3 2 = 0 ∧ bits w 25 23 = 0 then some (.vfadd (fieldAt w 18 5) (srcAt w 16 11) (srcAt w 9 4) (fieldAt w 0 2))
  else if bits w 3 2 = 0 ∧ bits w 25 23 = 1 then some (.vfsub (fieldAt w 18 5) (srcAt w 16 11) (srcAt w 9 4) (fieldAt w 0 2))
  else if bits w 3 2 = 0 ∧ bits w 25 23 = 2 then some (.vfmul (fieldAt w 18 5) (srcAt w 16 11) (srcAt w 9 4) (fieldAt w 0 2))
  else if bits w 3 2 = 0 ∧ bits w 25 23 = 3 then some (.vfmin (fieldAt w 18 5) (srcAt w 16 11) (srcAt w 9 4) (fieldAt w 0 2))
  else if bits w 3 2 = 0 ∧ bits w 25 23 = 4 then some (.vfmax (fieldAt w 18 5) (srcAt w 16 11) (srcAt w 9 4) (fieldAt w 0 2))
  else if bits w 10 2 = 0 ∧ bits w 25 23 = 5 then some (.vrcp (fieldAt w 18 5) (srcAt w 16 11) (fieldAt w 0 2))
  else if bits w 10 2 = 0 ∧ bits w 25 23 = 6 then some (.vrsqrt (fieldAt w 18 5) (srcAt w 16 11) (fieldAt w 0 2))
  else none

/-- Rows of major 0x1d (R80). -/
def row1D (w : Nat) : Option Instr :=
  if bits w 3 2 = 0 ∧ bits w 25 21 = 0 then some (.vfcmpEq (fieldAt w 18 3) (srcAt w 16 11) (srcAt w 9 4) (fieldAt w 0 2))
  else if bits w 3 2 = 0 ∧ bits w 25 21 = 4 then some (.vfcmpLt (fieldAt w 18 3) (srcAt w 16 11) (srcAt w 9 4) (fieldAt w 0 2))
  else if bits w 3 2 = 0 ∧ bits w 25 21 = 8 then some (.vfcmpLe (fieldAt w 18 3) (srcAt w 16 11) (srcAt w 9 4) (fieldAt w 0 2))
  else if bits w 3 2 = 0 ∧ bits w 25 21 = 12 then some (.vfcmpUn (fieldAt w 18 3) (srcAt w 16 11) (srcAt w 9 4) (fieldAt w 0 2))
  else none

/-- Rows of major 0x1e (R80). -/
def row1E (w : Nat) : Option Instr :=
  if bits w 23 23 = 0 then some (.vfdiv (fieldAt w 24 2) (fieldAt w 18 5) (srcAt w 16 11) (srcAt w 9 4) (fieldAt w 0 4))
  else if bits w 10 4 = 0 ∧ bits w 23 23 = 1 then some (.vfsqrt (fieldAt w 24 2) (fieldAt w 18 5) (srcAt w 16 11) (fieldAt w 0 4))
  else none

/-- Rows of major 0x1f (R80). -/
def row1F (w : Nat) : Option Instr :=
  if bits w 1 0 = 0 then some (.vfma (fieldAt w 21 5) (fieldAt w 16 5) (srcAt w 14 9) (srcAt w 7 2))
  else if bits w 1 0 = 1 then some (.vfms (fieldAt w 21 5) (fieldAt w 16 5) (srcAt w 14 9) (srcAt w 7 2))
  else none

/-- Rows of major 0x20 (R80). -/
def row20 (w : Nat) : Option Instr :=
  if bits w 4 4 = 0 ∧ bits w 10 7 = 0 ∧ bits w 17 16 = 0 ∧ bits w 25 23 = 7 then some (.vdec4 (fieldAt w 18 5) (fieldAt w 11 5) (fieldAt w 5 2) (fieldAt w 0 4))
  else if bits w 4 2 = 4 ∧ bits w 10 7 = 0 ∧ bits w 17 16 = 0 ∧ bits w 25 23 = 7 then some (.venc4 (fieldAt w 18 5) (fieldAt w 11 5) (fieldAt w 5 2) (fieldAt w 0 2))
  else if bits w 3 3 = 0 ∧ bits w 10 9 = 0 ∧ bits w 17 16 = 0 ∧ bits w 25 23 ≠ 7 then some (.vcvt (fieldAt w 23 3) (fieldAt w 18 5) (fieldAt w 11 5) (fieldAt w 8 1) (fieldAt w 6 2) (fieldAt w 4 2) (fieldAt w 0 3))
  else none

/-- Rows of major 0x21 (R80). -/
def row21 (w : Nat) : Option Instr :=
  if bits w 10 2 = 0 ∧ bits w 25 23 = 0 then some (.vbcast (fieldAt w 18 5) (srcAt w 16 11) (fieldAt w 0 2))
  else if bits w 3 2 = 0 ∧ bits w 25 23 = 1 then some (.vperm (fieldAt w 18 5) (srcAt w 16 11) (srcAt w 9 4) (fieldAt w 0 2))
  else if bits w 3 2 = 0 ∧ bits w 25 23 = 2 then some (.vshuf (fieldAt w 18 5) (srcAt w 16 11) (srcAt w 9 4) (fieldAt w 0 2))
  else if bits w 3 2 = 0 ∧ bits w 25 23 = 3 then some (.vslide (fieldAt w 18 5) (srcAt w 16 11) (srcAt w 9 4) (fieldAt w 0 2))
  else none

/-- Rows of major 0x22 (R80). -/
def row22 (w : Nat) : Option Instr :=
  if bits w 3 2 = 0 ∧ bits w 17 16 = 0 ∧ bits w 25 22 = 0 then some (.vredadd (fieldAt w 18 4) (fieldAt w 11 5) (srcAt w 9 4) (fieldAt w 0 2))
  else if bits w 3 2 = 0 ∧ bits w 17 16 = 0 ∧ bits w 25 22 = 2 then some (.vredmin (fieldAt w 18 4) (fieldAt w 11 5) (srcAt w 9 4) (fieldAt w 0 2))
  else if bits w 3 2 = 0 ∧ bits w 17 16 = 0 ∧ bits w 25 22 = 4 then some (.vredmax (fieldAt w 18 4) (fieldAt w 11 5) (srcAt w 9 4) (fieldAt w 0 2))
  else if bits w 3 2 = 0 ∧ bits w 17 16 = 0 ∧ bits w 25 22 = 6 then some (.vfredadd (fieldAt w 18 4) (fieldAt w 11 5) (srcAt w 9 4) (fieldAt w 0 2))
  else none

/-- Rows of major 0x23 (R80). -/
def row23 (w : Nat) : Option Instr :=
  if bits w 3 2 = 0 ∧ bits w 25 23 = 0 then some (.vcompress (fieldAt w 18 5) (srcAt w 16 11) (srcAt w 9 4) (fieldAt w 0 2))
  else if bits w 3 2 = 0 ∧ bits w 25 23 = 1 then some (.vexpand (fieldAt w 18 5) (srcAt w 16 11) (srcAt w 9 4) (fieldAt w 0 2))
  else if bits w 10 2 = 0 ∧ bits w 25 23 = 2 then some (.vpopc (fieldAt w 18 5) (srcAt w 16 11) (fieldAt w 0 2))
  else if bits w 3 2 = 0 ∧ bits w 25 23 = 3 then some (.vclmul (fieldAt w 18 5) (srcAt w 16 11) (srcAt w 9 4) (fieldAt w 0 2))
  else if bits w 3 2 = 0 ∧ bits w 25 23 = 4 then some (.vprefixAdd (fieldAt w 18 5) (srcAt w 16 11) (srcAt w 9 4) (fieldAt w 0 2))
  else none

/-- Rows of major 0x24 (R80). -/
def row24 (w : Nat) : Option Instr :=
  if bits w 3 0 = 0 ∧ bits w 10 7 = 0 ∧ bits w 17 14 = 0 ∧ bits w 25 21 = 0 then some (.pand (fieldAt w 18 3) (fieldAt w 11 3) (fieldAt w 4 3))
  else if bits w 3 0 = 1 ∧ bits w 10 7 = 0 ∧ bits w 17 14 = 0 ∧ bits w 25 21 = 0 then some (.por (fieldAt w 18 3) (fieldAt w 11 3) (fieldAt w 4 3))
  else if bits w 3 0 = 2 ∧ bits w 10 7 = 0 ∧ bits w 17 14 = 0 ∧ bits w 25 21 = 0 then some (.pxor (fieldAt w 18 3) (fieldAt w 11 3) (fieldAt w 4 3))
  else if bits w 10 0 = 3 ∧ bits w 17 14 = 0 ∧ bits w 25 21 = 0 then some (.pnot (fieldAt w 18 3) (fieldAt w 11 3))
  else if bits w 10 0 = 4 ∧ bits w 17 14 = 0 ∧ bits w 25 22 = 0 then some (.pcnt (fieldAt w 18 4) (fieldAt w 11 3))
  else if bits w 10 0 = 5 ∧ bits w 17 14 = 0 ∧ bits w 25 21 = 0 then some (.pfirst (fieldAt w 18 3) (fieldAt w 11 3))
  else if bits w 10 0 = 6 ∧ bits w 17 14 = 0 ∧ bits w 25 22 = 0 then some (.pmovS (fieldAt w 18 4) (fieldAt w 11 3))
  else if bits w 10 0 = 7 ∧ bits w 17 15 = 2 ∧ bits w 25 21 = 0 then some (.psMov (fieldAt w 18 3) (fieldAt w 11 4))
  else none

/-- Rows of major 0x25 (R80). -/
def row25 (w : Nat) : Option Instr :=
  if bits w 1 0 = 0 then some (.vsel (fieldAt w 21 5) (fieldAt w 16 5) (srcAt w 14 9) (srcAt w 7 2))
  else none

/-- Rows of major 0x26 (R80). -/
def row26 (w : Nat) : Option Instr :=
  if bits w 25 22 = 0 then some (.mma (fieldAt w 18 4) (fieldAt w 14 4) (fieldAt w 10 4) (fieldAt w 4 6) (fieldAt w 0 4))
  else if bits w 13 10 = 0 ∧ bits w 25 22 = 1 then some (.mmaR (fieldAt w 18 4) (fieldAt w 14 4) (fieldAt w 4 6) (fieldAt w 0 4))
  else if bits w 13 10 = 0 ∧ bits w 25 22 = 2 then some (.mmaP (fieldAt w 18 4) (fieldAt w 14 4) (fieldAt w 4 6) (fieldAt w 0 4))
  else none

/-- Rows of major 0x27 (R80). -/
def row27 (w : Nat) : Option Instr :=
  if bits w 25 4 = 0 then some (.accZero (fieldAt w 0 4))
  else if bits w 17 4 = 0 ∧ bits w 25 22 = 1 then some (.accLd (fieldAt w 18 4) (fieldAt w 0 4))
  else if bits w 17 4 = 0 ∧ bits w 25 22 = 2 then some (.accSt (fieldAt w 18 4) (fieldAt w 0 4))
  else none

/-- Rows of major 0x28 (R80). -/
def row28 (w : Nat) : Option Instr :=
  if bits w 10 4 = 0 ∧ bits w 25 22 = 0 then some (.mxOpen (fieldAt w 18 4) (srcAt w 16 11) (fieldAt w 0 4))
  else if bits w 10 4 = 0 ∧ bits w 25 22 = 2 then some (.mxClose (fieldAt w 18 4) (srcAt w 16 11) (fieldAt w 0 4))
  else if bits w 25 22 = 4 then some (.mxRing (fieldAt w 18 4) (srcAt w 16 11) (srcAt w 9 4) (fieldAt w 0 4))
  else none

/-- Rows of major 0x29 (R80). -/
def row29 (w : Nat) : Option Instr :=
  if bits w 13 0 = 0 ∧ bits w 25 22 = 0 then some (.bufSet (fieldAt w 18 4) (fieldAt w 14 4))
  else if bits w 13 0 = 0 ∧ bits w 25 22 = 1 then some (.bufAdvP (fieldAt w 18 4) (fieldAt w 14 4))
  else if bits w 13 0 = 16 ∧ bits w 25 22 = 1 then some (.bufAdvC (fieldAt w 18 4) (fieldAt w 14 4))
  else if bits w 13 0 = 0 ∧ bits w 25 22 = 2 then some (.bufQ (fieldAt w 18 4) (fieldAt w 14 4))
  else none

/-- Rows of major 0x2a (R80). -/
def row2A (w : Nat) : Option Instr :=
  if bits w 9 7 = 0 ∧ bits w 17 17 = 0 ∧ bits w 25 22 = 0 then some (.cpWait (fieldAt w 18 4) (fieldAt w 14 3) (fieldAt w 10 4) (fieldAt w 6 1) (fieldAt w 4 2) (fieldAt w 0 4))
  else if bits w 13 4 = 0 ∧ bits w 17 17 = 0 ∧ bits w 25 22 = 1 then some (.cpPtr (fieldAt w 18 4) (fieldAt w 14 3) (fieldAt w 0 4))
  else if bits w 25 4 = 524288 then some (.cpInv (fieldAt w 0 4))
  else none

/-- Rows of major 0x2b (R80). -/
def row2B (w : Nat) : Option Instr :=
  if bits w 3 0 = 0 ∧ bits w 25 18 = 0 then some (.fork (srcAt w 16 11) (srcAt w 9 4))
  else if bits w 10 0 = 1 ∧ bits w 25 18 = 0 then some (.join (srcAt w 16 11))
  else if bits w 10 0 = 2 ∧ bits w 25 18 = 0 then some (.migrate (srcAt w 16 11))
  else if bits w 10 0 = 3 ∧ bits w 25 18 = 0 then some (.texit (srcAt w 16 11))
  else if bits w 10 0 = 4 ∧ bits w 25 22 = 0 then some (.spawnG (fieldAt w 18 4) (srcAt w 16 11))
  else none

/-- Rows of major 0x2c (R80). -/
def row2C (w : Nat) : Option Instr :=
  if bits w 25 22 = 0 then some (.send (fieldAt w 18 4) (srcAt w 16 11) (srcAt w 9 4) (fieldAt w 0 4))
  else if bits w 25 22 = 2 then some (.sendh (fieldAt w 18 4) (srcAt w 16 11) (srcAt w 9 4) (fieldAt w 0 4))
  else if bits w 25 0 = 16777216 then some (.mend)
  else if bits w 3 0 = 0 ∧ bits w 25 22 = 6 then some (.wfm (fieldAt w 18 4) (srcAt w 16 11) (srcAt w 9 4))
  else none

/-- Rows of major 0x2d (R80). -/
def row2D (w : Nat) : Option Instr :=
  if bits w 16 4 = 0 ∧ bits w 25 23 = 0 then some (.fbar (fieldAt w 17 6) (fieldAt w 0 4))
  else if bits w 16 4 = 0 ∧ bits w 25 23 = 1 then some (.fbarM (fieldAt w 17 6) (fieldAt w 0 4))
  else if bits w 8 4 = 0 ∧ bits w 16 13 = 0 ∧ bits w 25 23 = 2 then some (.fbcast (fieldAt w 17 6) (fieldAt w 9 4) (fieldAt w 0 4))
  else if bits w 8 4 = 1 ∧ bits w 25 23 = 2 then some (.fbcastTx (fieldAt w 17 6) (fieldAt w 13 4) (fieldAt w 9 4) (fieldAt w 0 4))
  else if bits w 25 23 = 3 then some (.fcomb (fieldAt w 17 6) (fieldAt w 13 4) (fieldAt w 9 4) (fieldAt w 4 5) (fieldAt w 0 4))
  else if bits w 8 4 = 0 ∧ bits w 16 13 = 0 ∧ bits w 25 23 = 4 then some (.fpoll (fieldAt w 17 6) (fieldAt w 9 4) (fieldAt w 0 4))
  else none

/-- Rows of major 0x2e (R80). -/
def row2E (w : Nat) : Option Instr :=
  if bits w 25 22 = 0 then some (.get (fieldAt w 18 4) (srcAt w 16 11) (srcAt w 9 4) (fieldAt w 0 4))
  else if bits w 25 22 = 2 then some (.put (fieldAt w 18 4) (srcAt w 16 11) (srcAt w 9 4) (fieldAt w 0 4))
  else if bits w 25 23 = 2 then some (.getv (fieldAt w 18 5) (srcAt w 16 11) (srcAt w 9 4) (fieldAt w 0 4))
  else if bits w 25 23 = 3 then some (.putv (fieldAt w 18 5) (srcAt w 16 11) (srcAt w 9 4) (fieldAt w 0 4))
  else if bits w 10 4 = 0 ∧ bits w 25 18 = 128 then some (.equiv (srcAt w 16 11) (fieldAt w 0 4))
  else if bits w 25 22 = 10 then some (.chsw (fieldAt w 18 4) (srcAt w 16 11) (srcAt w 9 4) (fieldAt w 0 4))
  else none

/-- Rows of major 0x2f (R80). -/
def row2F (w : Nat) : Option Instr :=
  if bits w 25 18 = 0 then some (.map (srcAt w 16 11) (srcAt w 9 4) (fieldAt w 0 4))
  else if bits w 25 18 = 32 then some (.grant (srcAt w 16 11) (srcAt w 9 4) (fieldAt w 0 4))
  else if bits w 25 18 = 64 then some (.unmap (srcAt w 16 11) (srcAt w 9 4) (fieldAt w 0 4))
  else if bits w 25 18 = 96 then some (.unmapSelf (srcAt w 16 11) (srcAt w 9 4) (fieldAt w 0 4))
  else if bits w 10 4 = 0 ∧ bits w 25 22 = 8 then some (.mapw (fieldAt w 18 4) (srcAt w 16 11) (fieldAt w 0 4))
  else none

/-- Rows of major 0x30 (R80). -/
def row30 (w : Nat) : Option Instr :=
  if bits w 9 0 = 0 then some (.csrr (fieldAt w 22 4) (fieldAt w 10 12))
  else if bits w 9 0 = 1 then some (.csrw (fieldAt w 22 4) (fieldAt w 10 12))
  else if bits w 25 0 = 2 then some (.eret)
  else if bits w 25 0 = 3 then some (.pause)
  else if bits w 25 0 = 4 then some (.brk)
  else if bits w 25 0 = 5 then some (.halt)
  else none

/-- The row of the opcode map that a word matches (R80). -/
def decodeRow (w : Nat) : Option Instr :=
  match bits w 31 26 with
  | 1 => row01 w
  | 2 => row02 w
  | 3 => row03 w
  | 4 => row04 w
  | 5 => row05 w
  | 6 => row06 w
  | 7 => row07 w
  | 8 => row08 w
  | 9 => row09 w
  | 10 => row0A w
  | 11 => row0B w
  | 12 => row0C w
  | 13 => row0D w
  | 14 => row0E w
  | 15 => row0F w
  | 16 => row10 w
  | 17 => row11 w
  | 18 => row12 w
  | 19 => row13 w
  | 20 => row14 w
  | 21 => row15 w
  | 22 => row16 w
  | 23 => row17 w
  | 24 => row18 w
  | 25 => row19 w
  | 26 => row1A w
  | 27 => row1B w
  | 28 => row1C w
  | 29 => row1D w
  | 30 => row1E w
  | 31 => row1F w
  | 32 => row20 w
  | 33 => row21 w
  | 34 => row22 w
  | 35 => row23 w
  | 36 => row24 w
  | 37 => row25 w
  | 38 => row26 w
  | 39 => row27 w
  | 40 => row28 w
  | 41 => row29 w
  | 42 => row2A w
  | 43 => row2B w
  | 44 => row2C w
  | 45 => row2D w
  | 46 => row2E w
  | 47 => row2F w
  | 48 => row30 w
  | _ => none

/-- The function, condition and sub-field values of a word are assigned in the opcode map (R80, R142, R145 to R147). -/
def assigned (w : Nat) : Bool :=
  let fn := bits w 25 23
  let x := bits w 3 0
  let f := fn * 16 + x
  let e := bits w 25 22
  match bits w 31 26 with
  | 0x01 => f ≤ 5 | 0x02 => f ≤ 10 | 0x03 => f ≤ 6 | 0x04 => f ≤ 6 | 0x05 => f ≤ 2
  | 0x06 => true | 0x07 => true | 0x08 => true | 0x09 => true
  | 0x0A => bits w 17 16 != 3 | 0x0B => true | 0x0C => true | 0x0D => true | 0x0E => true
  | 0x0F => f ≤ 6 | 0x10 => bits w 25 24 != 3
  | 0x11 => !(bits w 16 15 == 3 && bits w 25 25 == 1) | 0x12 => true
  | 0x13 => !(bits w 13 11 == 2 && bits w 7 7 == 1) | 0x14 => f ≤ 7 | 0x15 => true | 0x16 => true
  | 0x17 => fn ≤ 1 && bits w 3 2 != 3 || (fn == 2 || fn == 3) && bits w 3 2 == 0
  | 0x18 => fn ≤ 1 && bits w 2 2 == 0 || fn == 2 || fn == 3
  | 0x19 => fn ≤ 3 | 0x1A => fn ≤ 2 | 0x1B => fn ≤ 5
  | 0x1C => fn ≤ 6 && bits w 1 0 != 3 | 0x1D => fn ≤ 3 && bits w 1 0 != 3 | 0x1E => bits w 25 24 != 3
  | 0x1F => bits w 1 0 ≤ 1 | 0x20 => fn == 7 || bits w 2 0 != 7 | 0x21 => fn ≤ 3
  | 0x22 => fn ≤ 2 || fn == 3 && bits w 1 0 != 3 | 0x23 => fn ≤ 4 | 0x24 => f ≤ 7 | 0x25 => bits w 1 0 == 0
  | 0x26 => e ≤ 2 | 0x27 => e ≤ 2 | 0x28 => fn ≤ 2 | 0x29 => e ≤ 2 | 0x2A => e ≤ 2
  | 0x2B => f ≤ 4 | 0x2C => fn ≤ 3 | 0x2D => fn ≤ 4 | 0x2E => fn ≤ 5 | 0x2F => fn ≤ 4
  | 0x30 => bits w 9 0 ≤ 5
  | _ => false

/-- The word with the kind tags that its function fixes set right (R68): the words that differ from it in those tags
alone raise KIND_TAG. Bit 4 of a field must be zero under tag 01 only (R67), so a word with another tag has it cleared. -/
def fixTags (w : Nat) : Nat :=
  let ka (t : Nat) := w - bits w 17 16 * 65536 + t * 65536
  let sc := if bits w 17 16 = 1 then w else ka 1 - bits w 15 15 * 32768
  let kb (v : Nat) := v - bits v 10 9 * 512
  match bits w 31 26 with
  | 0x0F => sc
  | 0x16 => kb w
  | 0x20 => kb (ka 0)
  | 0x22 => ka 0
  | 0x24 => if bits w 3 0 = 7 then sc else if bits w 3 0 ≤ 2 then kb (ka 0) else ka 0
  | _ => w

/-- A source that takes no scalar carries tag 01 with bit 4 of its field set (R67): B of major 0x16, A of 0x20 and 0x22. -/
def wideScalar (w : Nat) : Bool :=
  match bits w 31 26 with
  | 0x16 => bits w 10 9 = 1 && w.testBit 8
  | 0x20 => bits w 17 16 = 1 && w.testBit 15
  | 0x22 => bits w 17 16 = 1 && w.testBit 15
  | _ => false

/-- The trap of a word that matches no row, in the order of R81. -/
def badWord (w : Nat) : EncTrap :=
  if !assigned w then .illegal
  else if wideScalar w then .reserved
  else match decodeRow (fixTags w) with
    | some i => if i.encTrap = none ∨ i.encTrap = some .kindTag then .kindTag else .reserved
    | none => .reserved

/-- The decoder: total on every word (R62, R80, R81). -/
def decode (w : IWord) : Except EncTrap Instr :=
  match decodeRow w.toNat with
  | some i => .ok i
  | none => .error (badWord w.toNat)

/-- The word of four bytes in memory order (R4, R62). -/
def wordOfBytes (b0 b1 b2 b3 : Byte) : IWord := b3 ++ b2 ++ b1 ++ b0

/-- The encoder: the word of an instruction, written from the fields of its row (R62 to R67, R80); 0 for a step that has
no encoding. -/
def encode : Instr → Nat
  | .add d a b => 0x4000000 + d.toNat * 262144 + a.k.toNat * 65536 + a.n.toNat * 2048 + b.k.toNat * 512 + b.n.toNat * 16
  | .sub d a b => 0x4000001 + d.toNat * 262144 + a.k.toNat * 65536 + a.n.toNat * 2048 + b.k.toNat * 512 + b.n.toNat * 16
  | .min d a b => 0x4000002 + d.toNat * 262144 + a.k.toNat * 65536 + a.n.toNat * 2048 + b.k.toNat * 512 + b.n.toNat * 16
  | .max d a b => 0x4000003 + d.toNat * 262144 + a.k.toNat * 65536 + a.n.toNat * 2048 + b.k.toNat * 512 + b.n.toNat * 16
  | .minu d a b => 0x4000004 + d.toNat * 262144 + a.k.toNat * 65536 + a.n.toNat * 2048 + b.k.toNat * 512 + b.n.toNat * 16
  | .maxu d a b => 0x4000005 + d.toNat * 262144 + a.k.toNat * 65536 + a.n.toNat * 2048 + b.k.toNat * 512 + b.n.toNat * 16
  | .and d a b => 0x8000000 + d.toNat * 262144 + a.k.toNat * 65536 + a.n.toNat * 2048 + b.k.toNat * 512 + b.n.toNat * 16
  | .or d a b => 0x8000001 + d.toNat * 262144 + a.k.toNat * 65536 + a.n.toNat * 2048 + b.k.toNat * 512 + b.n.toNat * 16
  | .xor d a b => 0x8000002 + d.toNat * 262144 + a.k.toNat * 65536 + a.n.toNat * 2048 + b.k.toNat * 512 + b.n.toNat * 16
  | .andn d a b => 0x8000003 + d.toNat * 262144 + a.k.toNat * 65536 + a.n.toNat * 2048 + b.k.toNat * 512 + b.n.toNat * 16
  | .shl d a b => 0x8000004 + d.toNat * 262144 + a.k.toNat * 65536 + a.n.toNat * 2048 + b.k.toNat * 512 + b.n.toNat * 16
  | .shr d a b => 0x8000005 + d.toNat * 262144 + a.k.toNat * 65536 + a.n.toNat * 2048 + b.k.toNat * 512 + b.n.toNat * 16
  | .sar d a b => 0x8000006 + d.toNat * 262144 + a.k.toNat * 65536 + a.n.toNat * 2048 + b.k.toNat * 512 + b.n.toNat * 16
  | .rol d a b => 0x8000007 + d.toNat * 262144 + a.k.toNat * 65536 + a.n.toNat * 2048 + b.k.toNat * 512 + b.n.toNat * 16
  | .clz d a => 0x8000008 + d.toNat * 262144 + a.k.toNat * 65536 + a.n.toNat * 2048
  | .ctz d a => 0x8000009 + d.toNat * 262144 + a.k.toNat * 65536 + a.n.toNat * 2048
  | .popc d a => 0x800000a + d.toNat * 262144 + a.k.toNat * 65536 + a.n.toNat * 2048
  | .seq d a b => 0xc000000 + d.toNat * 262144 + a.k.toNat * 65536 + a.n.toNat * 2048 + b.k.toNat * 512 + b.n.toNat * 16
  | .sne d a b => 0xc000001 + d.toNat * 262144 + a.k.toNat * 65536 + a.n.toNat * 2048 + b.k.toNat * 512 + b.n.toNat * 16
  | .slt d a b => 0xc000002 + d.toNat * 262144 + a.k.toNat * 65536 + a.n.toNat * 2048 + b.k.toNat * 512 + b.n.toNat * 16
  | .sltu d a b => 0xc000003 + d.toNat * 262144 + a.k.toNat * 65536 + a.n.toNat * 2048 + b.k.toNat * 512 + b.n.toNat * 16
  | .sle d a b => 0xc000004 + d.toNat * 262144 + a.k.toNat * 65536 + a.n.toNat * 2048 + b.k.toNat * 512 + b.n.toNat * 16
  | .sleu d a b => 0xc000005 + d.toNat * 262144 + a.k.toNat * 65536 + a.n.toNat * 2048 + b.k.toNat * 512 + b.n.toNat * 16
  | .sel d a b => 0xc000006 + d.toNat * 262144 + a.k.toNat * 65536 + a.n.toNat * 2048 + b.k.toNat * 512 + b.n.toNat * 16
  | .mul d a b => 0x10000000 + d.toNat * 262144 + a.k.toNat * 65536 + a.n.toNat * 2048 + b.k.toNat * 512 + b.n.toNat * 16
  | .mulh d a b => 0x10000001 + d.toNat * 262144 + a.k.toNat * 65536 + a.n.toNat * 2048 + b.k.toNat * 512 + b.n.toNat * 16
  | .mulhu d a b => 0x10000002 + d.toNat * 262144 + a.k.toNat * 65536 + a.n.toNat * 2048 + b.k.toNat * 512 + b.n.toNat * 16
  | .div d a b => 0x10000003 + d.toNat * 262144 + a.k.toNat * 65536 + a.n.toNat * 2048 + b.k.toNat * 512 + b.n.toNat * 16
  | .divu d a b => 0x10000004 + d.toNat * 262144 + a.k.toNat * 65536 + a.n.toNat * 2048 + b.k.toNat * 512 + b.n.toNat * 16
  | .rem d a b => 0x10000005 + d.toNat * 262144 + a.k.toNat * 65536 + a.n.toNat * 2048 + b.k.toNat * 512 + b.n.toNat * 16
  | .remu d a b => 0x10000006 + d.toNat * 262144 + a.k.toNat * 65536 + a.n.toNat * 2048 + b.k.toNat * 512 + b.n.toNat * 16
  | .clmul d a b => 0x14000000 + d.toNat * 262144 + a.k.toNat * 65536 + a.n.toNat * 2048 + b.k.toNat * 512 + b.n.toNat * 16
  | .clmulh d a b => 0x14000001 + d.toNat * 262144 + a.k.toNat * 65536 + a.n.toNat * 2048 + b.k.toNat * 512 + b.n.toNat * 16
  | .bswap d a => 0x14000002 + d.toNat * 262144 + a.k.toNat * 65536 + a.n.toNat * 2048
  | .addI d a i => 0x18000000 + d.toNat * 4194304 + a.toNat * 262144 + i.toNat
  | .andI d a i => 0x1c000000 + d.toNat * 4194304 + a.toNat * 262144 + i.toNat
  | .orI d a i => 0x20000000 + d.toNat * 4194304 + a.toNat * 262144 + i.toNat
  | .xorI d a i => 0x24000000 + d.toNat * 4194304 + a.toNat * 262144 + i.toNat
  | .shlI d a n => 0x28000000 + d.toNat * 4194304 + a.toNat * 262144 + n.toNat
  | .shrI d a n => 0x28010000 + d.toNat * 4194304 + a.toNat * 262144 + n.toNat
  | .sarI d a n => 0x28020000 + d.toNat * 4194304 + a.toNat * 262144 + n.toNat
  | .sltI d a i => 0x2c000000 + d.toNat * 4194304 + a.toNat * 262144 + i.toNat
  | .sltuI d a i => 0x2c020000 + d.toNat * 4194304 + a.toNat * 262144 + i.toNat
  | .beq a b o => 0x30000000 + a.toNat * 524288 + b.toNat * 32768 + o.toNat
  | .bne a b o => 0x30800000 + a.toNat * 524288 + b.toNat * 32768 + o.toNat
  | .blt a b o => 0x31000000 + a.toNat * 524288 + b.toNat * 32768 + o.toNat
  | .bge a b o => 0x31800000 + a.toNat * 524288 + b.toNat * 32768 + o.toNat
  | .bltu a b o => 0x32000000 + a.toNat * 524288 + b.toNat * 32768 + o.toNat
  | .bgeu a b o => 0x32800000 + a.toNat * 524288 + b.toNat * 32768 + o.toNat
  | .bz a o => 0x33000000 + a.toNat * 524288 + o.toNat
  | .bnz a o => 0x33800000 + a.toNat * 524288 + o.toNat
  | .jmp o => 0x34000000 + o.toNat
  | .call o => 0x38000000 + o.toNat
  | .jr a => 0x3c010000 + a.toNat * 2048
  | .callr a => 0x3c010001 + a.toNat * 2048
  | .ret => 0x3c000002
  | .yield => 0x3c000003
  | .exit => 0x3c000004
  | .trap => 0x3c000005
  | .nop => 0x3c000006
  | .hintImm p => 0x40000000 + p.toNat
  | .hintMod p => 0x41000000 + p.toNat
  | .hintSched p => 0x42000000 + p.toNat
  | .ldB d b o l => 0x44000000 + d.toNat * 2097152 + b.toNat * 131072 + o.toNat * 16 + l.toNat
  | .ldBs d b o l => 0x46000000 + d.toNat * 2097152 + b.toNat * 131072 + o.toNat * 16 + l.toNat
  | .ldH d b o l => 0x44008000 + d.toNat * 2097152 + b.toNat * 131072 + o.toNat * 16 + l.toNat
  | .ldHs d b o l => 0x46008000 + d.toNat * 2097152 + b.toNat * 131072 + o.toNat * 16 + l.toNat
  | .ldW d b o l => 0x44010000 + d.toNat * 2097152 + b.toNat * 131072 + o.toNat * 16 + l.toNat
  | .ldWs d b o l => 0x46010000 + d.toNat * 2097152 + b.toNat * 131072 + o.toNat * 16 + l.toNat
  | .ldD d b o l => 0x44018000 + d.toNat * 2097152 + b.toNat * 131072 + o.toNat * 16 + l.toNat
  | .stB d b o => 0x48000000 + d.toNat * 2097152 + b.toNat * 131072 + o.toNat * 16
  | .stH d b o => 0x48008000 + d.toNat * 2097152 + b.toNat * 131072 + o.toNat * 16
  | .stW d b o => 0x48010000 + d.toNat * 2097152 + b.toNat * 131072 + o.toNat * 16
  | .stD d b o => 0x48018000 + d.toNat * 2097152 + b.toNat * 131072 + o.toNat * 16
  | .amoAdd d b v s o l => 0x4c000000 + d.toNat * 4194304 + b.toNat * 262144 + v.toNat * 16384 + s.toNat * 256 + o.toNat * 16 + l.toNat
  | .amoXchg d b v s o l => 0x4c000800 + d.toNat * 4194304 + b.toNat * 262144 + v.toNat * 16384 + s.toNat * 256 + o.toNat * 16 + l.toNat
  | .amoCas d b v s o l => 0x4c001000 + d.toNat * 4194304 + b.toNat * 262144 + v.toNat * 16384 + s.toNat * 256 + o.toNat * 16 + l.toNat
  | .amoMin d b v s o l => 0x4c001800 + d.toNat * 4194304 + b.toNat * 262144 + v.toNat * 16384 + s.toNat * 256 + o.toNat * 16 + l.toNat
  | .amoMax d b v s o l => 0x4c002000 + d.toNat * 4194304 + b.toNat * 262144 + v.toNat * 16384 + s.toNat * 256 + o.toNat * 16 + l.toNat
  | .amoAnd d b v s o l => 0x4c002800 + d.toNat * 4194304 + b.toNat * 262144 + v.toNat * 16384 + s.toNat * 256 + o.toNat * 16 + l.toNat
  | .amoOr d b v s o l => 0x4c003000 + d.toNat * 4194304 + b.toNat * 262144 + v.toNat * 16384 + s.toNat * 256 + o.toNat * 16 + l.toNat
  | .amoXor d b v s o l => 0x4c003800 + d.toNat * 4194304 + b.toNat * 262144 + v.toNat * 16384 + s.toNat * 256 + o.toNat * 16 + l.toNat
  | .bind a b => 0x50000000 + a.k.toNat * 65536 + a.n.toNat * 2048 + b.k.toNat * 512 + b.n.toNat * 16
  | .unbind a b => 0x50000001 + a.k.toNat * 65536 + a.n.toNat * 2048 + b.k.toNat * 512 + b.n.toNat * 16
  | .acq d a b => 0x50000002 + d.toNat * 262144 + a.k.toNat * 65536 + a.n.toNat * 2048 + b.k.toNat * 512 + b.n.toNat * 16
  | .acqAll => 0x50000003
  | .rel a b => 0x50000004 + a.k.toNat * 65536 + a.n.toNat * 2048 + b.k.toNat * 512 + b.n.toNat * 16
  | .fenceS => 0x50000005
  | .fenceX a b => 0x50000006 + a.k.toNat * 65536 + a.n.toNat * 2048 + b.k.toNat * 512 + b.n.toNat * 16
  | .landSet a b => 0x50000007 + a.k.toNat * 65536 + a.n.toNat * 2048 + b.k.toNat * 512 + b.n.toNat * 16
  | .vld d b o l => 0x54000000 + d.toNat * 2097152 + b.toNat * 131072 + o.toNat * 16 + l.toNat
  | .vst d b o => 0x54008000 + d.toNat * 2097152 + b.toNat * 131072 + o.toNat * 16
  | .vldp d b o l => 0x54010000 + d.toNat * 4194304 + b.toNat * 131072 + o.toNat * 16 + l.toNat
  | .vstp d b o => 0x54018000 + d.toNat * 4194304 + b.toNat * 131072 + o.toNat * 16
  | .vgather w d a b l => 0x58000000 + w.toNat * 8388608 + d.toNat * 262144 + a.k.toNat * 65536 + a.n.toNat * 2048 + b.toNat * 16 + l.toNat
  | .vscatter w d a b l => 0x5a000000 + w.toNat * 8388608 + d.toNat * 262144 + a.k.toNat * 65536 + a.n.toNat * 2048 + b.toNat * 16 + l.toNat
  | .vadd d a b s w => 0x5c000000 + d.toNat * 262144 + a.k.toNat * 65536 + a.n.toNat * 2048 + b.k.toNat * 512 + b.n.toNat * 16 + s.toNat * 4 + w.toNat
  | .vsub d a b s w => 0x5c800000 + d.toNat * 262144 + a.k.toNat * 65536 + a.n.toNat * 2048 + b.k.toNat * 512 + b.n.toNat * 16 + s.toNat * 4 + w.toNat
  | .vmul d a b w => 0x5d000000 + d.toNat * 262144 + a.k.toNat * 65536 + a.n.toNat * 2048 + b.k.toNat * 512 + b.n.toNat * 16 + w.toNat
  | .vmulh d a b w => 0x5d800000 + d.toNat * 262144 + a.k.toNat * 65536 + a.n.toNat * 2048 + b.k.toNat * 512 + b.n.toNat * 16 + w.toNat
  | .vmin d a b w => 0x60000000 + d.toNat * 262144 + a.k.toNat * 65536 + a.n.toNat * 2048 + b.k.toNat * 512 + b.n.toNat * 16 + w.toNat
  | .vmax d a b w => 0x60800000 + d.toNat * 262144 + a.k.toNat * 65536 + a.n.toNat * 2048 + b.k.toNat * 512 + b.n.toNat * 16 + w.toNat
  | .vabs d a s w => 0x61000000 + d.toNat * 262144 + a.k.toNat * 65536 + a.n.toNat * 2048 + s.toNat * 4 + w.toNat
  | .vneg d a s w => 0x61800000 + d.toNat * 262144 + a.k.toNat * 65536 + a.n.toNat * 2048 + s.toNat * 4 + w.toNat
  | .vand d a b => 0x64000000 + d.toNat * 262144 + a.k.toNat * 65536 + a.n.toNat * 2048 + b.k.toNat * 512 + b.n.toNat * 16
  | .vor d a b => 0x64800000 + d.toNat * 262144 + a.k.toNat * 65536 + a.n.toNat * 2048 + b.k.toNat * 512 + b.n.toNat * 16
  | .vxor d a b => 0x65000000 + d.toNat * 262144 + a.k.toNat * 65536 + a.n.toNat * 2048 + b.k.toNat * 512 + b.n.toNat * 16
  | .vandn d a b => 0x65800000 + d.toNat * 262144 + a.k.toNat * 65536 + a.n.toNat * 2048 + b.k.toNat * 512 + b.n.toNat * 16
  | .vshl d a b w => 0x68000000 + d.toNat * 262144 + a.k.toNat * 65536 + a.n.toNat * 2048 + b.k.toNat * 512 + b.n.toNat * 16 + w.toNat
  | .vshr d a b w => 0x68800000 + d.toNat * 262144 + a.k.toNat * 65536 + a.n.toNat * 2048 + b.k.toNat * 512 + b.n.toNat * 16 + w.toNat
  | .vsar d a b w => 0x69000000 + d.toNat * 262144 + a.k.toNat * 65536 + a.n.toNat * 2048 + b.k.toNat * 512 + b.n.toNat * 16 + w.toNat
  | .vcmpEq d a b w => 0x6c000000 + d.toNat * 262144 + a.k.toNat * 65536 + a.n.toNat * 2048 + b.k.toNat * 512 + b.n.toNat * 16 + w.toNat
  | .vcmpNe d a b w => 0x6c800000 + d.toNat * 262144 + a.k.toNat * 65536 + a.n.toNat * 2048 + b.k.toNat * 512 + b.n.toNat * 16 + w.toNat
  | .vcmpLt d a b w => 0x6d000000 + d.toNat * 262144 + a.k.toNat * 65536 + a.n.toNat * 2048 + b.k.toNat * 512 + b.n.toNat * 16 + w.toNat
  | .vcmpLe d a b w => 0x6d800000 + d.toNat * 262144 + a.k.toNat * 65536 + a.n.toNat * 2048 + b.k.toNat * 512 + b.n.toNat * 16 + w.toNat
  | .vcmpLtu d a b w => 0x6e000000 + d.toNat * 262144 + a.k.toNat * 65536 + a.n.toNat * 2048 + b.k.toNat * 512 + b.n.toNat * 16 + w.toNat
  | .vcmpLeu d a b w => 0x6e800000 + d.toNat * 262144 + a.k.toNat * 65536 + a.n.toNat * 2048 + b.k.toNat * 512 + b.n.toNat * 16 + w.toNat
  | .vfadd d a b f => 0x70000000 + d.toNat * 262144 + a.k.toNat * 65536 + a.n.toNat * 2048 + b.k.toNat * 512 + b.n.toNat * 16 + f.toNat
  | .vfsub d a b f => 0x70800000 + d.toNat * 262144 + a.k.toNat * 65536 + a.n.toNat * 2048 + b.k.toNat * 512 + b.n.toNat * 16 + f.toNat
  | .vfmul d a b f => 0x71000000 + d.toNat * 262144 + a.k.toNat * 65536 + a.n.toNat * 2048 + b.k.toNat * 512 + b.n.toNat * 16 + f.toNat
  | .vfmin d a b f => 0x71800000 + d.toNat * 262144 + a.k.toNat * 65536 + a.n.toNat * 2048 + b.k.toNat * 512 + b.n.toNat * 16 + f.toNat
  | .vfmax d a b f => 0x72000000 + d.toNat * 262144 + a.k.toNat * 65536 + a.n.toNat * 2048 + b.k.toNat * 512 + b.n.toNat * 16 + f.toNat
  | .vrcp d a f => 0x72800000 + d.toNat * 262144 + a.k.toNat * 65536 + a.n.toNat * 2048 + f.toNat
  | .vrsqrt d a f => 0x73000000 + d.toNat * 262144 + a.k.toNat * 65536 + a.n.toNat * 2048 + f.toNat
  | .vfcmpEq d a b f => 0x74000000 + d.toNat * 262144 + a.k.toNat * 65536 + a.n.toNat * 2048 + b.k.toNat * 512 + b.n.toNat * 16 + f.toNat
  | .vfcmpLt d a b f => 0x74800000 + d.toNat * 262144 + a.k.toNat * 65536 + a.n.toNat * 2048 + b.k.toNat * 512 + b.n.toNat * 16 + f.toNat
  | .vfcmpLe d a b f => 0x75000000 + d.toNat * 262144 + a.k.toNat * 65536 + a.n.toNat * 2048 + b.k.toNat * 512 + b.n.toNat * 16 + f.toNat
  | .vfcmpUn d a b f => 0x75800000 + d.toNat * 262144 + a.k.toNat * 65536 + a.n.toNat * 2048 + b.k.toNat * 512 + b.n.toNat * 16 + f.toNat
  | .vfdiv f d a b l => 0x78000000 + f.toNat * 16777216 + d.toNat * 262144 + a.k.toNat * 65536 + a.n.toNat * 2048 + b.k.toNat * 512 + b.n.toNat * 16 + l.toNat
  | .vfsqrt f d a l => 0x78800000 + f.toNat * 16777216 + d.toNat * 262144 + a.k.toNat * 65536 + a.n.toNat * 2048 + l.toNat
  | .vfma d a b c => 0x7c000000 + d.toNat * 2097152 + a.toNat * 65536 + b.k.toNat * 16384 + b.n.toNat * 512 + c.k.toNat * 128 + c.n.toNat * 4
  | .vfms d a b c => 0x7c000001 + d.toNat * 2097152 + a.toNat * 65536 + b.k.toNat * 16384 + b.n.toNat * 512 + c.k.toNat * 128 + c.n.toNat * 4
  | .vcvt s d a h w v t => 0x80000000 + s.toNat * 8388608 + d.toNat * 262144 + a.toNat * 2048 + h.toNat * 256 + w.toNat * 64 + v.toNat * 16 + t.toNat
  | .vdec4 d a g l => 0x83800000 + d.toNat * 262144 + a.toNat * 2048 + g.toNat * 32 + l.toNat
  | .venc4 d a g t => 0x83800010 + d.toNat * 262144 + a.toNat * 2048 + g.toNat * 32 + t.toNat
  | .vbcast d a w => 0x84000000 + d.toNat * 262144 + a.k.toNat * 65536 + a.n.toNat * 2048 + w.toNat
  | .vperm d a b w => 0x84800000 + d.toNat * 262144 + a.k.toNat * 65536 + a.n.toNat * 2048 + b.k.toNat * 512 + b.n.toNat * 16 + w.toNat
  | .vshuf d a b w => 0x85000000 + d.toNat * 262144 + a.k.toNat * 65536 + a.n.toNat * 2048 + b.k.toNat * 512 + b.n.toNat * 16 + w.toNat
  | .vslide d a b w => 0x85800000 + d.toNat * 262144 + a.k.toNat * 65536 + a.n.toNat * 2048 + b.k.toNat * 512 + b.n.toNat * 16 + w.toNat
  | .vredadd d a b w => 0x88000000 + d.toNat * 262144 + a.toNat * 2048 + b.k.toNat * 512 + b.n.toNat * 16 + w.toNat
  | .vredmin d a b w => 0x88800000 + d.toNat * 262144 + a.toNat * 2048 + b.k.toNat * 512 + b.n.toNat * 16 + w.toNat
  | .vredmax d a b w => 0x89000000 + d.toNat * 262144 + a.toNat * 2048 + b.k.toNat * 512 + b.n.toNat * 16 + w.toNat
  | .vfredadd d a b f => 0x89800000 + d.toNat * 262144 + a.toNat * 2048 + b.k.toNat * 512 + b.n.toNat * 16 + f.toNat
  | .vcompress d a b w => 0x8c000000 + d.toNat * 262144 + a.k.toNat * 65536 + a.n.toNat * 2048 + b.k.toNat * 512 + b.n.toNat * 16 + w.toNat
  | .vexpand d a b w => 0x8c800000 + d.toNat * 262144 + a.k.toNat * 65536 + a.n.toNat * 2048 + b.k.toNat * 512 + b.n.toNat * 16 + w.toNat
  | .vpopc d a w => 0x8d000000 + d.toNat * 262144 + a.k.toNat * 65536 + a.n.toNat * 2048 + w.toNat
  | .vclmul d a b w => 0x8d800000 + d.toNat * 262144 + a.k.toNat * 65536 + a.n.toNat * 2048 + b.k.toNat * 512 + b.n.toNat * 16 + w.toNat
  | .vprefixAdd d a b w => 0x8e000000 + d.toNat * 262144 + a.k.toNat * 65536 + a.n.toNat * 2048 + b.k.toNat * 512 + b.n.toNat * 16 + w.toNat
  | .pand d a b => 0x90000000 + d.toNat * 262144 + a.toNat * 2048 + b.toNat * 16
  | .por d a b => 0x90000001 + d.toNat * 262144 + a.toNat * 2048 + b.toNat * 16
  | .pxor d a b => 0x90000002 + d.toNat * 262144 + a.toNat * 2048 + b.toNat * 16
  | .pnot d a => 0x90000003 + d.toNat * 262144 + a.toNat * 2048
  | .pcnt d a => 0x90000004 + d.toNat * 262144 + a.toNat * 2048
  | .pfirst d a => 0x90000005 + d.toNat * 262144 + a.toNat * 2048
  | .pmovS d a => 0x90000006 + d.toNat * 262144 + a.toNat * 2048
  | .psMov d a => 0x90010007 + d.toNat * 262144 + a.toNat * 2048
  | .vsel d a b c => 0x94000000 + d.toNat * 2097152 + a.toNat * 65536 + b.k.toNat * 16384 + b.n.toNat * 512 + c.k.toNat * 128 + c.n.toNat * 4
  | .mma a b o m l => 0x98000000 + a.toNat * 262144 + b.toNat * 16384 + o.toNat * 1024 + m.toNat * 16 + l.toNat
  | .mmaR a d m l => 0x98400000 + a.toNat * 262144 + d.toNat * 16384 + m.toNat * 16 + l.toNat
  | .mmaP a d m l => 0x98800000 + a.toNat * 262144 + d.toNat * 16384 + m.toNat * 16 + l.toNat
  | .accZero l => 0x9c000000 + l.toNat
  | .accLd n l => 0x9c400000 + n.toNat * 262144 + l.toNat
  | .accSt n l => 0x9c800000 + n.toNat * 262144 + l.toNat
  | .mxOpen d a l => 0xa0000000 + d.toNat * 262144 + a.k.toNat * 65536 + a.n.toNat * 2048 + l.toNat
  | .mxClose d a l => 0xa0800000 + d.toNat * 262144 + a.k.toNat * 65536 + a.n.toNat * 2048 + l.toNat
  | .mxRing d a b l => 0xa1000000 + d.toNat * 262144 + a.k.toNat * 65536 + a.n.toNat * 2048 + b.k.toNat * 512 + b.n.toNat * 16 + l.toNat
  | .bufSet n s => 0xa4000000 + n.toNat * 262144 + s.toNat * 16384
  | .bufAdvP n s => 0xa4400000 + n.toNat * 262144 + s.toNat * 16384
  | .bufAdvC n s => 0xa4400010 + n.toNat * 262144 + s.toNat * 16384
  | .bufQ d n => 0xa4800000 + d.toNat * 262144 + n.toNat * 16384
  | .cpWait d c m t s l => 0xa8000000 + d.toNat * 262144 + c.toNat * 16384 + m.toNat * 1024 + t.toNat * 64 + s.toNat * 16 + l.toNat
  | .cpPtr d c l => 0xa8400000 + d.toNat * 262144 + c.toNat * 16384 + l.toNat
  | .cpInv l => 0xa8800000 + l.toNat
  | .fork a b => 0xac000000 + a.k.toNat * 65536 + a.n.toNat * 2048 + b.k.toNat * 512 + b.n.toNat * 16
  | .join a => 0xac000001 + a.k.toNat * 65536 + a.n.toNat * 2048
  | .migrate a => 0xac000002 + a.k.toNat * 65536 + a.n.toNat * 2048
  | .texit a => 0xac000003 + a.k.toNat * 65536 + a.n.toNat * 2048
  | .spawnG d a => 0xac000004 + d.toNat * 262144 + a.k.toNat * 65536 + a.n.toNat * 2048
  | .send d a b l => 0xb0000000 + d.toNat * 262144 + a.k.toNat * 65536 + a.n.toNat * 2048 + b.k.toNat * 512 + b.n.toNat * 16 + l.toNat
  | .sendh d a b l => 0xb0800000 + d.toNat * 262144 + a.k.toNat * 65536 + a.n.toNat * 2048 + b.k.toNat * 512 + b.n.toNat * 16 + l.toNat
  | .mend => 0xb1000000
  | .wfm d a b => 0xb1800000 + d.toNat * 262144 + a.k.toNat * 65536 + a.n.toNat * 2048 + b.k.toNat * 512 + b.n.toNat * 16
  | .fbar c l => 0xb4000000 + c.toNat * 131072 + l.toNat
  | .fbarM c l => 0xb4800000 + c.toNat * 131072 + l.toNat
  | .fbcast c d l => 0xb5000000 + c.toNat * 131072 + d.toNat * 512 + l.toNat
  | .fbcastTx c s d l => 0xb5000010 + c.toNat * 131072 + s.toNat * 8192 + d.toNat * 512 + l.toNat
  | .fcomb c s d o l => 0xb5800000 + c.toNat * 131072 + s.toNat * 8192 + d.toNat * 512 + o.toNat * 16 + l.toNat
  | .fpoll c d l => 0xb6000000 + c.toNat * 131072 + d.toNat * 512 + l.toNat
  | .get d a b l => 0xb8000000 + d.toNat * 262144 + a.k.toNat * 65536 + a.n.toNat * 2048 + b.k.toNat * 512 + b.n.toNat * 16 + l.toNat
  | .put d a b l => 0xb8800000 + d.toNat * 262144 + a.k.toNat * 65536 + a.n.toNat * 2048 + b.k.toNat * 512 + b.n.toNat * 16 + l.toNat
  | .getv d a b l => 0xb9000000 + d.toNat * 262144 + a.k.toNat * 65536 + a.n.toNat * 2048 + b.k.toNat * 512 + b.n.toNat * 16 + l.toNat
  | .putv d a b l => 0xb9800000 + d.toNat * 262144 + a.k.toNat * 65536 + a.n.toNat * 2048 + b.k.toNat * 512 + b.n.toNat * 16 + l.toNat
  | .equiv a l => 0xba000000 + a.k.toNat * 65536 + a.n.toNat * 2048 + l.toNat
  | .chsw d a b l => 0xba800000 + d.toNat * 262144 + a.k.toNat * 65536 + a.n.toNat * 2048 + b.k.toNat * 512 + b.n.toNat * 16 + l.toNat
  | .map a b l => 0xbc000000 + a.k.toNat * 65536 + a.n.toNat * 2048 + b.k.toNat * 512 + b.n.toNat * 16 + l.toNat
  | .grant a b l => 0xbc800000 + a.k.toNat * 65536 + a.n.toNat * 2048 + b.k.toNat * 512 + b.n.toNat * 16 + l.toNat
  | .unmap a b l => 0xbd000000 + a.k.toNat * 65536 + a.n.toNat * 2048 + b.k.toNat * 512 + b.n.toNat * 16 + l.toNat
  | .unmapSelf a b l => 0xbd800000 + a.k.toNat * 65536 + a.n.toNat * 2048 + b.k.toNat * 512 + b.n.toNat * 16 + l.toNat
  | .mapw d a l => 0xbe000000 + d.toNat * 262144 + a.k.toNat * 65536 + a.n.toNat * 2048 + l.toNat
  | .csrr s c => 0xc0000000 + s.toNat * 4194304 + c.toNat * 1024
  | .csrw s c => 0xc0000001 + s.toNat * 4194304 + c.toNat * 1024
  | .eret => 0xc0000002
  | .pause => 0xc0000003
  | .brk => 0xc0000004
  | .halt => 0xc0000005
  | .accownWrite _ => 0
  | .bindtabWrite _ => 0
  | .watchdogWrite _ => 0
  | .fpstatWrite _ => 0
  | .faultReply _ => 0
  | .lateFaultTrap _ _ => 0
  | .watchdogDue _ _ => 0
  | .watchdog _ _ => 0
  | .preemptionRequest _ => 0
  | .deadlineExpiry _ _ => 0
  | .forcedSave _ _ => 0
  | .remoteStoreArrival _ _ => 0
  | .storeAcknowledge _ _ => 0
  | .loadResponse _ _ _ => 0
  | .rrbEviction _ _ => 0
  | .ringEntryComplete _ _ => 0
  | .matrixCommandFire _ => 0
  | .matrixCommandComplete _ => 0
  | .mmaRRequest _ => 0
  | .mmaPRequest _ => 0
  | .capabilityAnswer _ _ => 0
  | .copyStart _ _ => 0
  | .copyBegin _ _ => 0
  | .copyChunk _ _ _ => 0
  | .copyComplete _ _ => 0
  | .messageArrival _ => 0
  | .sendStatus _ _ => 0
  | .heapReplay _ => 0
  | .handlerStart _ => 0
  | .handlerTrap _ => 0
  | .migrateArrival _ _ => 0
  | .strandDispatch _ _ _ => 0
  | .stealRequest _ _ _ => 0
  | .stealAnswer _ _ => 0
  | .stealBackoffExpiry _ _ => 0
  | .blockDeparture _ _ => 0
  | .blockResolve _ _ => 0
  | .acqRetry _ _ => 0
  | .fbarMArrival _ _ => 0
  | .footingRelease _ _ => 0
  | .coursePreempted _ => 0
  | .launchResume _ => 0
  | .launch _ => 0
  | .launchPlacement _ _ _ _ => 0
  | .launchComplete _ => 0
  | .doorbell _ _ _ _ => 0
  | .signalStore _ => 0
  | .signalAdd _ => 0
  | .signalLandSet _ => 0
  | .waitCounter _ => 0
  | .waitLanding _ => 0
  | .waitSatisfied _ => 0
  | .mark _ => 0
  | .queueCreate _ _ _ _ _ _ => 0
  | .queueReset _ => 0
  | .slotTick => 0
  | .chainSwitchComplete _ _ => 0
  | .chswLimitExpiry _ _ => 0
  | .schedulerSwitchRequest _ _ _ => 0
  | .mapRequest _ => 0
  | .shootdownInvalidate _ _ => 0
  | .shootdownAcknowledge _ _ => 0
  | .withdrawalPoint _ => 0
  | .spaceCreate _ _ _ _ => 0
  | .spaceTeardown _ _ => 0
  | .heatSweep => 0
  | .ownershipTransferToA _ => 0
  | .transferAnswer _ => 0
  | .ownershipTimeout _ => 0
  | .ownershipTransferToP _ => 0
  | .hostAtomicUnsupported _ _ => 0
  | .fallbackAnswer _ _ => 0
  | .flushRead _ => 0
  | .flushReadComplete _ => 0
  | .heartbeatWrite _ _ => 0
  | .heartbeatTimeout => 0
  | .pairMismatch _ => 0
  | .livenessWrite _ => 0
  | .hostLoss => 0
  | .queryState => 0
  | .resync => 0
  | .linkDown _ => 0
  | .linkUp _ => 0
  | .extentAdd _ _ _ => 0
  | .extentRelease _ => 0
  | .extentForcedRemoval _ => 0
  | .farLinePoison _ => 0
  | .load _ _ _ _ _ _ => 0
  | .sessionEstablish _ => 0
  | .keySet _ _ _ _ => 0
  | .keyClear _ _ => 0
  | .protect _ _ _ _ _ => 0
  | .seal _ _ _ _ _ => 0
  | .lock _ _ => 0
  | .tokens _ _ => 0
  | .attest _ _ => 0
  | .migrateOut _ _ => 0
  | .receipt _ _ => 0
  | .release _ => 0
  | .sessionTimeout _ => 0
  | .graceExpiry _ => 0
  | .worldAssign _ _ => 0
  | .clearRoutine _ => 0
  | .clearTimeout _ => 0
  | .migrationActive _ => 0
  | .abortedLost _ => 0
  | .moduleReset _ => 0
  | .routerFault _ => 0
  | .sensorSample _ _ _ _ => 0
  | .droopCutExpiry _ => 0
  | .powerPeriod _ => 0
  | .moduleCapSet _ => 0
  | .snapshotTrigger => 0
  | .snapshotLatch => 0
  | .snapshotRead _ => 0
  | .traceControlWrite _ _ _ => 0
  | .traceClear _ => 0
  | .stop _ _ => 0
  | .stopTaken _ _ => 0
  | .resume _ _ => 0
  | .readReg _ _ => 0
  | .writeReg _ _ => 0
  | .readMem _ => 0
  | .illegalOpcode _ => 0
  | .pauseExpiry _ _ => 0
  | .bar2Access _ _ _ => 0
  | .regionHoldExpiry _ => 0
  | .uncorrectableSoftError _ => 0
  | .farLineRepair _ => 0
  | .powerGating _ => 0
  | .faultServiceTargetSet _ _ _ _ _ _ _ => 0
  | .runtimeEntrySet _ _ => 0
  | .closedNodeRemoval _ => 0
  | .gracePeriodSet _ _ => 0
  | .sessionHeartbeat _ => 0

/-- What the decoder reads from an instruction of nbits bits, laid out as four bytes with the first at the lowest
address (R4). -/
def decodeTableWord (nbits w : Nat) : Option Instr :=
  let v := w % 2 ^ nbits
  (decode (wordOfBytes (fieldAt v 0 8) (fieldAt v 8 8) (fieldAt v 16 8) (fieldAt v 24 8))).toOption

end Sys2Proof
end

