-- ==== Sys2Proof/Config.lean ====
section
/-! DEFINITION. Free values: what the manual leaves open, as constants without a body (R8, R264, R227 to R229, R331 to
R338), and the fixed figures of the part (R2). No proof can see what a constant without a body is. -/

namespace Sys2Proof.Config

/-- What the outside world and the circuits do that is no row of the map (R261, R316, R320, R325, R329, R331, R337, R338, R341, R349; log
107). -/
inductive Env where
  /-- A service pair corrects a compare retry (R320, R321). -/
  | compareRetry (die : Nat)
  /-- A unit of memory returns poison: a mode-10 failure, or the pool's, the host's or a peer's own poison (R261, R325, R349). -/
  | poisoned (pa : Nat)
  /-- The owner of far, host or peer memory repairs it (R349). -/
  | repaired (pa : Nat)
  /-- The link of a die-to-die boundary comes up or goes down (R324). -/
  | boundary (n : Nat) (up : Bool)
  /-- Port 1 runs CXL, or PCI Express (R316). -/
  | cxl (on : Bool)
  /-- A sensor is read: kind 0 thermal, 1 droop, whose worst reading begins anew, 2 process (R341). -/
  | sensorRead (die kind i : Nat)
  /-- The device's Ed25519 and ML-DSA-65 signatures verify with the tenant, or not (R331). -/
  | identity (ed ml : Bool)
  /-- A brick's storage has bits that do not clear (R337). -/
  | stuckBits (b : Nat) (v : BitVec 32)
  /-- Another B8 sends a world here: its launches' state and its wrapped keys (R338). -/
  | worldIn (w : Nat) (state : List Nat) (keys : List (Nat × Nat × Nat))
  /-- The host moves the HBM window of BAR2 (R316). -/
  | window (base : Nat)
  /-- The fleet operator clears OVER of a snapshot block (R343). -/
  | clearOver (n : Nat)
deriving DecidableEq, Repr, Inhabited

/-- Who moves in a turn: a strand of a brick, a step without an encoding, or the outside (log 1). -/
inductive Agent where
  | strand (b k : Nat)
  | event (i : Instr)
  | env (e : Env)
deriving DecidableEq, Repr, Inhabited

/-- A turn: cycles that pass first, then the agent that moves (log 1, log 2). -/
structure Turn where
  dt : Nat
  who : Agent
deriving DecidableEq, Repr, Inhabited

/-- The turn that comes next when none is listed (log 1). -/
opaque freeTurn : Nat → Turn
/-- An undefined 64-bit value (R8, log 7). -/
opaque freeWord : Nat → BitVec 64
/-- An undefined vector register (R8, R14, log 7). -/
opaque freeVec : Nat → BitVec 512
/-- A choice the manual leaves open among slots of the deque (R31, log 7). -/
opaque freeSlot : Nat → Nat → Nat
/-- A VA at which the operating service maps a page of a queue (R304, log 114). -/
opaque queuePage : Nat → Nat
/-- An undefined byte (R8, R31, R171, log 7 and log 16). -/
opaque freeByte : Nat → BitVec 8
/-- Plaintext of a sealed byte: key, physical address, ciphertext (R264, R332, log 11). -/
opaque openSealed : Nat → Nat → BitVec 8 → BitVec 8
/-- The GMAC check of a 256-byte sector: key, physical address of the sector, its bytes, its tag (R159, R333, log 11). -/
opaque tagOk : Nat → Nat → List (BitVec 8) → List (BitVec 8) → Bool
/-- The VA at which the operating service maps the runtime's code into a space (R352, log 7). -/
opaque runtimeEntry : Nat → BitVec 64
/-- Verification of an Ed25519 (1) or ML-DSA-65 (2) signature: algorithm, key digest, message, signature (R228, log 12). -/
opaque sigOk : Nat → BitVec 384 → List (BitVec 8) → List (BitVec 8) → Bool
/-- Measurements of the service firmware (0) and of the clear routine (1) (R335, log 12). -/
opaque firmware : Nat → BitVec 384
/-- The trust list of a space, which no rule says how to fill: digests of public keys (R229, log 12). -/
opaque trustList : Nat → List (BitVec 384)
/-- Signature of an attestation record by the identity keys, as one number (R335, log 12). -/
opaque sign : List Nat → Nat
/-- A receipt of a world's move verifies: world, receipt (R338, log 12). -/
opaque receiptOk : Nat → Nat → Bool
/-- The key of a session: world and number of the session (R331, R334, log 12). -/
opaque sessionKey : Nat → Nat → Nat
/-- The MAC of a write token: session key, sequence number, request (R334, log 12). -/
opaque tokenMac : Nat → Nat → List Nat → Nat
/-- A key wrapped for a destination's identity: destination, slot, key (R338, log 12). -/
opaque wrapKey : Nat → Nat → Nat → Nat
/-- A wrapped key as its destination opens it: slot, wrapped key (R338, log 12). -/
opaque openKey : Nat → Nat → Nat
/-- The receipt that a destination signs for a world that it was sent (R338, log 12). -/
opaque receiptFor : Nat → List Nat → List (Nat × Nat × Nat) → Nat

/-- Bytes of a brick's SRAM: 96 KiB (R2). -/
def sramBytes : Nat := 0x18000
/-- Start of the deque region in a brick's SRAM (R31). -/
def dequeBase : Nat := 0x17800
/-- HBM bytes: 1,280 GiB (R2, R36). -/
def hbmBytes : Nat := 1280 * 2 ^ 30
/-- HBM of one die: its two stacks (R350). -/
def dieHbm : Nat := 160 * 2 ^ 30
/-- HBM of each die that is reserved for the map units and the operating service, at its top; no node covers it (R253, R254; log 19). -/
def hbmReserved : Nat := 2 ^ 29
/-- HBM of each die that its root node covers: all but the reserved part, and 64 KiB below that for the runtime's code (R253, R352;
log 19, log 112). -/
def hbmOpen : Nat := dieHbm - hbmReserved - 2 ^ 16
/-- The die that carries a port: 0 and 1 the host's, from 16 on the device-to-device ports (R244, R316, R350, log 19). -/
opaque portDie : Nat → Nat
/-- The die that carries the doorbell page with a number (R304, log 19). -/
opaque doorDie : Nat → Nat
/-- Rows and columns of bricks on a die (R2). -/
def dieSide : Nat := 56
/-- Cycles of one tick of the firmware, 100 µs at 2.1 GHz (R310). -/
def tickCycles : Nat := 210000
/-- Cycles of a millisecond (R322). -/
def msCycles : Nat := 2100000

end Sys2Proof.Config
end

