-- ==== Sys2Proof/Machine/State.lean ====
section
/-! DEFINITION. The state of the B8 as plain data: strands, bricks, the device, and the machine after module reset
(R13 to R37 and the rules named at each field). A brick that no list names is as Brick.fresh gives it. -/

namespace Sys2Proof.Machine

/-- Why a step stops with a fault. No rule of the manual stops the machine: memory faults are messages (R116). -/
inductive Fault where
  /-- Raised by nobody; kept so that the type is not empty. Safe. -/
  | none
deriving DecidableEq, Repr

/-- Why a step gives no meaning. -/
inductive Refusal where
  /-- Raised by Dispatch.lean's arms of instructions not modelled yet. Safe. -/
  | notModelled (mnemonic : String)
deriving DecidableEq, Repr

/-- Mode of a strand (R29). -/
inductive Mode where
  | task
  | service
deriving DecidableEq, Repr

/-- Trap and fault codes (R98, R274). -/
inductive Code where
  | illegalOpcode | reservedField | kindTag | hintOrphan | privilege | misaligned | breakpoint | trapInsn
  | accNotOwner | migrateWithAcc | scaleInvalid | sealedIntegrity
  | notMapped | rights | exec | sealedLoad | sealedStore | sealedCopy | sealedDebug | sealedGather | aliasMix
  | formatMismatch | poison | farExtentGone | ownershipTimeout | worldRefused | revoked | hole
  | landingOverrun | bufDescInvalid | cpTemplateInvalid | capabilityRefused | hostAtomicUnsupported | inboxDropped
  | watchdog | deadlineForced
deriving DecidableEq, Repr

/-- Access classes of a fault message, in the order of their numbers (R116). -/
inductive Access where
  | load | store | atomic | fetch | copy | matrix | gather | message | landing
deriving DecidableEq, Repr

/-- A fault message (R116). -/
structure FaultMsg where
  space : Nat
  code : Code
  brick : Nat
  strand : Nat
  access : Access
  retired : Bool
  pc : Word
  addr : Word
  seq : BitVec 32
  mbox : Nat
deriving DecidableEq, Repr

/-- What a reply left for one access of the instruction in hand (R117, R351); placed: an element of a gather or scatter whose checks have
passed, with its address, its place and the epoch in which it was translated (R140). -/
inductive Answer where
  | skip
  | redirect (a : Word)
  | placed (a : Word) (pa : Nat) (epoch : Nat)
deriving DecidableEq, Repr

/-- A bind entry and its count of unacknowledged stores (R32, R114). -/
structure BindEntry where
  sync : Word
  base : Word
  len : Word
  count : Nat
deriving DecidableEq, Repr

/-- A sequence-ring entry that is occupied (R24); tag is its context (R23). trapped: its late fault's trap was taken (R180). -/
structure RingEntry where
  seq : BitVec 32
  kind : Nat
  fault : Option Code
  pc : Word
  insn : IWord
  args : BitVec 32
  addr : Word
  tag : Nat
  trapped : Bool
deriving DecidableEq, Repr

/-- A late fault that is due or pending (R25). -/
structure Late where
  code : Code
  seq : BitVec 32
deriving DecidableEq, Repr

/-- Operations of the atomics, in the order of their FN (R119). -/
inductive AmoOp where
  | add | xchg | cas | min | max | and | or | xor
deriving DecidableEq, Repr

/-- An atomic in flight: operation, width in bytes, operand, expected value (R120). -/
structure Amo where
  op : AmoOp
  n : Nat
  v : Nat
  e : Nat
deriving DecidableEq, Repr

/-- Progress of one pending access of a long-latency operation; retry: a reply let it issue again, translated afresh (R117). -/
inductive AccSt where
  | pending
  | host
  | done
  | retry
  | faulted (tok : Nat) (code : Code)
deriving DecidableEq, Repr

/-- One access that a strand's operation has still to perform at home (R111, R140): off is its place in the operation's
buffer; nofill: it fills no RRB line, and neither does it once an invalidation after number cut covers its line (R112). -/
structure PAcc where
  ea : Word
  pa : Nat
  len : Nat
  off : Nat
  amo : Option Amo
  nofill : Bool
  epoch : Nat
  cut : Nat
  st : AccSt
deriving DecidableEq, Repr

/-- A register result that waits for window close (R71): a scalar, and vector registers with byte-lane masks; zero: the
inactive lanes become zero (R132). -/
structure Commit where
  sc : Option (BitVec 4 × Word)
  vs : List (BitVec 5 × VReg × PReg)
  zero : Bool
deriving DecidableEq, Repr

/-- What a long-latency operation waits for, and what makes its result. -/
inductive OpKind where
  | plain
  | load (n : Nat) (signed : Bool) (d : BitVec 4)
  | vload (d : BitVec 5) (pair : Bool) (mask : PReg)
  | vdecode (d : BitVec 5) (pair : Bool) (geom : Nat) (mask : PReg) (ea : Word) (skips : List Nat)
  | gather (d : BitVec 5) (w : Nat) (mask : PReg)
  | scatter (left : Nat)
  | matrix
  | remote (d : BitVec 4) (left : Nat) (refused : List Nat)
  | foot (key : Nat) (d : Option (BitVec 4)) (drain : Bool)
  | cpWait (d : BitVec 4) (c : Nat) (m : Word) (sel : Nat)
  | mapw (d : BitVec 4) (a : Word)
  | msg (d : BitVec 4) (land : Word) (landSkip : Bool) (status : Option Nat)
  | chsw (d : BitVec 4)
deriving DecidableEq, Repr

/-- A long-latency operation of a strand: its window has left instructions to run, none for an operation without a window
(R70); hold: later S-path accesses issue only once it is done (R120); gpc: the first executed hint of its group, else pc (R79). -/
structure Op where
  id : Nat
  left : Option Nat
  done : Bool
  hold : Bool
  commit : Commit
  flags : BitVec 5
  seq : Option (BitVec 32)
  kind : OpKind
  accs : List PAcc
  buf : Nat
  space : Nat
  pc : Word
  gpc : Word
deriving DecidableEq, Repr

/-- Hints waiting for their consumer (R75); imms in the order they were executed; start is the first hint's address. -/
structure Hints where
  imms : List (BitVec 24)
  mod : Option (BitVec 24)
  sched : Option (BitVec 24)
  start : Option Word
deriving DecidableEq, Repr

/-- What a blocked task waits for (R118, R236). -/
inductive BlockOn where
  | fault (tok : Nat) (ord : Nat) (code : Code)
  | opFault (tok : Nat) (op : Nat)
  | acq (ea : Word) (b : Word)
  | join (ea : Word)
  | wfm (tag : Option (BitVec 16))
  | op (id : Nat)
  | equiv (r : Nat) (next : Word)
  | get (r n : Nat)
  | put (r n : Nat)
  | chsw (r : Nat)
  | ring
  | region (base ord : Nat) (cls : Access) (addr : Word)
deriving DecidableEq, Repr

/-- What the hardware knows of a running task beside its registers (R31, R232, R281): launch, root index, join counter,
context block, and the chains of which it runs a stage, with that stage. -/
structure Task where
  launch : Nat
  root : Option Nat
  nojoin : Bool
  joinAddr : Word
  blk : Nat
  stages : List (Nat × Nat)
deriving DecidableEq, Repr

/-- A hold armed by fence.x: classes to drain, classes held, the number that later operations start from, and the brick, strand and context
that armed it (R130). -/
structure FxHold where
  a : BitVec 5
  b : BitVec 5
  upTo : Nat
  brick : Nat
  strand : Nat
  key : Nat
deriving DecidableEq, Repr

/-- A context that is not on a strand: its registers lie in its save area (R33); strand is the one that it
left (R23); full: v and p were saved (R118); order numbers the saves (R240); fx: its holds (R130); trapDue: a precise trap that it has
still to take (R73). -/
structure Ctx where
  task : Task
  ctxid : BitVec 32
  space : Nat
  savearea : Word
  strand : Option Nat
  full : Bool
  block : Option BlockOn
  since : Nat
  answers : List (Nat × Answer)
  phase : Nat
  ops : List Op
  lates : List Late
  kill : Option Word
  order : Nat
  fx : List FxHold
  trapDue : Option (Code × Word)
deriving DecidableEq, Repr

/-- A strand that issues nothing: halted by halt, or stopped by the debug agent (R105, R345). -/
inductive Halted where
  | halt
  | stop
deriving DecidableEq, Repr

/-- State of a strand that looks for work to steal (R237): the next brick to ask, an answer under way, or back-off. -/
inductive Steal where
  | idle
  | ask (idx : Nat)
  | answered (got : Bool)
  | backoff (until_ : Nat)
deriving DecidableEq, Repr

/-- One hardware strand; saveTok: a save of a blocked task waits for a reply (R33); restore: the save area is still to be loaded, with
v and p or without (R33); kill: the task is ending by KILL with this status (R180); trapDue: a precise trap that was found at issue
and waits for the windows to close, with its resume address (R73) (R13, R14, R17, R19, R23, R26, R27). -/
structure Strand where
  pc : Word
  s : Vector Word 16
  v : Vector VReg 32
  p : Vector PReg 8
  mode : Mode
  rm : BitVec 2
  fpstat : BitVec 5
  bindtab : BitVec 8
  binds : Vector BindEntry 8
  bufbase : BitVec 8
  unacked : Nat
  deadline : BitVec 32
  yieldPend : Bool
  yieldLeft : BitVec 32
  wdLog2 : BitVec 5
  wdCount : BitVec 32
  trapvec : BitVec 55
  trappc : Word
  trapcause : BitVec 10
  fltseq : BitVec 32
  seqNext : BitVec 32
  ring : List RingEntry
  ctxid : BitVec 32
  savearea : BitVec 45
  space : Nat
  task : Option Task
  ops : List Op
  hints : Hints
  block : Option BlockOn
  since : Nat
  answers : List (Nat × Answer)
  phase : Nat
  halted : Option Halted
  stopReq : Bool
  pause : Option Nat
  lates : List Late
  wdDue : Bool
  saveDue : Bool
  fx : List FxHold
  issued : Nat
  fetchAll : Nat
  fetchOwn : Nat
  steal : Steal
  lastSpace : Nat
  handlerCount : Nat
  saveTok : Option (Nat × Nat × Code)
  restore : Option Bool
  kill : Option Word
  trapDue : Option (Code × Word)
  lapse : Option Nat
deriving DecidableEq, Repr

/-- An element format of memory (R48), in the order of its code. -/
inductive Fmt where
  | raw | fp32 | fp16 | bf16 | e4m3 | e5m2 | int8 | b4
deriving DecidableEq, Repr

/-- The attribute word of a node or entry (R261), without heat. -/
structure Attr where
  rights : BitVec 3
  fmt : Fmt
  geom : BitVec 2
  prot : BitVec 2
  keyslot : BitVec 4
deriving DecidableEq, Repr

/-- How a node maps its range: straight onto pa, as the course window or the aperture rectangle of a course (R257, R258),
as the closed node of a removed far extent (R326), as the doorbell page of a queue (R304), or onto the copy of the runtime's code in the HBM
of the die that makes the access (R352, log 112). -/
inductive NodeKind where
  | linear
  | course (org shape : Nat)
  | aperture (org shape : Nat)
  | closed
  | doorbell (d : Nat)
  | runtime
deriving DecidableEq, Repr

/-- A node of the mapping tree (R255); world: the world that an extent of far memory is protected for, else 0 (R330);
range: a range entry holds it (R259); port: the port that carries its host accesses (R36). -/
structure Node where
  id : Nat
  space : Nat
  va : Nat
  len : Nat
  pa : Nat
  attr : Attr
  parent : Option Nat
  kind : NodeKind
  withdrawing : Bool
  mixed : List Nat
  world : Nat
  range : Bool
  port : Nat
deriving DecidableEq, Repr

/-- A translation entry of a brick's interface: a copy of a node's mapping, whole or one page of it (R259, R260). -/
structure XEntry where
  space : Nat
  va : Nat
  len : Nat
  node : Node
deriving DecidableEq, Repr

/-- An RRB line (R112). -/
structure RrbLine where
  space : Nat
  va : Nat
  data : List Byte
deriving DecidableEq, Repr

/-- What a retired access does at its home (R114, R123, R127, R141, R167, R168). -/
inductive FAct where
  | write (bytes : List (Option Byte))
  | amo (a : Amo)
  | rel (b : Word)
  | landSet (m : Nat)
  | bufAdv (n : BitVec 32)
deriving DecidableEq, Repr

/-- A retired access at the brick's interface (R114). op: the scatter it belongs to; binds: entries that count it; pa: its place once
the interface has translated it; arrived: performed or dropped, its acknowledgement on the way; posted: it waits for a flushing read of
its port (R245). -/
structure Flight where
  id : Nat
  strand : Nat
  ctx : Nat
  space : Nat
  pc : Word
  ea : Word
  len : Nat
  act : FAct
  op : Option Nat
  binds : List Nat
  counted : Bool
  arrived : Bool
  posted : Bool
  epoch : Nat
  access : Access
  pa : Option Nat
deriving DecidableEq, Repr

/-- A buffer descriptor as a command read it; at is its own-SRAM offset (R30). -/
structure Desc where
  at_ : Nat
  base : Word
  log2 : Nat
  item : Nat
  count : Nat
  remote : Bool
  mcrow : Bool
  mccol : Bool
  ppmem : Bool
  cpmem : Bool
  prod : Word
  cons : Word
deriving DecidableEq, Repr

/-- Kinds of matrix command (R157, R165, R164): mma, a panel step with the tiles it received, and the accumulator ones. -/
inductive MatKind where
  | mma (pair geom : Nat) (emit : Bool)
  | panel (pair geom : Nat) (emit : Bool)
  | zero
  | ld
  | st
deriving DecidableEq, Repr

/-- Operand tiles of one step (R157, R164): bytes of A and B, each with the mark of a poisoned line, their VAs, the VA of the
first poisoned line, and the VA of a sealed sector whose tag failed (R159). -/
structure Tiles where
  a : List (Byte × Bool)
  b : List (Byte × Bool)
  aAt : Nat
  bAt : Nat
  poison : Option Nat
  tagBad : Option Nat
deriving DecidableEq, Repr

/-- A command in a brick's matrix queue (R158, R160, R163). slot: the slot it was accepted under; tiles: what a panel step
received; image: the accumulator image that a fired command has still to store, pins: the translations it holds for that (R160);
issuer: brick, strand and number
of the remote command. -/
structure MatCmd where
  id : Nat
  kind : MatKind
  ctx : Nat
  space : Nat
  strand : Nat
  seq : BitVec 32
  pc : Word
  descs : List Desc
  slot : Option Nat
  fired : Bool
  tiles : List Tiles
  image : Option Acc
  pins : List XEntry
  issuer : Option (Nat × Nat × Nat)
deriving DecidableEq, Repr

/-- A capability slot (R161). -/
structure Slot where
  key : Nat
  nonce : Nat
  ctx : Nat
  strand : Nat
  pc : Word
  bufbase : BitVec 8
deriving DecidableEq, Repr

/-- A remote or panel command on its way to one brick (R163, R164): idx is its panel index; by_: the
issuing strand; tok: it waits there for the reply to a fault of
its checks, with that access and its code; answers: the replies so far. -/
structure RemoteCmd where
  id : Nat
  src : Nat
  by_ : Nat
  op : Nat
  dst : Nat
  key : Nat
  nonce : Nat
  insn : IWord
  mode : BitVec 6
  descs : List Nat
  panel : Bool
  idx : Nat
  answered : Option Bool
  tok : Option (Nat × Nat × Code)
  answers : List (Nat × Answer)
deriving DecidableEq, Repr

/-- An issuer's panel command that waits until its buffers are ready (R164). accepted: brick, command and panel index of each
brick that accepted. -/
structure PanelJob where
  id : Nat
  op : Nat
  strand : Nat
  space : Nat
  ctx : Nat
  seq : BitVec 32
  pc : Word
  a : Desc
  b : Desc
  rows : Nat
  cols : Nat
  pair : Nat
  geom : Nat
  accepted : List (Nat × Nat × Nat)
deriving DecidableEq, Repr

/-- A copy template as it was snapshotted (R169). -/
structure Template where
  src : Word
  dst : Word
  xlen : Nat
  ycnt : Nat
  zcnt : Nat
  ssy : Int
  ssz : Int
  dsy : Int
  dsz : Int
  land : Word
  compl : Word
  bitmap : Bool
  reserved : Bool
deriving DecidableEq, Repr

/-- A copy start: the data of its store, the template it snapshotted (none if its read faulted), who stored it, and the holds on copies that
its strand had armed when it was accepted (R130, R169 to R171). -/
structure CopyStart where
  id : Nat
  ctx : Nat
  data : Word
  tmpl : Option Template
  code : Option Code
  strand : Nat
  space : Nat
  pc : Word
  holds : List FxHold
deriving DecidableEq, Repr

/-- A chunk of a copy: its place in copy order, source, destination and bytes (R169). -/
structure Chunk where
  idx : Nat
  src : Nat
  dst : Nat
  len : Nat
deriving DecidableEq, Repr

/-- States of a copy channel, in the order of their numbers (R172). -/
inductive ChanSt where
  | idle | running | done | failed
deriving DecidableEq, Repr

/-- A copy channel (R172): job is the copy in hand, with the chunks still to send once it has begun. -/
structure Channel where
  st : ChanSt
  latched : Option CopyStart
  poisoned : Bool
  code : Option Code
  tmpl : BitVec 16
  ptr : Nat
  chunks : Word
  poison : Word
  job : Option CopyStart
  begun : Bool
  left : List Chunk
  written : Nat
deriving DecidableEq, Repr

/-- A 144-byte migration frame with what travels beside it (R33, R181, R238). -/
structure Frame where
  task : Task
  ctxid : BitVec 32
  space : Nat
  savearea : Word
  pc : Word
  rm : BitVec 2
  fpstat : BitVec 5
  s : Vector Word 16
  dst : Nat
  fx : List FxHold
deriving DecidableEq, Repr

/-- A task record of the deque (R31); frame: the record stands for a migrated task; stolen: it came from another brick (R178). -/
structure DeqRec where
  launch : Nat
  entry : Word
  nojoin : Bool
  joinAddr : Word
  arg0 : Word
  arg1 : Word
  frame : Option Frame
  stolen : Bool
deriving DecidableEq, Repr

/-- A message (R184, R185, R273). space is the space it belongs to; op is the sender's operation;
fault: an interface sent it, a fault message or report (R116); colour: that of the launch whose bricks sent it, 16 for none (R315). -/
structure Msg where
  id : Nat
  srcBrick : Nat
  srcStrand : Nat
  space : Nat
  hdr : Word
  land : Word
  data : List Word
  code : List IWord
  dst : Nat
  op : Option Nat
  fault : Bool
  colour : Nat
deriving DecidableEq, Repr

/-- A pending switch of a chain (R200, R282): form asked for, the issuing stage's strand, or none for the scheduler's,
operation to complete, and the cycle at which its limit passes. -/
structure Switch where
  crec : Nat
  form : Bool
  by_ : Option Nat
  op : Option Nat
  limit : Option Nat
deriving DecidableEq, Repr

/-- A change of ACCOWN that has begun and not completed, by a csrw or by a first touch (R22, R242): v: the new value; space and save: the
space and SAVEAREA of the context that it comes to name; tok: a line of an image waits for a reply; answers: the replies so far, and SKIP
for each line that is done; old: the former owner whose image goes out: its key, space and SAVEAREA; lost: that context has ended. -/
structure OwnWrite where
  v : Word
  strand : Nat
  tok : Option (Nat × Nat × Code)
  answers : List (Nat × Answer)
  lost : Bool
  space : Nat
  save : Nat
  old : Option (Nat × Nat × Nat)
  touch : Bool
deriving DecidableEq, Repr

/-- An entry of the trace buffer (R344). -/
structure TraceEntry where
  time : Nat
  kind : Nat
  strand : Nat
  access : Nat
  data : Word
deriving DecidableEq, Repr

/-- The debug-agent aperture of a brick (R345). -/
structure Dbg where
  cmd : Word
  sel : Word
  space : Word
  pc : Word
  state : Nat
  code : Nat
  data : BitVec 512
deriving DecidableEq, Repr

/-- One brick, or the stand-in brick of a service pair (R13, R22, R31, R112, R158, R161, R168, R185, R196, R235). kept: contexts that
the scheduler holds while their launch is pre-empted (R240); rrbCuts: what was invalidated since some load under way issued: a range of a
space, or everything (R112); fences: the holds naming C whose end invalidates the template cache (R130); switchWait: the cycle at which the
scheduler's last request for a chain was refused (R286); stuck: bits that its storage reads back as 1 after it has been cleared (R337). -/
structure Brick where
  strands : Vector Strand 5
  disabled : Bool
  retiring : Bool
  gated : Bool
  acc : Acc
  accown : Word
  ownSave : Word
  ownPending : Option OwnWrite
  deque : List DeqRec
  deqVer : Nat
  tasks : Bool
  ready : List Ctx
  away : List Ctx
  kept : List Ctx
  frames : List Frame
  inbox : List Msg
  heap : List Msg
  handler : Option Msg
  rrb : List RrbLine
  rrbCuts : List (Option (Nat × Nat × Nat))
  entries : List XEntry
  epoch : Nat
  taken : List (Nat × Nat)
  acked : List Nat
  flights : List Flight
  matq : List MatCmd
  panels : List PanelJob
  slots : Vector (Option Slot) 8
  chans : Vector Channel 8
  tcache : List (Nat × Nat × List Byte)
  fences : List FxHold
  chains : List Nat
  switches : List Switch
  switchWait : List (Nat × Nat)
  held : List (Nat × CopyStart × Nat)
  launch : Option Nat
  c : Vector Word 32
  coursewin : BitVec 27
  courseorg : BitVec 15
  courseshape : BitVec 15
  footmask : Word
  trace : List (Nat × TraceEntry)
  trctl : Word
  trmatch : Word
  dbg : Dbg
  stuck : BitVec 32
deriving DecidableEq, Repr

/-- Where a space's faults go (R273). -/
inductive Target where
  | unset
  | strand (va : Word) (space : Nat) (k : Nat)
  | pair (die : Nat)
deriving DecidableEq, Repr

/-- What a service pair answers to a fault (R273): the numbers of R117's replies. -/
inductive Policy where
  | retry | skip | kill
deriving DecidableEq, Repr

/-- The record of a live space, numbered by number + 2^16 × generation (R253, R272, R328, R352); images: start and length of
loaded code with the .local image of its container (R227, R231, log 36). -/
structure Space where
  id : Nat
  world : Nat
  tmpl : Word
  target : Target
  policy : Policy
  trapEntry : Option Word
  teardown : Bool
  dies : List Nat
  trust : List (BitVec 384)
  images : List (Nat × Nat × List Byte)
deriving DecidableEq, Repr

/-- Requests of a map unit (R201). -/
inductive MapFn where
  | map | grant | unmap | unmapSelf
deriving DecidableEq, Repr

/-- A request on its way to the map unit of die home (R202, R203, R256); zero: the store of 0 to its status word, which goes before. -/
structure MapReq where
  fn : MapFn
  brick : Nat
  strand : Nat
  space : Nat
  pc : Word
  base : Word
  len : Word
  dest : Word
  dspace : Nat
  attr : Attr
  status : Word
  home : Nat
  zero : Option Nat
deriving DecidableEq, Repr

/-- A withdrawal under way (R265, R269): marked nodes, spaces and ranges to shoot down, dies in its mask. waits: nodes of
other withdrawals that must go first (R268); make: root nodes that are made at its end (R333). -/
structure Withdrawal where
  id : Nat
  nodes : List Nat
  ranges : List (Nat × Nat × Nat)
  dies : List Nat
  waits : List Nat
  req : Option MapReq
  count : Nat
  make : List Node
deriving DecidableEq, Repr

/-- Operations of a footing phase (R190, R193). -/
inductive FootOp where
  | bar
  | barM
  | bcast (v : Option Word)
  | comb (op : Nat) (v : BitVec 32)
deriving DecidableEq, Repr

/-- An arrival on a channel: brick, context and operation that made it, and its arrival cycle; waits: the context had an arrival
pending, so that the release of the current phase is its arrival cycle (R191). -/
structure Arrival where
  brick : Nat
  ctx : Nat
  op : Nat
  what : FootOp
  cycle : Nat
  waits : Bool
deriving DecidableEq, Repr

/-- A footing channel in use, numbered 64 × die + channel for die scope and 512 + channel for device scope (R191, R276). -/
structure Foot where
  key : Nat
  launch : Nat
  expected : Nat
  phase : BitVec 32
  arrivals : List Arrival
  held : List Arrival
deriving DecidableEq, Repr

/-- The LAUNCH command (R307). -/
structure LaunchCmd where
  gang : Bool
  steal4 : Bool
  nochsw : Bool
  wdret : Bool
  barrier : Bool
  prio : Nat
  colour : Nat
  nfd : Nat
  nfv : Nat
  code : Word
  cbank : Word
  pool : Word
  compl : Word
  ctxcount : Nat
  deadline : BitVec 32
  rows : Nat
  cols : Nat
  ctxlog2 : Nat
  descbase : BitVec 8
  fplo : Nat
  fphi : Nat
  fcount : Nat
  origin : Nat
  fdbase : Nat
  fvbase : Nat
deriving DecidableEq, Repr

/-- States of a launch (R240, R313, R314). -/
inductive LaunchSt where
  | waiting | running | preempting | preempted
deriving DecidableEq, Repr

/-- A launch that the device knows (R230 to R234, R240, R313). live counts its tasks; deques are the records of its deques while it is
pre-empted; image is its .local image, consts its constant bank; started: its roots have been started; raises: cycles at which
requests on channel 63 reach its strands (R279); freed: the cycle at which a context block was last freed (R286);
refused: the reason for which it is refused, its record still to be written (R308); entry: the trap entry that its first installation on
a course set (R352); recd: the accesses of its completion record that are still posted, once it is written (R245, R308). -/
structure Launch where
  id : Nat
  space : Nat
  cmd : LaunchCmd
  st : LaunchSt
  org : Nat
  tag : Nat
  win : Nat
  tmask : Word
  die : Nat
  queue : Option Nat
  after : List Nat
  blocks : List Nat
  live : Nat
  roots : List (Nat × Word)
  forced : Nat
  start : Nat
  waited : Nat
  image : List Byte
  child : Bool
  consts : Vector Word 32
  started : Bool
  deques : List (Nat × List DeqRec)
  raises : List Nat
  freed : List (Nat × Nat)
  refused : Option Nat
  entry : Option Word
  recd : Option (List Nat)
deriving DecidableEq, Repr

/-- A condition that a WAIT command holds its queue on (R309). -/
inductive QWait where
  | counter (a v : Word)
  | landing (a : Word)
deriving DecidableEq, Repr

/-- A user queue (R304 to R306, R310): door: the number of its doorbell page; cmd: a command that has been read and is not carried out;
begun: since when it has been unmapped with work; headVa: where its head word is mapped into its space; stale: its head word is still to
be written. -/
structure Queue where
  id : Nat
  space : Nat
  ring : Nat
  log2n : Nat
  headAt : Nat
  head : BitVec 32
  tail : BitVec 32
  err : Nat
  prio : Nat
  slot : Option Nat
  waited : Nat
  mapped : Nat
  wait : Option QWait
  door : Nat
  cmd : Option (List Byte)
  begun : Option Nat
  headVa : Nat
  stale : Bool
deriving DecidableEq, Repr

/-- A steal request or its answer on the control network (R237). -/
structure StealMsg where
  thief : Nat
  strand : Nat
  victim : Nat
  launch : Nat
  answer : Option (Option (DeqRec × Nat))
deriving DecidableEq, Repr

/-- An ownership region of 2 MiB that is not in its reset state (R317, R318): kept: until when its owner holds it; back: a transfer to the
other side waits for that; early: numbers of the operations, retired accesses and matrix commands that were translated before a transfer to
the processor began and have still to be performed (R318). -/
structure Region where
  base : Nat
  owner : Bool
  moving : Bool
  noatom : Bool
  since : BitVec 32
  kept : Nat
  began : Nat
  back : Bool
  early : List Nat
deriving DecidableEq, Repr

/-- An entry of the host driver's mailbox ring (R319). -/
structure MailEntry where
  kind : Nat
  op : Nat
  width : Nat
  tag : Nat
  addr : Nat
  v : Nat
  e : Nat
  brick : Nat
  opId : Nat
  acc : Nat
  space : Nat
deriving DecidableEq, Repr

/-- What the park buffer holds (R323, R336): a host-bound write, or an MSI-X message with a vector. -/
structure Parked where
  world : Nat
  addr : Nat
  act : FAct
  time : Nat
  vector : Option Nat
  space : Nat
deriving DecidableEq, Repr

/-- A service pair (R320 to R322). -/
structure Pair where
  healthy : Bool
  leader : Bool
  mismatch : Nat
  beat : BitVec 32
deriving DecidableEq, Repr

/-- A far-memory extent (R325, R326); dirty: lines that the home caches hold, with the space that last wrote each. -/
structure Extent where
  base : Nat
  len : Nat
  shared : Bool
  node : Nat
  gone : Bool
  dirty : List (Nat × Nat)
deriving DecidableEq, Repr

/-- A key slot in use (R332). -/
structure KeySlot where
  slot : Nat
  usage : Nat
  key : Nat
deriving DecidableEq, Repr

/-- Progress of a world's move (R338); stopping: its launches are being pre-empted. -/
inductive MoveSt where
  | none | stopping | sent | received | active | abortedLost
deriving DecidableEq, Repr

/-- A world and its session (R331 to R338); tokens: sequence numbers of the tokens that are out (R334); sessionNo: the number of its session,
which its key goes with; period: HeartbeatPeriod in seconds (R331). -/
structure World where
  id : Nat
  session : Bool
  lastSeen : Nat
  grace : Option Nat
  gracePeriod : Nat
  keys : List KeySlot
  locked : Nat
  tokens : List Nat
  tokenSeq : Nat
  sessionNo : Nat
  period : Nat
  generation : BitVec 32
  refusals : Nat
  measures : List (BitVec 384)
  move : MoveSt
deriving DecidableEq, Repr

/-- A world that another B8 has sent here (R338): its launches' state as it came, and its keys, wrapped: slot, usage and key. -/
structure Incoming where
  world : Nat
  state : List Nat
  keys : List (Nat × Nat × Nat)
  st : MoveSt
deriving DecidableEq, Repr

/-- A tag region of a sealed extent (R333). -/
structure TagRegion where
  base : Nat
  len : Nat
  tags : List Byte
deriving DecidableEq, Repr

/-- One compute die (R328, R329, R337, R341, R342); refusals: those of its link slices, by the side that a request comes in on: 0 a lower
row, 1 a higher column, 2 a higher row, 3 a lower column. -/
structure Die where
  world : Nat
  quarantined : Bool
  cleared : Bool
  clearing : Option Nat
  share : Nat
  hot : Bool
  droopUntil : Option Nat
  throttle : Nat
  temp : Vector Nat 64
  droop : Vector Nat 32
  process : Vector Nat 8
  refusals : Vector Nat 4
deriving DecidableEq, Repr

/-- An event of the health record (R340). -/
structure HealthEvent where
  time : Nat
  kind : Nat
  die : Nat
  whr : Nat
  data : Nat
deriving DecidableEq, Repr

/-- The headers of the snapshot blocks (R343): every block latches at every trigger, so that SEQ is one; unread and overrun are those
of every block that listed does not name, listed names a block with its own UNREAD and OVER; links, shares, bricks, routers and coping: the
latched counters of the link slices, four to a die (R329), of the power arbiter (R342), of the bricks, of their routers for each colour (R315)
and of the coping slices of each die. -/
structure Snaps where
  seq : Nat
  unread : Bool
  overrun : Bool
  listed : List (Nat × Bool × Bool)
  links : List Nat
  shares : List Nat
  bricks : List (Nat × List Nat)
  routers : List (Nat × List Nat)
  coping : List (List Nat)
deriving DecidableEq, Repr

/-- A port: its posted writes, and how many of them each flushing read under way covers (R245); cxl: it runs CXL (R316). -/
structure Port where
  up : Bool
  posted : List (Nat × Nat)
  lastFlush : Nat
  flushing : List Nat
  cxl : Bool
deriving DecidableEq, Repr

/-- What a world that moves takes along (R338): its launches, their saved contexts and frames, and its keys, wrapped for the destination. -/
structure WorldImage where
  launches : List Launch
  ctxs : List (Nat × Ctx)
  frames : List Frame
  keys : List (Nat × Nat × Nat)
deriving DecidableEq, Repr

/-- Answers that the outside world has been given (R324, R331, R335): kept so that a step's answer can be seen. -/
inductive Reply where
  | status (world : Nat) (s : Nat)
  | tokens (world : Nat) (ts : List Nat)
  | attest (world : Nat) (dies measures : List Nat) (gen refusals nonce sig : Nat)
  | load (status : Nat)
  | query (rows : List (List Nat))
  | poolReleased (base : Nat)
  | bar2 (a : Nat) (v : Word)
  | unsupported (a : Nat)
  | msix (vector : Nat)
  | entry (space va : Nat)
  | moved (world dest : Nat) (image : WorldImage)
  | session (world period : Nat)
  | sensor (die kind i v : Nat)
  | receipt (world r : Nat)
  | snapshot (block seq : Nat) (overrun : Bool) (counters : List Nat)
deriving DecidableEq, Repr

/-- A write to memory that fetch may not see yet (R91): writer, place and the byte it replaced. -/
structure CodeStore where
  n : Nat
  brick : Nat
  strand : Nat
  pa : Nat
  old : Byte
deriving DecidableEq, Repr

/-- The machine. lapsed: the region whose transfer to the accelerator has just failed, and asks: the regions that a container's load needs
(R318, R327); versions: base, length and counter of extents under mode 10 (R333); incoming: worlds that other B8s have sent (R338); measures: the
containers loaded for world 0 (R335); identity: whether the device's two signatures verify with the tenant (R331). -/
structure State where
  bricks : List (Nat × Brick)
  cur : Nat × Fin 5
  turns : List Config.Turn
  turnCount : Nat
  free : Nat
  nextId : Nat
  cycle : Nat
  mem : List Host.Cell
  poison : List Nat
  codeLog : List CodeStore
  nodes : List Node
  heat : List (Nat × BitVec 2 × BitVec 2)
  spaces : List Space
  gens : List (Nat × Nat)
  mapq : List MapReq
  withdrawals : List Withdrawal
  foots : List Foot
  launches : List Launch
  queues : List Queue
  net : List Msg
  parkq : List Msg
  frames : List Frame
  parkFrames : List Frame
  steals : List StealMsg
  rcmds : List RemoteCmd
  hostUp : Bool
  liveness : Nat
  ports : List (Nat × Port)
  mail : List MailEntry
  park : List Parked
  regions : List Region
  lapsed : Option Nat
  asks : List Nat
  bar2 : Nat
  pairs : Vector Pair 8
  heartbeat : BitVec 32
  lastBeat : Nat
  extents : List Extent
  worlds : List World
  tagRegions : List TagRegion
  versions : List (Nat × Nat × Nat)
  incoming : List Incoming
  measures : List (BitVec 384)
  identity : Bool × Bool
  dies : Vector Die 8
  health : List HealthEvent
  cap : Nat
  snap : Snaps
  snapRaised : List Nat
  replies : List Reply
  lastSweep : Nat
  lastTick : Nat
  stopped : Bool
deriving DecidableEq, Repr

/-- A space's key: number + 2^16 × generation. -/
def spaceKey (num gen : Nat) : Nat := num + 65536 * gen

/-- No hints. -/
def Hints.none : Hints := ⟨[], Option.none, Option.none, Option.none⟩

/-- A strand at module reset (R16, R27; the program counter and the bind entries by log 4). -/
def Strand.fresh (m : Mode) : Strand where
  pc := 0
  s := Vector.replicate 16 0
  v := Vector.replicate 32 0
  p := Vector.replicate 8 0
  mode := m
  rm := 0
  fpstat := 0
  bindtab := 0
  binds := Vector.replicate 8 ⟨0, 0, 0, 0⟩
  bufbase := 0
  unacked := 0
  deadline := 20000
  yieldPend := false
  yieldLeft := 0
  wdLog2 := 26
  wdCount := 0
  trapvec := 0
  trappc := 0
  trapcause := 0
  fltseq := 0
  seqNext := 0
  ring := []
  ctxid := 0
  savearea := 0
  space := 0
  task := none
  ops := []
  hints := Hints.none
  block := none
  since := 0
  answers := []
  phase := 0
  halted := none
  stopReq := false
  pause := none
  lates := []
  wdDue := false
  saveDue := false
  fx := []
  issued := 0
  fetchAll := 0
  fetchOwn := 0
  steal := .idle
  lastSpace := 0
  handlerCount := 0
  saveTok := none
  restore := none
  kill := none
  trapDue := none
  lapse := none

/-- A copy channel at reset (R172). -/
def Channel.fresh : Channel := ⟨.idle, none, false, none, 0, 0, 0, 0, none, false, [], 0⟩

/-- A brick at module reset (R16, R27, R172, R343 to R345; log 4 for what no rule gives). -/
def Brick.fresh : Brick where
  strands := Vector.replicate 5 (Strand.fresh .task)
  disabled := false
  retiring := false
  gated := false
  acc := 0
  accown := 0
  ownSave := 0
  ownPending := none
  deque := []
  deqVer := 0
  tasks := false
  ready := []
  away := []
  kept := []
  frames := []
  inbox := []
  heap := []
  handler := none
  rrb := []
  rrbCuts := []
  entries := []
  epoch := 0
  taken := []
  acked := []
  flights := []
  matq := []
  panels := []
  slots := Vector.replicate 8 none
  chans := Vector.replicate 8 Channel.fresh
  tcache := []
  fences := []
  chains := []
  switches := []
  switchWait := []
  held := []
  launch := none
  c := Vector.replicate 32 0
  coursewin := 0
  courseorg := 0
  courseshape := 0
  footmask := 0
  trace := []
  trctl := 0
  trmatch := 0
  dbg := ⟨0, 0, 0, 0, 0, 0, 0⟩
  stuck := 0

/-- Key of the stand-in brick of die d's service pair (log 10). -/
def pairKey (d : Nat) : Nat := 32768 + d

/-- The stand-in brick of a service pair: its strand 0 is always in service mode (R29). -/
def Brick.freshPair : Brick := { Brick.fresh with strands := Vector.replicate 5 (Strand.fresh .service) }

/-- The record of space 0, the root (R253). -/
def Space.root : Space := ⟨0, 0, 0, .unset, .kill, none, false, [], [], []⟩

/-- A die at module reset (R328, R342). -/
def Die.fresh : Die :=
  ⟨0, false, true, none, 450, false, none, 0, Vector.replicate 64 0, Vector.replicate 32 0, Vector.replicate 8 0, Vector.replicate 4 0⟩

/-- A node of the root over a physical range, with all rights, held as a range entry (R253; log 19). -/
def rootNode (id va len pa port : Nat) : Node := ⟨id, 0, va, len, pa, ⟨7, .raw, 0, 0, 0⟩, none, .linear, false, [], 0, true, port⟩

/-- Every brick of the device, by BRICKID (R2, R27). -/
def allBricks : List Nat :=
  (List.range 8).flatMap fun d => (List.range 56).flatMap fun r => (List.range 56).map fun c => d * 4096 + r * 64 + c

/-- The root's node over the SRAM of a brick (R253; log 19). -/
def sramNode (b : Nat) : Node := rootNode (8 + b) (2 ^ 56 + b * 2 ^ 33) Config.sramBytes (b * 2 ^ 33) 0

/-- The root's node over the HBM of die d outside its reserved regions (R253, R350; log 19). -/
def hbmNode (d : Nat) : Node :=
  rootNode (if d = 0 then 1 else 32776 + d) (2 ^ 56 + 2 ^ 48 + d * Config.dieHbm) Config.hbmOpen (2 ^ 48 + d * Config.dieHbm) 0

/-- The root's nodes with some bricks harvested: HBM outside the reserved regions, the host's and the peers' windows, and the SRAM of
every enabled brick, each at VA 2^56 + PA, and the host's window through port 1 above them (R253; log 19). -/
def rootNodesWithout (bad : List Nat) : List Node :=
  [hbmNode 0, rootNode 2 (2 ^ 56 + 3 * 2 ^ 48) (2 ^ 48) (3 * 2 ^ 48) 0,
    rootNode 3 (2 ^ 56 + 6 * 2 ^ 48) (2 ^ 48) (3 * 2 ^ 48) 1, rootNode 4 (2 ^ 56 + 5 * 2 ^ 48) (2 ^ 48) (5 * 2 ^ 48) 0] ++
  (List.range 7).map (fun d => hbmNode (d + 1)) ++ (allBricks.filter fun b => !bad.contains b).map sramNode

/-- The root's nodes at reset. -/
def rootNodes : List Node := rootNodesWithout []

/-- The machine right after module reset. -/
def State.reset : State where
  bricks := []
  cur := (0, 0)
  turns := []
  turnCount := 0
  free := 0
  nextId := 40000
  cycle := 0
  mem := []
  poison := []
  codeLog := []
  nodes := rootNodes
  heat := []
  spaces := [Space.root]
  gens := [(0, 0)]
  mapq := []
  withdrawals := []
  foots := []
  launches := []
  queues := []
  net := []
  parkq := []
  frames := []
  parkFrames := []
  steals := []
  rcmds := []
  hostUp := false
  liveness := 0
  ports := []
  mail := []
  park := []
  regions := []
  lapsed := none
  asks := []
  bar2 := 0
  pairs := #v[⟨true, true, 0, 0⟩, ⟨true, false, 0, 0⟩, ⟨true, false, 0, 0⟩, ⟨true, false, 0, 0⟩,
    ⟨true, false, 0, 0⟩, ⟨true, false, 0, 0⟩, ⟨true, false, 0, 0⟩, ⟨true, false, 0, 0⟩]
  heartbeat := 0
  lastBeat := 0
  extents := []
  worlds := []
  tagRegions := []
  versions := []
  incoming := []
  measures := []
  identity := (true, true)
  dies := Vector.replicate 8 Die.fresh
  health := []
  cap := 3600
  snap := ⟨0, false, false, [], List.replicate 32 0, List.replicate 8 0, [], [], List.replicate 8 [0, 0]⟩
  snapRaised := []
  replies := []
  lastSweep := 0
  lastTick := 0
  stopped := false

end Sys2Proof.Machine
end

