-- ==== Sys2Proof/Machine/Memory.lean ====
section
/-! DEFINITION. The named reads and writes of the state: memory in its canonical form (R4, R36), bricks, strands, registers
(R13, R17, R18) and the deque's region (R31). -/

namespace Sys2Proof.Machine

/-! Memory: cells in strictly rising order of address, none of them zero. -/

/-- The byte at an address: an address that is not listed reads as 0 (log 3). -/
def cellAt : List Host.Cell → Nat → Byte
  | [], _ => 0
  | (k, v) :: t, a => if a < k then 0 else if a = k then v else cellAt t a

/-- Memory with the byte v at address a, in canonical form. -/
def cellSet : List Host.Cell → Nat → Byte → List Host.Cell
  | [], a, v => if v = 0 then [] else [(a, v)]
  | (k, w) :: t, a, v =>
    if a < k then (if v = 0 then (k, w) :: t else (a, v) :: (k, w) :: t)
    else if a = k then (if v = 0 then t else (a, v) :: t)
    else (k, w) :: cellSet t a v

/-- The canonical form: addresses strictly rising from lo on, no byte zero. -/
def cellsFrom : Nat → List Host.Cell → Bool
  | _, [] => true
  | lo, (k, v) :: t => decide (lo ≤ k) && v != 0 && cellsFrom (k + 1) t

/-- The canonical form of memory. -/
def Memory.wf (m : List Host.Cell) : Bool := cellsFrom 0 m

/-- Memory with the bytes of l from address a on. -/
def cellsSet (m : List Host.Cell) (a : Nat) : List Byte → List Host.Cell
  | [] => m
  | v :: t => cellsSet (cellSet m a v) (a + 1) t

/-- The number whose little-endian bytes are l (R4). -/
def leNat : List Byte → Nat
  | [] => 0
  | b :: t => b.toNat + 256 * leNat t

/-- The n little-endian bytes of x (R4). -/
def leBytes : Nat → Nat → List Byte
  | 0, _ => []
  | n + 1, x => BitVec.ofNat 8 x :: leBytes n (x / 256)

/-- Class of a physical address: bits 51:48 (R36). -/
def paClass (pa : Nat) : Nat := bits pa 51 48
/-- Brick of a class 0 or class 4 address, as BRICKID (R27, R36). -/
def paBrick (pa : Nat) : Nat := bits pa 47 33
/-- Offset in a brick of a class 0 address (R36). -/
def paOff (pa : Nat) : Nat := bits pa 16 0
/-- Physical address of an offset of a brick's SRAM (R36); a service pair's own memory lies outside the classes (log 10). -/
def sramPa (b off : Nat) : Nat := if b < 32768 then b * 2 ^ 33 + off else 2 ^ 52 + (b - 32768) * 2 ^ 33 + off
/-- The die of a brick (R27). -/
def dieOf (b : Nat) : Nat := if b < 32768 then b / 4096 else b - 32768

/-! Bricks and strands. -/

/-- A brick as it stands before anything touched it. -/
def Brick.initial (b : Nat) : Brick := if b < 32768 then Brick.fresh else Brick.freshPair

/-- The value listed under a key. -/
def findKey {α : Type} (k : Nat) : List (Nat × α) → Option α
  | [] => none
  | (j, x) :: t => if j = k then some x else findKey k t

/-- The list with x under a key. -/
def putKey {α : Type} (k : Nat) (x : α) : List (Nat × α) → List (Nat × α)
  | [] => [(k, x)]
  | (j, y) :: t => if j = k then (j, x) :: t else (j, y) :: putKey k x t

/-- Brick b. -/
def State.brick (s : State) (b : Nat) : Brick := (findKey b s.bricks).getD (Brick.initial b)
/-- The state with brick b put. -/
def State.putBrick (s : State) (b : Nat) (x : Brick) : State := { s with bricks := putKey b x s.bricks }
/-- The state with brick b changed. -/
def State.modBrick (s : State) (b : Nat) (f : Brick → Brick) : State := s.putBrick b (f (s.brick b))
/-- Strand k of a brick. -/
def Brick.strand (x : Brick) (k : Fin 5) : Strand := x.strands.get k
/-- The brick with strand k changed. -/
def Brick.modStrand (x : Brick) (k : Fin 5) (f : Strand → Strand) : Brick :=
  { x with strands := x.strands.set k (f (x.strand k)) }
/-- Strand k of brick b. -/
def State.strand (s : State) (b : Nat) (k : Fin 5) : Strand := (s.brick b).strand k
/-- The state with strand k of brick b changed. -/
def State.modStrand (s : State) (b : Nat) (k : Fin 5) (f : Strand → Strand) : State :=
  s.modBrick b fun x => x.modStrand k f
/-- The brick whose strand moves. -/
def State.here (s : State) : Brick := s.brick s.cur.1
/-- The state with the moving strand's brick changed. -/
def State.modHere (s : State) (f : Brick → Brick) : State := s.modBrick s.cur.1 f
/-- The strand that moves. -/
def State.me (s : State) : Strand := s.strand s.cur.1 s.cur.2
/-- The state with the moving strand changed. -/
def State.modMe (s : State) (f : Strand → Strand) : State := s.modStrand s.cur.1 s.cur.2 f
/-- A fresh number (log 21). -/
def State.bumpId (s : State) : State := { s with nextId := s.nextId + 1 }
/-- The next free value (log 7). -/
def State.bumpFree (s : State) : State := { s with free := s.free + 1 }

/-! Registers (R17). -/

/-- Scalar register d. -/
def Strand.sreg (x : Strand) (d : BitVec 4) : Word := x.s.get d.toFin
/-- The strand with scalar register d written. -/
def Strand.setS (x : Strand) (d : BitVec 4) (v : Word) : Strand := { x with s := x.s.set d.toFin v }
/-- Vector register d. -/
def Strand.vreg (x : Strand) (d : BitVec 5) : VReg := x.v.get d.toFin
/-- The strand with vector register d written. -/
def Strand.setV (x : Strand) (d : BitVec 5) (v : VReg) : Strand := { x with v := x.v.set d.toFin v }
/-- Predicate register d: p0 reads as all ones (R17). -/
def Strand.preg (x : Strand) (d : BitVec 3) : PReg := if d = 0 then BitVec.allOnes 64 else x.p.get d.toFin
/-- The strand with predicate register d written: writes to p0 are ignored (R17). -/
def Strand.setP (x : Strand) (d : BitVec 3) (v : PReg) : Strand := if d = 0 then x else { x with p := x.p.set d.toFin v }
/-- Constant-bank entry n (R18). -/
def Brick.creg (x : Brick) (n : BitVec 5) : Word := x.c.get n.toFin
/-- The state with scalar register d of the moving strand written. -/
def State.setS (s : State) (d : BitVec 4) (v : Word) : State := s.modMe fun x => x.setS d v
/-- The state with vector register d of the moving strand written. -/
def State.setV (s : State) (d : BitVec 5) (v : VReg) : State := s.modMe fun x => x.setV d v
/-- The state with predicate register d of the moving strand written. -/
def State.setP (s : State) (d : BitVec 3) (v : PReg) : State := s.modMe fun x => x.setP d v

/-! The deque's region (R31). -/

/-- The 32 bytes of a task record; the frame reference of a migrated one is free (R31). -/
def DeqRec.bytes (r : DeqRec) (free : Nat) : List Byte :=
  let w := bits r.entry.toNat 56 2 * 4 + (if r.nojoin then 2 ^ 57 else 0) + (if r.frame.isSome then 2 ^ 58 else 0)
  if r.frame.isSome then leBytes 8 w ++ (List.range 24).map fun i => Config.freeByte (32 * free + i)
  else leBytes 8 w ++ leBytes 8 r.joinAddr.toNat ++ leBytes 8 r.arg0.toNat ++ leBytes 8 r.arg1.toNat

/-- Slots of n records, chosen freely among the slots of l that are left (R31). -/
def pickSlots (ver : Nat) : Nat → List Nat → List Nat
  | 0, _ => []
  | n + 1, l =>
    let j := l.getD (Config.freeSlot ver n % l.length) 0
    j :: pickSlots ver n (l.erase j)

/-- The byte that the deque's region shows at offset o of the region (R31). -/
def dequeByte (x : Brick) (free o : Nat) : Byte :=
  match ((pickSlots x.deqVer x.deque.length (List.range 64)).zip x.deque).find? (fun q => q.1 = o / 32) with
  | some (_, r) => (r.bytes free).getD (o % 32) 0
  | none => Config.freeByte (4096 * free + o)

/-- A physical address in the deque's region of a brick whose tasks are enabled (R31). -/
def State.inDeque (s : State) (pa : Nat) : Bool :=
  paClass pa = 0 && decide (pa < 2 ^ 52) && decide (Config.dequeBase ≤ paOff pa) && decide (paOff pa < Config.sramBytes) &&
    (s.brick (paBrick pa)).tasks

/-- The byte at a physical address. -/
def State.byte (s : State) (pa : Nat) : Byte :=
  if s.inDeque pa then dequeByte (s.brick (paBrick pa)) s.free (paOff pa - Config.dequeBase) else cellAt s.mem pa

/-- The n bytes from a physical address on. -/
def State.bytes (s : State) (pa n : Nat) : List Byte := (List.range n).map fun i => s.byte (pa + i)

/-- The number of n bytes at a physical address. -/
def State.num (s : State) (pa n : Nat) : Nat := leNat (s.bytes pa n)

/-! Poison (R349). -/

/-- Bytes of the poison unit that holds a physical address: a double of SRAM, else a line. -/
def poisonUnit (pa : Nat) : Nat := if paClass pa = 0 then 8 else 64
/-- Start of the poison unit that holds a physical address. -/
def poisonBase (pa : Nat) : Nat := pa / poisonUnit pa * poisonUnit pa
/-- One of the n bytes at a physical address is poisoned. -/
def State.poisoned (s : State) (pa n : Nat) : Bool := s.poison.any fun u => decide (u < pa + n) && decide (pa < u + poisonUnit u)

/-- A unit whose every byte l writes: its poison goes (R349). -/
def unitCovered (u : Nat) (pa : Nat) (l : List (Option Byte)) : Bool :=
  (List.range (poisonUnit u)).all fun i => decide (pa ≤ u + i) && (l.getD (u + i - pa) none).isSome

/-- Memory with the listed bytes of l from physical address pa on; writes over a whole unit clear its poison (R349). Bytes of
a deque's region are left alone: its accesses are refused before they come here (R31). -/
def State.poke (s : State) (pa : Nat) : List (Option Byte) → State
  | [] => s
  | none :: t => s.poke (pa + 1) t
  | some v :: t => (if s.inDeque pa then s else { s with mem := cellSet s.mem pa v }).poke (pa + 1) t

/-- A write of the bytes of l at a physical address (R349). -/
def State.writeOpt (s : State) (pa : Nat) (l : List (Option Byte)) : State :=
  { s.poke pa l with poison := s.poison.filter fun u => !unitCovered u pa l }

/-- A write of bytes at a physical address. -/
def State.write (s : State) (pa : Nat) (l : List Byte) : State := s.writeOpt pa (l.map some)

/-- A write of the n-byte number x at a physical address. -/
def State.writeNum (s : State) (pa n x : Nat) : State := s.write pa (leBytes n x)

/-- Bits of byte i of a chain record's CTRL that hardware alone writes: RUN, FORM, PEND, LEFT, FULL and CUR (R196). -/
def ctrlMask (i : Nat) : Byte := if i = 0 then 0x78 else if i = 1 then 0x7F else if i = 2 then 0x07 else 0

/-- What software writes at a physical address, but for the fields of a running chain's CTRL that only hardware writes (R10, R196). -/
def State.soft (s : State) (pa : Nat) (l : List (Option Byte)) : List (Option Byte) :=
  let y := s.brick (paBrick pa)
  if paClass pa ≠ 0 ∨ 2 ^ 52 ≤ pa ∨ y.chains = [] then l
  else l.zipIdx.map fun q =>
    match y.chains.find? fun r => decide (r ≤ paOff pa + q.2) && decide (paOff pa + q.2 < r + 8) with
    | some r => let m := ctrlMask (paOff pa + q.2 - r); q.1.map fun v => (s.byte (pa + q.2) &&& m) ||| (v &&& ~~~m)
    | none => q.1

/-- A write of the n-byte number x by software. -/
def State.softNum (s : State) (pa n x : Nat) : State := s.writeOpt pa (s.soft pa ((leBytes n x).map some))

/-- Lines of an exclusive far extent become dirty in its home caches, written last by a space (R325, R326). -/
def State.touchFar (s : State) (space pa n : Nat) : State :=
  if paClass pa = 2 ∧ pa < 2 ^ 52 then
    { s with extents := s.extents.map fun e =>
        if e.base ≤ pa ∧ pa < e.base + e.len ∧ !e.shared ∧ !e.gone then
          { e with dirty := (List.range ((pa + n - 1) / 64 + 1 - pa / 64)).foldl (fun l i => putKey ((pa / 64 + i) * 64) space l) e.dirty }
        else e }
  else s

/-- A write is kept for fetch: the bytes it replaced (R91, log 9); space is the writer's. -/
def noteBy (s : State) (b k space pa n : Nat) : State :=
  let s := s.touchFar space pa n
  let olds := (List.range n).map fun i => (⟨s.codeLog.length + i, b, k, pa + i, s.byte (pa + i)⟩ : CodeStore)
  { s with codeLog := olds.reverse ++ s.codeLog }

/-- A strand's store is kept for fetch (R91). -/
def noteCode (s : State) (b : Nat) (k : Fin 5) (pa n : Nat) : State := noteBy s b k (s.strand b k).space pa n
/-- An engine's write is kept for fetch as a write of no strand (R91). -/
def noteWrite (s : State) (b space pa n : Nat) : State := noteBy s b 7 space pa n

end Sys2Proof.Machine
end

