-- ==== Sys2Proof/Machine/Translate.lean ====
section
/-! DEFINITION. Translation at a brick's network interface (R34 to R36, R257 to R263, R109, R326, R328, R329) and the remote
read buffer (R112). -/

namespace Sys2Proof.Machine

/-- Clear attributes with the given rights (R34, R257). -/
def Attr.clear (r : BitVec 3) : Attr := ⟨r, .raw, 0, 0, 0⟩

/-- The number of a code (R98, R274). -/
def Code.num : Code → Nat
  | .illegalOpcode => 0x01
  | .reservedField => 0x02
  | .kindTag => 0x03
  | .hintOrphan => 0x04
  | .privilege => 0x05
  | .misaligned => 0x06
  | .breakpoint => 0x07
  | .trapInsn => 0x08
  | .accNotOwner => 0x09
  | .migrateWithAcc => 0x0A
  | .scaleInvalid => 0x20
  | .sealedIntegrity => 0x21
  | .notMapped => 0x40
  | .rights => 0x41
  | .exec => 0x42
  | .sealedLoad => 0x43
  | .sealedStore => 0x44
  | .sealedCopy => 0x45
  | .sealedDebug => 0x46
  | .sealedGather => 0x47
  | .aliasMix => 0x48
  | .formatMismatch => 0x49
  | .poison => 0x4A
  | .farExtentGone => 0x4B
  | .ownershipTimeout => 0x4C
  | .worldRefused => 0x4D
  | .revoked => 0x4E
  | .hole => 0x4F
  | .landingOverrun => 0x60
  | .bufDescInvalid => 0x61
  | .cpTemplateInvalid => 0x62
  | .capabilityRefused => 0x63
  | .hostAtomicUnsupported => 0x65
  | .inboxDropped => 0x66
  | .watchdog => 0x67
  | .deadlineForced => 0x68

/-- A sealed-class code, whose faults accept only SKIP and KILL (R117, R274). -/
def Code.sealed (c : Code) : Bool := decide (0x43 ≤ c.num) && decide (c.num ≤ 0x47)

/-- Number of an access class (R116). -/
def Access.num : Access → Nat
  | .load => 0
  | .store => 1
  | .atomic => 2
  | .fetch => 3
  | .copy => 4
  | .matrix => 5
  | .gather => 6
  | .message => 7
  | .landing => 8

/-- Number of an element format (R48). -/
def Fmt.num : Fmt → Nat
  | .raw => 0
  | .fp32 => 1
  | .fp16 => 2
  | .bf16 => 3
  | .e4m3 => 4
  | .e5m2 => 5
  | .int8 => 6
  | .b4 => 7

/-- Number of a window in which a rectangle node lies: brick index and offset (R258). -/
def rectPa (cls org shape rel : Nat) : Except Code Nat :=
  let k := rel / 0x20000
  let o := rel % 0x20000
  let row := k / 64
  let col := k % 64
  if bits shape 14 8 ≤ col ∨ bits shape 6 0 ≤ row then .error .notMapped
  else
    let die := bits org 14 12
    let gr := 56 * (die / 4) + bits org 11 6 + row
    let gc := 56 * (die % 4) + bits org 5 0 + col
    if cls = 0 ∧ Config.sramBytes ≤ o then .error .hole
    else if cls = 4 ∧ 0x80 ≤ o then .error .notMapped
    else .ok (cls * 2 ^ 48 + (4 * (gr / 56) + gc / 56) * 2 ^ 45 + gr % 56 * 2 ^ 39 + gc % 56 * 2 ^ 33 + o)

/-- The physical address of a queue's doorbell page (R304; log 19). -/
def doorbellPa (d : Nat) : Nat := 4 * 2 ^ 48 + d * 2 ^ 18 + 2 ^ 17
/-- A physical address lies in a doorbell page: its queue's doorbell (R304). -/
def doorbellOf (pa : Nat) : Option Nat := if paClass pa = 4 ∧ pa < 2 ^ 52 ∧ pa.testBit 17 then some (bits pa 33 18) else none

/-- The physical address that a node gives a VA in its range (R255, R258). -/
def Node.paOf (n : Node) (va : Nat) : Except Code Nat :=
  match n.kind with
  | .linear => .ok (n.pa + (va - n.va))
  | .course org shape => rectPa 0 org shape (va - n.va)
  | .aperture org shape => rectPa 4 org shape (va - n.va)
  | .closed => .error .farExtentGone
  | .doorbell d => .ok (doorbellPa d + (va - n.va))
  | .runtime => .ok (Config.hbmOpen + 2 ^ 48 + (va - n.va))

/-- The physical address that a node gives a VA for an access of die d: the runtime's code lies in that die's HBM (R352, log 112). -/
def Node.placeOn (n : Node) (d va : Nat) : Except Code Nat :=
  match n.kind with
  | .runtime => .ok (Config.hbmOpen + 2 ^ 48 + d * Config.dieHbm + (va - n.va))
  | _ => n.paOf va

/-- A node whose range holds a VA of a space. -/
def Node.holds (n : Node) (space va : Nat) : Bool :=
  decide (n.space = space) && decide (n.va ≤ va) && decide (va < n.va + n.len)

/-- A walk of the space's tables: a withdrawing node fails it (R259, R260), a mixed node posts ALIAS_MIX (R263). -/
def State.walk (s : State) (space va : Nat) : Except Code Node :=
  match s.nodes.find? (fun n => n.holds space va && !n.withdrawing) with
  | none => .error .notMapped
  | some n => if n.mixed ≠ [] then .error .aliasMix else .ok n

/-- The page of a node that holds a VA: the largest of the four sizes that fits (R259). -/
def Node.page (n : Node) (va : Nat) : Nat × Nat :=
  match [30, 21, 16].find? (fun l =>
    let b := va / 2 ^ l * 2 ^ l
    decide (n.va ≤ b) && decide (b + 2 ^ l ≤ n.va + n.len) && (n.pa + b - n.va) % 2 ^ l = 0) with
  | some l => (va / 2 ^ l * 2 ^ l, 2 ^ l)
  | none => (va / 4096 * 4096, 4096)

/-- Pages that a mapping needs from a VA on, counted up to a bound: each the largest that fits there (R259). -/
def Node.pagesFrom (n : Node) : Nat → Nat → Nat
  | 0, _ => 0
  | fuel + 1, va => if va < n.va + n.len then 1 + n.pagesFrom fuel ((n.page va).1 + (n.page va).2) else 0

/-- A mapping of brick SRAM, or a rectangle (R259). -/
def Node.sramOrRect (n : Node) : Bool :=
  match n.kind with
  | .course _ _ => true
  | .aperture _ _ => true
  | _ => paClass n.pa = 0

/-- Range entries of a space's range table in use, of 1,024 (R253, R259). -/
def State.rangeEntries (s : State) (space : Nat) : Nat := (s.nodes.filter fun n => n.space = space && n.range).length

/-- A range entry is to hold the mapping: brick SRAM and rectangles, and whatever would need more than 64 pages while the range table has
a free entry; other mappings are held as pages (R259). DESIGN CHOICE: a grant of brick SRAM, or a launch's rectangle nodes, into a space
whose table is full make one more entry: R259 answers a map alone (log 22). -/
def State.wantsRange (s : State) (n : Node) : Bool :=
  n.sramOrRect || (decide (64 < n.pagesFrom 65 n.va) && decide (s.rangeEntries n.space < 1024))

/-- The entry that a fill makes of a node (R259). -/
def XEntry.ofNode (n : Node) (va : Nat) : XEntry :=
  if n.range then ⟨n.space, n.va, n.len, n⟩ else ⟨n.space, (n.page va).1, (n.page va).2, n⟩

/-- The interface's entries with one more: at most 16 ranges and 64 pages, the oldest going first (R259, log 15). -/
def fillEntry (l : List XEntry) (e : XEntry) : List XEntry :=
  let r := e.node.range
  let cap := if r then 16 else 64
  let same := l.filter fun x => x.node.range = r
  let keep := if same.length < cap then same else same.drop 1
  (l.filter fun x => x.node.range ≠ r) ++ keep ++ [e]

/-- One more in a heat field, saturating at 3 (R262). -/
def heatUp (h : BitVec 2) : BitVec 2 := if h = 3 then 3 else h + 1

/-- Heat of a page leaf after a fill: reads and writes apart (R262). -/
def addHeat (l : List (Nat × BitVec 2 × BitVec 2)) (page : Nat) (rd : Bool) : List (Nat × BitVec 2 × BitVec 2) :=
  let h := (findKey page l).getD (0, 0)
  putKey page (if rd then (heatUp h.1, h.2) else (h.1, heatUp h.2)) l

/-- The state after brick b's interface fills an entry: its die joins the space's mask (R265). -/
def State.fill (s : State) (b : Nat) (e : XEntry) (rd : Bool) : State :=
  let s := s.modBrick b fun x => { x with entries := fillEntry x.entries e }
  let s := { s with spaces := s.spaces.map fun p =>
      if p.id = e.space ∧ dieOf b ∉ p.dies then { p with dies := p.dies ++ [dieOf b] } else p }
  if e.node.range then s else { s with heat := addHeat s.heat (e.va * 2 ^ 20 + e.space) rd }

/-- Die of an HBM address (R350). -/
def hbmDie (a : Nat) : Nat := a / Config.dieHbm

/-- World of a die (R328). -/
def State.worldOf (s : State) (d : Nat) : Nat := ((s.dies.toList)[d]?.map (·.world)).getD 0

/-- The die that an access to a physical address goes to: that of the SRAM, of the stack, of the aperture, of the doorbell page, or of the
port that carries it: port 1 for far memory, the mapping's for the host, a device-to-device port for a peer (R36, R244, R316, R350). -/
def paDie (port pa : Nat) : Nat :=
  match paClass pa with
  | 1 => hbmDie (bits pa 47 0)
  | 2 => Config.portDie 1 % 8
  | 3 => Config.portDie port % 8
  | 4 => if pa.testBit 17 then Config.doorDie (bits pa 33 18) % 8 else paBrick pa / 4096
  | 5 => Config.portDie (16 + bits pa 47 44) % 8
  | _ => paBrick pa / 4096

/-- A request that goes from the die of b to die d is refused when their worlds differ (R329). -/
def State.crossing (s : State) (b d : Nat) : Option Code :=
  if s.dies.toList.all fun x => x.world = s.worldOf (dieOf b) then none
  else if dieOf b ≠ d ∧ s.worldOf (dieOf b) ≠ s.worldOf d then some .worldRefused else none

/-- What stands against an access of brick b to a physical address, through a port if it leaves the device: fields beyond their limits,
holes, harvested bricks, foreign worlds, and a transfer of its region that has just timed out (R36, R318, R329). -/
def State.paFault (s : State) (b port pa : Nat) : Option Code :=
  let late (o : Option Code) : Option Code := if o.isNone && s.lapsed = some (pa / 2 ^ 21 * 2 ^ 21) then some .ownershipTimeout else o
  let brickOk := bits pa 32 17 = 0 ∧ bits pa 44 39 < 56 ∧ bits pa 38 33 < 56 ∧ ¬(s.brick (paBrick pa)).disabled
  match paClass pa with
  | 0 =>
    if ¬ brickOk then some .notMapped
    else if Config.sramBytes ≤ paOff pa then some .hole
    else s.crossing b (paDie port pa)
  | 1 => if Config.hbmBytes ≤ bits pa 47 0 then some .notMapped else late (s.crossing b (paDie port pa))
  | 4 =>
    if pa.testBit 17 then (if s.queues.any fun q => q.door = bits pa 33 18 then s.crossing b (paDie port pa) else some .notMapped)
    else if ¬ brickOk ∨ 3 < bits pa 16 12 then some .notMapped else s.crossing b (paDie port pa)
  | 2 => s.crossing b (paDie port pa)
  | 3 => late (s.crossing b (paDie port pa))
  | 5 => s.crossing b (paDie port pa)
  | _ => some .notMapped

/-- An address that translation gives, with its attributes. -/
structure Place where
  pa : Nat
  attr : Attr
deriving DecidableEq, Repr

/-- The window of class 4 in which a service pair reaches the apertures of its die's bricks by their physical addresses (R344, R345;
log 123). -/
def pairWindow (b space ea : Nat) : Bool :=
  decide (32768 ≤ b) && space = 0 && decide (2 ^ 56 + 4 * 2 ^ 48 ≤ ea) && decide (ea < 2 ^ 56 + 5 * 2 ^ 48)

/-- translate(SPACEID, ea) at brick b's interface (R109 step 4, R259, R260): the place, and the state with the entry
filled. -/
def State.translate (s : State) (b space ea : Nat) (rd : Bool) : Except Code (Place × State) := do
  if 2 ^ 57 ≤ ea then .error .notMapped
  else if pairWindow b space ea then
    match s.paFault b 0 (ea - 2 ^ 56) with
    | some c => .error c
    | none => .ok (⟨ea - 2 ^ 56, Attr.clear 3⟩, s)
  else
    let hit := (s.brick b).entries.find? fun e => decide (e.space = space) && decide (e.va ≤ ea) && decide (ea < e.va + e.len)
    let (n, s') ← match hit with
      | some e => .ok (e.node, s)
      | none => do
        let n ← s.walk space ea
        .ok (n, s.fill b (XEntry.ofNode n ea) rd)
    let pa ← n.placeOn (dieOf b) ea
    match s.paFault b n.port pa with
    | some c => .error c
    | none => .ok (⟨pa, n.attr⟩, s')

/-- Rights that an access needs, its sealed code and its class (R109, R264). -/
structure Need where
  r : Bool
  w : Bool
  x : Bool
  sealCode : Code
  cls : Access
deriving DecidableEq, Repr

/-- What R109's steps 5 and 6 hold against an access. -/
def Need.fault (n : Need) (a : Attr) : Option Code :=
  if a.prot = 3 then some n.sealCode
  else if (n.r && !a.rights.getLsbD 0) || (n.w && !a.rights.getLsbD 1) then some .rights
  else if n.x && !a.rights.getLsbD 2 then some .exec
  else none

/-- A load (R109). -/
def needLoad : Need := ⟨true, false, false, .sealedLoad, .load⟩
/-- A store (R109). -/
def needStore : Need := ⟨false, true, false, .sealedStore, .store⟩
/-- An atomic that a store-like class reports (R109). -/
def needAtomic : Need := ⟨true, true, false, .sealedStore, .atomic⟩
/-- acq (R109, R264). -/
def needAcq : Need := ⟨true, true, false, .sealedLoad, .load⟩
/-- rel and land.set (R109). -/
def needRel : Need := ⟨true, true, false, .sealedStore, .store⟩
/-- An instruction fetch (R19). -/
def needFetch : Need := ⟨false, false, true, .sealedLoad, .fetch⟩
/-- A gather or scatter element (R140). -/
def needGather (w : Bool) : Need := ⟨!w, w, false, .sealedGather, .gather⟩
/-- A copy's source or destination (R170). -/
def needCopy (w : Bool) : Need := ⟨!w, w, false, .sealedCopy, .copy⟩
/-- A matrix write or accumulator buffer, or a pointer word in memory (R264). -/
def needMatrix (r w : Bool) (c : Code) : Need := ⟨r, w, false, c, .matrix⟩

/-- The local window's place (R34): clear, with full rights. -/
def localPlace (b off : Nat) : Place := ⟨sramPa b off, Attr.clear 7⟩

/-- R109 steps 2 to 6 for an access of brick b. -/
def State.check (s : State) (b space ea : Nat) (n : Need) : Except Code (Place × State) :=
  if ea < Config.sramBytes then .ok (localPlace b ea, s)
  else do
    let (p, s') ← s.translate b space ea (!n.w)
    match n.fault p.attr with
    | some c => .error c
    | none => .ok (p, s')

/-- The ownership region of a physical address that has one: host memory, and HBM with a listed word (R317). -/
def State.region? (s : State) (pa : Nat) : Option Region := s.regions.find? fun r => r.base = pa / 2 ^ 21 * 2 ^ 21

/-- An access of the device may be performed at its home now: its region is the accelerator's and at rest, and the host is
attached; one whose region has just timed out waits no more (R318, R323). -/
def State.homeReady (s : State) (pa : Nat) : Bool :=
  if s.lapsed = some (pa / 2 ^ 21 * 2 ^ 21) then true
  else if paClass pa = 3 ∧ pa < 2 ^ 52 then s.hostUp && ((s.region? pa).map fun r => r.owner && !r.moving).getD false
  else if paClass pa = 1 ∧ pa < 2 ^ 52 then ((s.region? pa).map fun r => r.owner && !r.moving).getD true
  else true

/-- The access with a number may be performed at its home: one that was translated before its region began to go to the processor need not
wait (R318). -/
def State.mayReach (s : State) (id pa : Nat) : Bool :=
  s.homeReady pa || ((paClass pa ≠ 3 || s.hostUp) && decide (pa < 2 ^ 52) && (s.region? pa).any fun r => r.owner && r.moving && r.early.contains id)

/-- The regions as the access with a number sees them (R318). -/
def State.openFor (s : State) (id : Nat) : State :=
  { s with regions := s.regions.map fun r => if r.owner && r.early.contains id then { r with moving := false } else r }

/-- The world of a space (R328). -/
def State.spaceWorld (s : State) (space : Nat) : Nat := ((s.spaces.find? fun p => p.id = space).map (·.world)).getD 0

/-- A physical address is the host's. -/
def isHost (pa : Nat) : Bool := paClass pa = 3 && decide (pa < 2 ^ 52)

/-- Host-bound traffic of a space is parked: the host is lost, or its world's session is (R323, R336). -/
def State.hostHeld (s : State) (space : Nat) : Bool :=
  !s.hostUp || s.worlds.any fun w => w.id = s.spaceWorld space && w.grace.isSome

/-- An atomic of a space to the host waits while the host or its world's session is lost (R323, R336). -/
def State.atomHeld (s : State) (space pa : Nat) : Bool := isHost pa && s.hostHeld space

/-- No mapping covers a VA of a space at brick b's interface: no entry, and a walk that finds none (R114, R260). -/
def State.unmapped (s : State) (b space ea : Nat) : Bool :=
  !(s.brick b).entries.any (fun e => decide (e.space = space) && decide (e.va ≤ ea) && decide (ea < e.va + e.len)) &&
    (s.walk space ea) = .error .notMapped

/-- The strand's own brick is the home of a physical address (R111). -/
def homeHere (b pa : Nat) : Bool := decide (2 ^ 52 ≤ pa) || (paClass pa = 0 && paBrick pa = b)

/-! The remote read buffer (R112). -/

/-- The start of the line that holds a VA. -/
def lineOf (ea : Nat) : Nat := ea / 64 * 64

/-- The bytes that the RRB holds for n bytes at a VA of a space, all in one line. -/
def Brick.rrbHit (x : Brick) (space ea n : Nat) : Option (List Byte) :=
  match x.rrb.find? (fun l => l.space = space ∧ l.va = lineOf ea) with
  | some l => if ea % 64 + n ≤ 64 then some ((l.data.drop (ea % 64)).take n) else none
  | none => none

/-- Some access of a long-latency operation of the brick is not performed yet. -/
def Brick.loading (x : Brick) : Bool :=
  let f (l : List Op) : Bool := l.any fun o => o.accs.any fun a => a.st ≠ .done
  x.strands.toList.any (fun t => f t.ops) || (x.ready ++ x.away ++ x.kept).any fun c => f c.ops

/-- An invalidation is kept for the loads that are under way (R112). -/
def Brick.rrbCut (x : Brick) (c : Option (Nat × Nat × Nat)) : Brick :=
  { x with rrbCuts := if x.loading then x.rrbCuts ++ [c] else [] }

/-- An invalidation after number cut covers the line at va of a space (R112). -/
def Brick.cutSince (x : Brick) (cut space va : Nat) : Bool :=
  (x.rrbCuts.drop cut).any fun c => match c with
    | none => true
    | some (sp, lo, n) => sp = space && decide (va < lo + n) && decide (lo < va + 64)

/-- The RRB without the lines that overlap a range of a space. -/
def Brick.rrbDrop (x : Brick) (space lo n : Nat) : Brick :=
  { x.rrbCut (some (space, lo, n)) with rrb := x.rrb.filter fun l => !(l.space = space && decide (l.va < lo + n) && decide (lo < l.va + 64)) }

/-- The RRB without any line. -/
def Brick.rrbClear (x : Brick) : Brick := { x.rrbCut none with rrb := [] }

/-- The RRB with a line installed: 64 lines, the oldest going first (R112, log 8). -/
def Brick.rrbFill (x : Brick) (space va : Nat) (data : List Byte) : Brick :=
  let rest := x.rrb.filter fun l => !(l.space = space && l.va = va)
  { x with rrb := (if rest.length < 64 then rest else rest.drop 1) ++ [⟨space, va, data⟩] }

/-- A class that the RRB may hold (R112). -/
def rrbClass (pa : Nat) : Bool := decide (pa < 2 ^ 52) && (paClass pa < 4 || paClass pa = 5)

end Sys2Proof.Machine
end

