-- ==== Sys2Proof/Machine/Ops.lean ====
section
/-! DEFINITION. Operations shared by all instructions: fault messages and reports (R116, R273), the trace buffer (R344), lookahead
windows (R70 to R74), hints (R75 to R79), the sequence ring (R23, R24), taking a trap and returning from one (R96, R100), and
how an instruction begins and completes. -/

namespace Sys2Proof.Machine

/-! The trace buffer (R344). -/

/-- TRCTL.NEXT. -/
def Brick.trNext (x : Brick) : Nat := bits x.trctl.toNat 23 16

/-- The brick with an event recorded in its trace buffer, if its kind is on and the buffer is not frozen; a freeze
condition sets FROZEN after the entry is written (R344). -/
def Brick.record (x : Brick) (e : TraceEntry) (freeze : Bool) : Brick :=
  let frozen := x.trctl.getLsbD 8
  let x := if frozen || !x.trctl.getLsbD (e.kind - 1) then x
    else
      let n := x.trNext
      { x with
        trace := putKey n e x.trace
        trctl := (x.trctl &&& ~~~(0xFF0000 : Word)) ||| BitVec.ofNat 64 ((n + 1) % 256 * 65536) |||
          (if n = 255 then (0x1000000 : Word) else 0) }
  if freeze then { x with trctl := x.trctl ||| 0x100 } else x

/-- An event of strand k of brick b in the trace buffer (R344): a trap or a fault freezes it under ONFAULT. -/
def State.trace (s : State) (b : Nat) (k : Fin 5) (kind access : Nat) (data : Word) : State :=
  s.modBrick b fun x => x.record ⟨s.cycle % 2 ^ 48, kind, k, access, data⟩ (kind = 4 && x.trctl.getLsbD 9)

/-- An event of the moving strand. -/
def State.traceMe (s : State) (kind access : Nat) (data : Word) : State := s.trace s.cur.1 s.cur.2 kind access data

/-! Fault messages (R116, R273). -/

/-- The four doubles of a fault message (R116). -/
def FaultMsg.words (f : FaultMsg) : List Word :=
  [BitVec.ofNat 64 (f.space + f.code.num * 2 ^ 24 + f.brick * 2 ^ 32 + f.strand * 2 ^ 48 +
      (f.access.num + if f.retired then 16 else 0) * 2 ^ 56), f.pc, f.addr,
    BitVec.ofNat 64 (f.seq.toNat + f.mbox * 2 ^ 32)]

/-- The record of a space (R253). -/
def State.space? (s : State) (id : Nat) : Option Space := s.spaces.find? fun p => p.id = id

/-- The service pair that answers for a die: its own, or the leader's when it is unhealthy (R320). -/
def State.pairOf (s : State) (d : Nat) : Nat :=
  if ((s.pairs.toList)[d]?.map (·.healthy)).getD true then d
  else (s.pairs.toList.findIdx? (·.leader)).getD d

/-- Where a fault message of a strand goes: brick, and the space it belongs to (R273). -/
def State.faultTarget (s : State) (space b : Nat) (k : Nat) : Nat × Nat :=
  let pair := (pairKey (s.pairOf (dieOf b)), space)
  match (s.space? space).map Space.target with
  | some (.strand va sp k') =>
    match s.check b sp va.toNat needLoad with
    | .ok (p, _) =>
      let t := if va.toNat < Config.sramBytes then b else paBrick p.pa
      if t = b ∧ k' = k then pair else (t, sp)
    | .error _ => pair
  | some (.pair d) => (pairKey (s.pairOf d), space)
  | _ => pair

/-- HDR of a fault message taken as data: NDATA 4, TAG 0xFFFE (R273). -/
def faultHdr : Word := 0xFFFE0004

/-- The 32 bytes of an event of the health record (R340). -/
def HealthEvent.bytes (e : HealthEvent) : List Byte :=
  leBytes 8 e.time ++ leBytes 1 e.kind ++ leBytes 1 e.die ++ leBytes 2 e.whr ++ leBytes 20 e.data

/-- Where event k of the health record lies: in the HBM that die 0 reserves, above the runtime's code, which no node covers, so that
State.health stands for it (R254, R340; log 19). -/
def healthAt (k : Nat) : Nat := 2 ^ 48 + Config.hbmOpen + 2 ^ 16 + 32 * (k % 4096)

/-- The health record as the reserved HBM holds it: the place and bytes of each event, the oldest first (R340). -/
def State.healthRecord (s : State) : List (Nat × List Byte) := s.health.zipIdx.map fun q => (healthAt q.2, q.1.bytes)

/-- The health record keeps the latest 4,096 events (R340). -/
def State.logHealth (s : State) (kind die whr data : Nat) : State :=
  let l := s.health ++ [⟨s.cycle, kind, die, whr, data⟩]
  { s with health := l.drop (l.length - 4096) }

/-- A vector with entry i changed. -/
def setAt {n : Nat} (v : Vector Nat n) (i : Nat) (f : Nat → Nat) : Vector Nat n := v.mapFinIdx fun j x _ => if j = i then f x else x

/-- The side of die d, in the mesh of 2 × 4 dies, that a request from die f comes in on (R329; log 90). -/
def linkSide (f d : Nat) : Nat := if f % 4 < d % 4 then 3 else if d % 4 < f % 4 then 1 else if f / 4 < d / 4 then 0 else 2

/-- A refusal by a link slice is counted on the die that refused, by its side, and recorded (R329, R340). -/
def State.countRefusal (s : State) (f : FaultMsg) : State :=
  if f.code ≠ .worldRefused then s
  else match (do let n ← s.walk f.space f.addr.toNat; let p ← n.paOf f.addr.toNat; .ok (n.port, p) : Except Code (Nat × Nat)) with
    | .error _ => s
    | .ok (port, pa) =>
      let d := paDie port pa
      let side := linkSide (dieOf f.brick) d
      let n := min ((((s.dies.toList)[d]?.bind fun x => x.refusals.toList[side]?).getD 0) + 1) (2 ^ 32 - 1)
      { s with dies := s.dies.mapFinIdx fun i x _ => if i = d then { x with refusals := setAt x.refusals side fun _ => n } else x }.logHealth 9 d side n

/-- COLOUR of what a brick sends (R315): that of its launch; 16 if it runs none. -/
def State.colourAt (s : State) (b : Nat) : Nat :=
  (((s.brick b).launch.bind fun l => s.launches.find? fun x => x.id = l).map (·.cmd.colour)).getD 16

/-- The state with a fault message on its way (R116). -/
def State.sendFault (s : State) (f : FaultMsg) : State :=
  let s := s.countRefusal f
  let t := s.faultTarget f.space f.brick f.strand
  { s with
    net := s.net ++ [⟨s.nextId, f.brick, f.strand, t.2, faultHdr, 0, f.words, [], t.1, none, true, s.colourAt f.brick⟩]
    nextId := s.nextId + 1 }

/-- A report: RETIRED = 1 and no token (R116). It freezes the trace buffer under ONFAULT (R344). -/
def State.report (s : State) (b k space : Nat) (c : Code) (a : Access) (pc addr : Word) (seq : BitVec 32) : State :=
  (s.modBrick b fun x => x.record ⟨s.cycle % 2 ^ 48, 4, k, 0, BitVec.ofNat 64 c.num⟩ (x.trctl.getLsbD 9)).sendFault
    ⟨space, c, b, k, a, true, pc, addr, seq, 0⟩

/-- A memory fault that blocks a task: the fields that its instruction gives, and what it has found out before (R140). -/
structure Post where
  code : Code
  access : Access
  addr : Word
  ord : Nat
  seq : BitVec 32 := 0
  keep : List (Nat × Answer) := []
deriving DecidableEq, Repr

/-- Why an instruction does not complete: a precise trap, a memory fault that blocks the task (R117), a wait (the state
holds what has come about), or a block of the task (R118, R236). -/
inductive Stop where
  | trap (c : Code)
  | post (p : Post)
  | wait (s : State)
  | block (s : State) (r : BlockOn)
deriving DecidableEq, Repr

/-! Hints (R75 to R79). -/

/-- The first executed hint of the group in hand, else the instruction itself (R79). -/
def Strand.groupPc (x : Strand) : Word := x.hints.start.getD x.pc
/-- A hint is waiting for its consumer. -/
def Hints.any (h : Hints) : Bool := h.start.isSome
/-- The payload of the group's hint.mod (R77). -/
def Strand.hmod (x : Strand) : BitVec 24 := x.hints.mod.getD 0
/-- The governing predicate (R77). -/
def Strand.pred (x : Strand) : PReg := x.preg (x.hmod.extractLsb' 4 3)
/-- ZERO (R77). -/
def Strand.zeroing (x : Strand) : Bool := x.hmod.getLsbD 7
/-- SAT (R77). -/
def Strand.sat (x : Strand) : Bool := x.hmod.getLsbD 8
/-- HOME (R77). -/
def Strand.home (x : Strand) : Bool := x.hmod.getLsbD 9
/-- RAWF (R77). -/
def Strand.rawf (x : Strand) : Bool := x.hmod.getLsbD 10
/-- FMT (R77). -/
def Strand.fmt (x : Strand) : BitVec 2 := x.hmod.extractLsb' 11 2
/-- The rounding mode in force: RM of hint.mod, else FPCTL.RM (R77, R27). -/
def Strand.rounding (x : Strand) : BitVec 2 := if x.hmod.getLsbD 2 then x.hmod.extractLsb' 0 2 else x.rm
/-- RRB policy of hint.sched: 01 does not allocate (R78). -/
def Strand.noAlloc (x : Strand) : Bool := ((x.hints.sched.getD 0).extractLsb' 2 2) = 1

/-- A field of hint.mod that the mask m of honoured fields does not cover, or a reserved value (R77). -/
def modFault (p : BitVec 24) (m : Nat) : Bool :=
  (p.extractLsb' 0 3 != 0 && (!m.testBit 0 || !p.getLsbD 2)) || p.getLsbD 3 ||
  (p.extractLsb' 4 3 != 0 && !m.testBit 1) || (p.getLsbD 7 && !m.testBit 2) || (p.getLsbD 8 && !m.testBit 3) ||
  (p.getLsbD 9 && !m.testBit 4) || (p.getLsbD 10 && !m.testBit 5) ||
  (p.extractLsb' 11 2 != 0 && (!m.testBit 6 || p.extractLsb' 11 2 == 3)) || p.extractLsb' 13 11 != 0

/-- A hint is one of the three. -/
def Instr.isHint (i : Instr) : Bool := i.info.major == 0x10

/-- Hints of the group in hand (R75). -/
def Hints.count (h : Hints) : Nat := h.imms.length + h.mod.toList.length + h.sched.toList.length

/-- The hints in hand cannot be consumed by i, or i is a hint beyond the limits: three in a group, and of them two, one and one of each
kind (R75). -/
def hintOrphan (i : Instr) (h : Hints) : Bool :=
  match i with
  | .hintImm _ => decide (2 ≤ h.imms.length) || decide (3 ≤ h.count)
  | .hintMod _ => h.mod.isSome || decide (3 ≤ h.count)
  | .hintSched _ => h.sched.isSome || decide (3 ≤ h.count)
  | _ => (h.imms ≠ [] && !i.info.imm) || (h.mod.isSome && i.info.mods == 0)

/-! Kinds of strand (R13, R29, R82). -/

/-- A strand of a service pair (R29, log 10). -/
def isPair (b : Nat) : Bool := decide (32768 ≤ b)
/-- A message strand (R13). -/
def isMessage (b : Nat) (k : Fin 5) : Bool := k = 4 && !isPair b

/-- Numbers of the control registers of a brick's strand (R26). -/
def csrNumbers : List Nat :=
  [0x001, 0x002, 0x010, 0x011, 0x012, 0x020, 0x021, 0x022, 0x030, 0x031, 0x032, 0x033, 0x034, 0x040, 0x041, 0x042, 0x050, 0x051,
    0x060, 0x061, 0x062, 0x063, 0x070, 0x071, 0x0C0]
/-- Numbers of the control registers of a service core (R107, R321). -/
def pairCsrNumbers : List Nat := [0x030, 0x031, 0x032, 0x0C0, 0x090, 0x091]

/-- A control-register number that the strand does not have (R26, R107). -/
def csrMissing (b : Nat) (c : BitVec 12) : Bool := !(if isPair b then pairCsrNumbers else csrNumbers).contains c.toNat

/-- Majors that the kind of strand does not have (R82). -/
def majorMissing (mj : Nat) (b : Nat) (k : Fin 5) : Bool :=
  (isPair b && (mj == 0 || (decide (0x14 < mj) && mj != 0x30))) ||
  (isMessage b k && ((decide (0x15 ≤ mj) && decide (mj ≤ 0x2A)) || mj == 0x2D || mj == 0x2E))

/-- ILLEGAL_OPCODE by the kind of strand or its mode (R82, R92, R93, R176, R183, R187, R26). -/
def illegalHere (i : Instr) (b : Nat) (k : Fin 5) (m : Mode) : Bool :=
  let msg := isMessage b k
  majorMissing i.info.major b k ||
  (match i with
  | .yield => msg || isPair b || m == .service
  | .exit => msg || isPair b
  | .jmp _ => msg
  | .call _ => msg
  | .jr _ => msg
  | .callr _ => msg
  | .ret => msg
  | .join _ => msg
  | .migrate _ => msg
  | .texit _ => msg
  | .wfm _ _ _ => msg
  | .mend => !msg
  | .mapw _ _ _ => msg
  | .csrr _ c => csrMissing b c
  | .csrw _ c => csrMissing b c
  | _ => false)

/-- A register field that names s8 to s15 in a handler (R187). -/
def handlerReg (i : Instr) : Bool := i.scalars.any fun n => decide (8 ≤ n)

/-- The trap of an encoding or of its hints, the first in the order of R81. -/
def encodingTrap (i : Instr) (s : State) : Option Code :=
  let x := s.me
  let e := i.encTrap
  if e = some .illegal ∨ illegalHere i s.cur.1 s.cur.2 x.mode then some .illegalOpcode
  else if e = some .reserved ∨ (i.info.mods ≠ 0 ∧ modFault x.hmod i.info.mods) ∨ (isMessage s.cur.1 s.cur.2 ∧ handlerReg i)
    then some .reservedField
  else if e = some .kindTag then some .kindTag
  else if hintOrphan i x.hints then some .hintOrphan
  else none

/-! Lookahead windows (R70 to R74). -/

/-- One byte lane mask of a predicate: lane i counts when bit i is set. -/
def laneBits (p : PReg) : VReg := BitVec.ofNat 512 ((List.range 64).foldl (fun a i => if p.getLsbD i then a + 255 * 256 ^ i else a) 0)

/-- New lanes under a mask; the others keep their value or become zero (R132). -/
def mergeLanes (old new : VReg) (mask : PReg) (zero : Bool) : VReg :=
  let m := laneBits mask
  (new &&& m) ||| (if zero then 0 else old &&& ~~~m)

/-- The registers after an operation's result commits (R71, R47). -/
def commit (o : Op) (x : Strand) : Strand :=
  let x := match o.commit.sc with
    | some (d, v) => x.setS d v
    | none => x
  let x := o.commit.vs.foldl (fun x q => x.setV q.1 (mergeLanes (x.vreg q.1) q.2.1 q.2.2 o.commit.zero)) x
  { x with fpstat := x.fpstat ||| o.flags }

/-- The ring without the entry of sequence number q, unless a late fault marked it (R23, R24). -/
def ringFree (r : List RingEntry) (q : Option (BitVec 32)) : List RingEntry :=
  match q with
  | some q => r.filter fun e => !(e.seq == q && e.fault.isNone)
  | none => r

/-- The strand after an operation commits and leaves. -/
def retireOp (o : Op) (x : Strand) : Strand := let x := commit o x; { x with ring := ringFree x.ring o.seq }

/-- A scatter: its window closes without a wait and commits nothing (R141). -/
def Op.isScatter (o : Op) : Bool := match o.kind with
  | .scatter _ => true
  | _ => false

/-- The strand has to wait for the operation at its window's close (R71, R141). -/
def Op.holds (o : Op) : Bool := !o.done && !o.isScatter

/-- Due operations commit, the older first, up to the first one that is not complete (R71, R72). A scatter under way goes on
without its window (R141). -/
def settleList : List Op → Strand → Strand × List Op
  | [], x => (x, [])
  | o :: t, x =>
    if o.left = some 0 then
      if o.done then settleList t (retireOp o x)
      else if o.isScatter then let r := settleList t x; (r.1, { o with left := none } :: r.2)
      else (x, o :: t)
    else let r := settleList t x; (r.1, o :: r.2)

/-- The strand after every window that is due has committed as far as it can. -/
def Strand.settle (x : Strand) : Strand := let r := settleList x.ops x; { r.1 with ops := r.2 }

/-- An operation whose window is due and that is not complete: the strand waits (R71). -/
def Strand.waiting (x : Strand) : Option Op := x.ops.find? fun o => o.left = some 0 && o.holds

/-- No window is open. -/
def Strand.windowFree (x : Strand) : Bool := x.ops.all fun o => o.left.isNone

/-- Every operation with a window is complete. -/
def Strand.drained (x : Strand) : Bool := x.ops.all fun o => o.left.isNone || !o.holds

/-- An operation into a list sorted by the end of its window, the older first among equals (R72). -/
def insertOp (o : Op) : List Op → List Op
  | [] => [o]
  | a :: t => if o.left.getD 0 < a.left.getD 0 then o :: a :: t else a :: insertOp o t

/-- Every open window closes early: the results commit in the order in which the windows would have closed (R72, R73). -/
def Strand.closeWindows (x : Strand) : Strand :=
  let l := (x.ops.filter fun o => o.left.isSome && o.done).foldl (fun l o => insertOp o l) []
  { l.foldl (fun x o => retireOp o x) x with
    ops := (x.ops.filter fun o => o.left.isNone || !o.done).map fun o => { o with left := none } }

/-- One instruction was executed: every open window has one less to run (R70). -/
def Strand.tickWindows (x : Strand) : Strand := { x with ops := x.ops.map fun o => { o with left := o.left.map (· - 1) } }

/-- An asynchronous event is due in task mode, or a stop of the debug agent (R15, R101, R345). -/
def Strand.asyncDue (x : Strand) : Bool := x.stopReq || (x.mode = .task && (x.saveDue || x.lates ≠ [] || x.wdDue))

/-- What a strand that waits for an operation's completion is blocked on, if that wait is a block (R118, R236): a reply, a copy, a footing
phase, a map request, a chain switch, or the host (R323). -/
def State.blocks (s : State) (o : Op) : Option BlockOn :=
  match o.accs.findSome? (fun a => match a.st with
    | .faulted t _ => some t
    | _ => none) with
  | some t => some (.opFault t o.id)
  | none =>
    match o.kind with
    | .cpWait _ _ _ _ => some (.op o.id)
    | .foot _ _ _ => some (.op o.id)
    | .mapw _ _ => some (.op o.id)
    | .chsw _ => some (.op o.id)
    | _ => if o.accs.any (fun a => a.st = .host || (a.st = .pending && (!s.homeReady a.pa || (a.amo.isSome && s.atomHeld o.space a.pa)))) then some (.op o.id) else none

/-- What the strand is blocked on while it waits for the operations of its windows (R73, R278). -/
def State.stuck (s : State) (x : Strand) : Option BlockOn :=
  x.ops.findSome? fun o => if o.left.isSome && o.holds then s.blocks o else none

/-- An event that closes windows (R73): the rest goes on once every operation is complete; that wait may be a block (R118). -/
def closing (s : State) : Except Stop State :=
  if s.me.drained then .ok (s.modMe Strand.closeWindows)
  else match s.stuck s.me with
    | some r => .error (.block s r)
    | none => .error (.wait s)

/-! Identity of a context (R21). -/

/-- (SPACEID, CTXID) as the 52-bit tag of R23. -/
def Strand.ctxKey (x : Strand) : Nat := x.space + 2 ^ 20 * x.ctxid.toNat

/-! Taking a trap (R96) and returning from one (R100). -/

/-- trap_entry: closes the windows, saves the resume address, cause and mode, and enters service mode at TRAPVEC (R96). -/
def trapEntry (c : Code) (late : Option (BitVec 32)) (pc : Word) (x : Strand) : Strand :=
  let x := x.closeWindows
  { x with
    trappc := pc
    trapcause := BitVec.ofNat 10 (c.num + (if late.isSome then 256 else 0) + (if x.mode = .service then 512 else 0))
    fltseq := late.getD x.fltseq
    wdCount := if c = .watchdog then 0 else x.wdCount
    wdDue := if c = .watchdog then false else x.wdDue
    mode := .service
    pc := (x.trapvec.zeroExtend 64) <<< 2
    hints := Hints.none
    answers := []
    phase := 0
    issued := 0
    trapDue := none }

/-- The message strand's handler ends as by mend (R187, R188): windows close, the message leaves, its space is free. -/
def endHandler (s : State) : State :=
  (s.modMe fun x => { x.closeWindows with hints := Hints.none, answers := [], phase := 0, handlerCount := 0 }).modHere
    fun x => { x with handler := none }

/-- The strand waits, in a block where the wait is one. -/
def Strand.holdFor (x : Strand) (cycle : Nat) (r : Option BlockOn) : Strand :=
  match r with
  | some r => { x with block := some r, since := cycle, wdCount := 0, wdDue := false }
  | none => x

/-- A trap of the moving strand with resume address pc: the event, once found at issue, waits until every window's instruction is complete
(R73, log 40). On the message strand it ends the handler (R187), on a strand of a brick or a service core it enters service mode (R96). -/
def takeTrapAt (s : State) (c : Code) (pc : Word) : State :=
  let x := s.me
  let due : State := s.modMe fun x => { x with trapDue := some (c, pc) }
  if !x.drained then due.modMe fun y => y.holdFor s.cycle (s.stuck x)
  else if isMessage s.cur.1 s.cur.2 then
    if x.unacked ≠ 0 then due else (endHandler (s.modMe fun x => { x with trapDue := none })).traceMe 6 0 0
  else (s.modMe (trapEntry c none pc)).traceMe 4 0 (BitVec.ofNat 64 c.num)

/-- A precise trap: its resume address is the first hint of the group in hand (R79, R97). -/
def takeTrap (s : State) (c : Code) : State := takeTrapAt s c s.me.groupPc

/-- eret's effect on the strand in service mode, its windows closed and TRAPPC aligned (R100). A service core stays in service mode
whatever PRIOR holds (R29, log 97). -/
def eretStrand (core : Bool) (x : Strand) : Strand :=
  let late := x.trapcause.getLsbD 8
  { x with
    ring := if late then x.ring.filter (fun e => !(e.fault.isSome && e.seq == x.fltseq && e.tag == x.ctxKey)) else x.ring
    mode := if core || x.trapcause.getLsbD 9 then .service else .task }

/-! Beginning and completing an instruction. -/

/-- The moving task blocks: WATCHDOG.COUNT stands at zero, and the instruction runs again from the first hint of its group
when the block resolves (R79, R103, R118). -/
def State.blockOn (s : State) (r : BlockOn) : State :=
  s.modMe fun x => { x with block := some r, since := s.cycle, wdCount := 0, wdDue := false, pc := x.groupPc, hints := Hints.none }

/-- A memory fault blocks the moving task on its mailbox (R116, R117). On the message strand it is answered at once as SKIP
and reported (R187). -/
def postFault (s : State) (p : Post) : State :=
  let x := s.me
  let s := s.traceMe 4 0 (BitVec.ofNat 64 p.code.num)
  let m (r : Bool) (tok : Nat) : FaultMsg := ⟨x.space, p.code, s.cur.1, s.cur.2, p.access, r, x.pc, p.addr, p.seq, tok⟩
  if isMessage s.cur.1 s.cur.2 then
    (s.modMe fun x => { x with answers := x.answers ++ p.keep ++ [(p.ord, .skip)] }).sendFault (m true 0)
  else
    let tok := s.nextId % 2 ^ 32
    ((s.bumpId.blockOn (.fault tok p.ord p.code)).modMe fun x => { x with answers := x.answers ++ p.keep }).sendFault (m false tok)

/-- The instruction in hand completes and the strand goes on at pc: hints are consumed, windows run down and commit. -/
def advanceTo (s : State) (pc : Word) : State :=
  (s.modMe fun x =>
    ({ x with
      pc := pc
      hints := Hints.none
      answers := []
      phase := 0
      issued := if x.asyncDue then x.issued + 1 else 0
      handlerCount := x.handlerCount + 1 } : Strand).tickWindows.settle).bumpFree

/-- The instruction in hand completes and the strand goes on at the next word. -/
def advance (s : State) : State := advanceTo s (s.me.pc + 4)

/-- A hint completes: it stays for its consumer (R75). -/
def advanceHint (s : State) (f : Hints → Hints) : State :=
  (s.modMe fun x =>
    ({ x with
      pc := x.pc + 4
      hints := { f x.hints with start := some x.groupPc }
      issued := if x.asyncDue then x.issued + 1 else 0
      handlerCount := x.handlerCount + 1 } : Strand).tickWindows.settle).bumpFree

/-- What an instruction comes to: its stop, or its completion k. -/
def conclude {α : Type} (s : State) (r : Except Stop α) (k : α → State) : State :=
  match r with
  | .ok a => k a
  | .error (.trap c) => takeTrap s c
  | .error (.post p) => postFault s p
  | .error (.wait t) => t
  | .error (.block t r) => t.blockOn r

/-- An instruction that goes on at the next word. -/
def run (i : Instr) (s : State) (body : State → Except Stop State) : Host.Outcome State Fault Refusal :=
  .next (conclude s (match encodingTrap i s with
    | some c => .error (.trap c)
    | none => body s) advance)

/-- An instruction that says where it goes on. -/
def runJump (i : Instr) (s : State) (body : State → Except Stop (State × Word)) : Host.Outcome State Fault Refusal :=
  .next (conclude s (match encodingTrap i s with
    | some c => .error (.trap c)
    | none => body s) fun q => advanceTo q.1 q.2)

/-- An instruction whose body says all that comes next. -/
def runRaw (i : Instr) (s : State) (body : State → Except Stop State) : Host.Outcome State Fault Refusal :=
  .next (conclude s (match encodingTrap i s with
    | some c => .error (.trap c)
    | none => body s) id)

/-! The sequence ring (R23, R24). -/

/-- A dispatch takes the next sequence number and its entry; an entry in use stalls it, another context's as a block
(R23). -/
def ringTake (s : State) (i : Instr) (kind : Nat) (args : BitVec 32) (addr : Word) : Except Stop (State × BitVec 32) :=
  let x := s.me
  let q := x.seqNext
  match x.ring.find? (fun e => e.seq.toNat % 64 = q.toNat % 64) with
  | some e => if e.tag = x.ctxKey then .error (.wait s) else .error (.block s .ring)
  | none =>
    .ok (s.modMe fun x =>
      { x with
        seqNext := q + 1
        ring := x.ring ++ [⟨q, kind, none, x.pc, BitVec.ofNat 32 (encode i), args, addr, x.ctxKey, false⟩] }, q)

/-- The operation of a long-latency instruction, its window of L instructions about to begin (R70). -/
def newOp (s : State) (L : BitVec 4) (kind : OpKind) (seq : Option (BitVec 32)) : Op where
  id := s.nextId
  left := some (L.toNat + 1)
  done := false
  hold := false
  commit := ⟨none, [], false⟩
  flags := 0
  seq := seq
  kind := kind
  accs := []
  buf := 0
  space := s.me.space
  pc := s.me.pc
  gpc := s.me.groupPc

/-- The state with an operation of the moving strand under way. -/
def State.addOp (s : State) (o : Op) : State := (s.modMe fun x => { x with ops := x.ops ++ [o] }).bumpId

/-- The key of a context that is off its strand, as R23's tag. -/
def Ctx.key (c : Ctx) : Nat := c.space + 2 ^ 20 * c.ctxid.toNat

/-- A late fault of a context that is off its strand, in its save area: bit 16 and bits 47:32 of the flags, and the sequence number; none
if one stands there already or the save area has no translation (R25, R33, log 98). -/
def recordLate (s : State) (b : Nat) (c : Ctx) (l : Late) : Option State :=
  match s.check b c.space (c.savearea.toNat + 8) needStore, s.check b c.space (c.savearea.toNat + 0x160) needStore with
  | .ok (p, _), .ok (q, _) =>
    let f := s.num p.pa 8
    if f.testBit 16 then none
    else some ((s.writeNum p.pa 8 (f % 2 ^ 16 + 2 ^ 16 + l.code.num * 2 ^ 32)).writeNum q.pa 8 l.seq.toNat)
  | _, _ => none

/-- A late fault of the context that is off its strand and has a key: in its save area, or kept beside it (R25). -/
def lateAway (s : State) (b key : Nat) (l : Late) : State :=
  let y := s.brick b
  match (y.ready ++ y.away ++ y.kept).find? fun c => c.key = key with
  | none => s
  | some c =>
    match recordLate s b c l with
    | some t => t
    | none =>
      let f (l' : List Ctx) := l'.map fun (t : Ctx) => if t.key = key then { t with lates := t.lates ++ [l] } else t
      s.modBrick b fun y => { y with ready := f y.ready, away := f y.away, kept := f y.kept }

/-- A late fault falls due at the context that holds ring entry q of strand k of brick b (R25): at the running task, which it wakes from
a pause (R95), or in the context that is away. -/
def lateFault (s : State) (b : Nat) (k : Fin 5) (q : BitVec 32) (c : Code) : State :=
  let x := s.strand b k
  match x.ring.find? (fun e => e.seq == q) with
  | none => s
  | some e =>
    let s := s.modStrand b k fun x =>
      { x with ring := x.ring.map fun e => if e.seq == q then { e with fault := some c } else e }
    if x.task.isSome ∧ x.ctxKey = e.tag then s.modStrand b k fun x => { x with lates := x.lates ++ [⟨c, q⟩], pause := none }
    else lateAway s b e.tag ⟨c, q⟩

/-- A late fault that concerns an address: the entry's ADDR takes it (R24, R53). -/
def lateFaultAt (s : State) (b : Nat) (k : Fin 5) (q : BitVec 32) (c : Code) (addr : Word) : State :=
  lateFault (s.modStrand b k fun x =>
    { x with ring := x.ring.map fun e => if e.seq == q then { e with addr := addr } else e }) b k q c

/-- SEQBASE.OLDEST: the oldest entry that the running context holds, else NEXT (R27). -/
def Strand.seqBase (x : Strand) : BitVec 32 :=
  (x.ring.filter fun e => e.tag = x.ctxKey).foldl
    (fun o e => if (x.seqNext - o).toNat < (x.seqNext - e.seq).toNat then e.seq else o) x.seqNext

/-- The late fault to take first: the lowest (SEQ − SEQBASE) mod 2^32 (R25). -/
def Strand.firstLate (x : Strand) : Option Late :=
  x.lates.foldl (fun o l => match o with
    | none => some l
    | some m => if (l.seq - x.seqBase).toNat < (m.seq - x.seqBase).toNat then some l else some m) none

end Sys2Proof.Machine
end

