-- ==== Sys2Proof/Machine/Access.lean ====
section
/-! DEFINITION. The accesses of a strand to memory (R109 to R118, R248): checks, waits, local accesses, retired accesses, reads
of records, and the fences that hold later operations (R120, R130). -/

namespace Sys2Proof.Machine

/-! What is still under way (R115, R130). -/

/-- Strand k of brick b, by number. -/
def State.strandAt (s : State) (b k : Nat) : Strand := ((s.brick b).strands.toList)[k]?.getD (Strand.fresh .task)

/-- The place that a retired access on its way reaches: as the interface has translated it, or would translate it now. -/
def State.flightPa (s : State) (b : Nat) (f : Flight) : Option Nat :=
  f.pa.orElse fun _ => match s.check b f.space f.ea.toNat ⟨false, true, false, .sealedStore, .store⟩ with
  | .ok (p, _) => some p.pa
  | .error _ => none

/-- Two accesses concern one line: by physical address, or by VA of one space (R115 rule 3). -/
def sameLine (pa1 pa2 : Option Nat) (sp1 sp2 ea1 ea2 : Nat) : Bool :=
  (match pa1, pa2 with
  | some p, some q => p / 64 = q / 64
  | _, _ => false) || (sp1 = sp2 && ea1 / 64 = ea2 / 64)

/-- A gather: its elements are ordered only among themselves (R141). -/
def Op.isGather (o : Op) : Bool := match o.kind with
  | .gather _ _ _ => true
  | _ => false

/-- An S-path access of strand k of brick b, numbered before id, to the line of (space, ea, pa) is still under way (R115 rule 3,
R141). -/
def State.lineBusy (s : State) (b k id space ea : Nat) (pa : Option Nat) : Bool :=
  (s.brick b).flights.any (fun f => f.strand = k && !f.arrived && decide (f.id < id) && f.access ≠ .gather &&
    sameLine (s.flightPa b f) pa f.space space f.ea.toNat ea) ||
  (s.strandAt b k).ops.any fun o => decide (o.id < id) && !o.isGather &&
    o.accs.any fun a => (a.st = .pending || a.st = .host || a.st = .retry) && sameLine (some a.pa) pa o.space space a.ea.toNat ea

/-- A retired access of the moving strand to its own brick's SRAM is still under way (R115 rule 2). -/
def State.ownBusy (s : State) : Bool :=
  s.here.flights.any fun f => f.strand = s.cur.2 && !f.arrived && f.access ≠ .gather &&
    (match s.flightPa s.cur.1 f with
    | some p => homeHere s.cur.1 p
    | none => false)

/-- A copy start or copy of strand k or of the context with a key, numbered before id, is still under way in brick b (R130). -/
def State.copyBusy (s : State) (b k key id : Nat) : Bool :=
  let x := s.brick b
  let mine (c : CopyStart) : Bool := (c.strand = k || (c.strand ≠ 4 && k ≠ 4 && c.ctx = key)) && decide (c.id < id)
  x.chans.toList.any (fun c => (c.latched.any mine) || (c.job.any mine)) || x.held.any (fun h => mine h.2.1) ||
  x.flights.any fun f => f.strand = k && !f.arrived && decide (f.id < id) &&
    (match s.flightPa b f with
    | some p => paClass p = 4
    | none => false)

/-- A matrix command of strand k, numbered before id, has not finished its fetches and accumulator stores (R130): its own commands and those
that were accepted under its slots, and the remote commands that it issued, on their way or in their targets' queues (R163, R164). -/
def State.matrixBusy (s : State) (b k id : Nat) : Bool :=
  (s.brick b).matq.any (fun m => m.strand = k && decide (m.id < id)) ||
  (s.brick b).panels.any (fun p => p.strand = k && decide (p.id < id)) ||
  s.rcmds.any (fun c => c.src = b && c.by_ = k && decide (c.id < id)) ||
  s.bricks.any fun q => q.2.matq.any fun m => m.issuer.any fun (c, j, n) => c = b && j = k && decide (n < id)

/-- A gather or scatter element of the operations l, numbered before id, is still under way (R130, R140). -/
def gatherBusy (l : List Op) (id : Nat) : Bool :=
  l.any fun o => decide (o.id < id) &&
    (match o.kind with
    | .gather _ _ _ => !o.done
    | .scatter n => decide (0 < n)
    | _ => false)

/-- A message of strand k, numbered before id, is not placed yet (R130). -/
def State.messageBusy (s : State) (b k id : Nat) : Bool :=
  s.net.any fun m => m.srcBrick = b && m.srcStrand = k && m.op.isSome && decide (m.id < id)

/-- A load or atomic of the operations l, numbered before id, is not performed yet (R130). -/
def loadBusy (l : List Op) (id : Nat) : Bool :=
  l.any fun o => decide (o.id < id) &&
    (match o.kind with
    | .load _ _ _ => !o.done
    | .vload _ _ _ => !o.done
    | .vdecode _ _ _ _ _ _ => !o.done
    | _ => false)

/-- Every class of mask m is drained for the operations numbered before id of strand k and of the context with a key: l are its operations,
idle: none of its stores is unacknowledged (R130). -/
def State.drainedOf (s : State) (l : List Op) (idle : Bool) (b k key id : Nat) (m : BitVec 5) : Bool :=
  (!m.getLsbD 0 || (!loadBusy l id && idle)) &&
  (!m.getLsbD 1 || !s.copyBusy b k key id) && (!m.getLsbD 2 || !s.matrixBusy b k id) &&
  (!m.getLsbD 3 || !gatherBusy l id) && (!m.getLsbD 4 || !s.messageBusy b k id)

/-- Every class of mask m is drained for the operations of strand k numbered before id (R130). -/
def State.drainedFor (s : State) (b k id : Nat) (m : BitVec 5) : Bool :=
  let x := s.strandAt b k
  s.drainedOf x.ops (x.unacked = 0) b k x.ctxKey id m

/-- The classes of an armed hold are drained, wherever its context is now (R130). -/
def State.holdDone (s : State) (h : FxHold) : Bool :=
  let y := s.brick h.brick
  let on := y.strands.toList.zipIdx.filter fun (x, j) => x.ctxKey = h.key && (x.task.isSome || (j = h.strand && (j = 4 || decide (32768 ≤ h.brick))))
  s.drainedOf (on.flatMap (·.1.ops) ++ ((y.ready ++ y.away ++ y.kept).filter fun c => c.key = h.key).flatMap (·.ops))
    (on.all fun x => x.1.unacked = 0) h.brick h.strand h.key h.upTo h.a

/-- The holds of the context with a key, or of strand k where it holds no task, wherever that context is (R130). -/
def State.holdsOf (s : State) (b k key : Nat) : List FxHold :=
  let y := s.brick b
  (y.strands.toList.zipIdx.filter fun q => q.1.ctxKey = key && (q.1.task.isSome || q.2 = k)).flatMap (·.1.fx) ++
    ((y.ready ++ y.away ++ y.kept).filter fun c => c.key = key).flatMap (·.fx)

/-- Holds of a strand that end leave (R130). -/
def State.settleHolds (s : State) (b : Nat) (k : Fin 5) : State :=
  let live := (s.strand b k).fx.filter fun h => !s.holdDone h
  if live.length = (s.strand b k).fx.length then s else s.modStrand b k fun x => { x with fx := live }

/-- A hold that names C has ended: the brick's template cache goes (R130). -/
def State.settleFences (s : State) (b : Nat) : State :=
  let live := (s.brick b).fences.filter fun h => !s.holdDone h
  if live.length = (s.brick b).fences.length then s else s.modBrick b fun y => { y with fences := live, tcache := [] }

/-- A hold of fence.x, or an acquiring atomic that is not performed, keeps an operation of class c from issuing
(R120, R130). -/
def gate (s : State) (c : Nat) : Except Stop Unit :=
  if s.me.fx.any (fun h => h.b.getLsbD c && !s.holdDone h) then .error (.wait s)
  else if c = 0 && s.me.ops.any (fun o => o.hold && !o.done) then .error (.wait s)
  else .ok ()

/-- A wait in the middle of an instruction leaves nothing behind: it begins again. -/
def whole {α : Type} (s : State) (r : Except Stop α) : Except Stop α :=
  match r with
  | .error (.wait _) => .error (.wait s)
  | .error (.block _ q) => .error (.block s q)
  | r => r

/-! Homes. -/

/-- A plain write. -/
def FAct.isWrite (a : FAct) : Bool := match a with
  | .write _ => true
  | _ => false

/-- What land.set leaves in a landing word (R122). -/
def landSetWord (m : Nat) : Word := if m = 0 then 0x8000000000000000 else BitVec.ofNat 64 (2 ^ 62 + m)

/-- The bytes that an access writes if it reads nothing: a write, land.set, or rel with b = 0 (R122, R127). -/
def FAct.plain : FAct → Option (List (Option Byte))
  | .write l => some l
  | .rel b => if b = 0 then some (List.replicate 8 (some 0)) else none
  | .landSet m => some ((leBytes 8 (landSetWord m).toNat).map some)
  | _ => none

/-- Bytes that a parked access carries. -/
def FAct.size (a : FAct) : Nat := match a with
  | .write l => l.length
  | _ => 8

/-- A host-bound access goes to the park buffer of 256 MiB, if there is room (R323). -/
def State.parkAct (s : State) (space pa : Nat) (act : FAct) : Option State :=
  if (s.park.map fun p => p.act.size).sum + act.size ≤ 2 ^ 28 then
    some { s with park := s.park ++ [⟨s.spaceWorld space, pa, act, s.cycle, none, space⟩] }
  else none

/-- An MSI-X message of a space with a vector goes out, or to the park buffer while the host or its world's session is lost (R316, R323,
R336). -/
def State.msix (s : State) (space v : Nat) : State :=
  if s.hostHeld space then { s with park := s.park ++ [⟨s.spaceWorld space, 0, .write [], s.cycle, some v, space⟩] }
  else { s with replies := s.replies ++ [.msix v] }

/-- The port's link is up (R316). -/
def State.portUp (s : State) (p : Nat) : Bool := ((findKey p s.ports).map (·.up)).getD true

/-- The node that a brick's interface uses at a VA: an entry it holds, else the walk's (R259, R260). -/
def nodeAt (s : State) (b space va : Nat) : Option Node :=
  match (s.brick b).entries.find? (fun e => decide (e.space = space) && decide (e.va ≤ va) && decide (va < e.va + e.len)) with
  | some e => some e.node
  | none => match s.walk space va with
    | .ok n => some n
    | .error _ => none

/-- The port that carries brick b's host access at a VA: its mapping says which (R36). -/
def State.portAt (s : State) (b space va : Nat) : Nat := ((nodeAt s b space va).map (·.port)).getD 0

/-- Port 1 runs CXL (R316). -/
def State.cxlOn (s : State) : Bool := ((findKey 1 s.ports).map (·.cxl)).getD false

/-- The link that carries an access to a physical address is down: port 0 or 1 for the host, port 1 for far memory, which it carries in CXL
mode alone, a device-to-device port for a peer (R36, R316; log 109). -/
def State.linkDown (s : State) (b space va pa : Nat) : Bool :=
  decide (pa < 2 ^ 52) && match paClass pa with
  | 2 => !s.portUp 1 || !s.cxlOn
  | 3 => !s.portUp (s.portAt b space va)
  | 5 => !s.portUp (16 + bits pa 47 44)
  | _ => false

/-- A read at home meets poison (R349). -/
def State.readPoison (s : State) (pa n : Nat) : Bool := s.poisoned pa n

/-- A read at home returns poison: a poisoned unit, or a link that is down (R316, R349). -/
def State.readBad (s : State) (b space va pa n : Nat) : Bool := s.readPoison pa n || s.linkDown b space va pa

/-! Checks of an access at its issue (R109). -/

/-- What the access at hand comes to: it is dropped (SKIP), or it is made at a place. -/
inductive Reach where
  | skip
  | at (ea : Word) (p : Place) (s : State)
deriving DecidableEq, Repr

/-- The address of access number ord of the instruction in hand: the reply may skip or redirect it (R117). -/
def State.answer (s : State) (ord : Nat) (ea : Word) : Option Word :=
  match s.me.answers.find? (fun q => q.1 = ord) with
  | some (_, .skip) => none
  | some (_, .redirect a) => some a
  | some (_, .placed _ _ _) => some ea
  | none => some ea

/-- R109 for access number ord of the instruction in hand, of n bytes aligned to al. -/
def reach (s : State) (ord : Nat) (ea : Word) (al : Nat) (n : Need) (seq : BitVec 32) : Except Stop Reach :=
  match s.answer ord ea with
  | none => .ok .skip
  | some ea =>
    if ea.toNat % al ≠ 0 then .error (.trap .misaligned)
    else match s.check s.cur.1 s.me.space ea.toNat n with
      | .ok (p, s') => .ok (.at ea p s')
      | .error c => .error (.post ⟨c, n.cls, ea, ord, seq, []⟩)

/-- An access to home memory that is not ready blocks until its region or the host is (R318, R323). -/
def homeWait (s : State) (pa ord : Nat) (cls : Access) (ea : Word) : Except Stop Unit :=
  if s.homeReady pa then .ok () else .error (.block s (.region (pa / 2 ^ 21 * 2 ^ 21) ord cls ea))

/-! Apertures of a brick as a strand reads them (R168, R172). -/

/-- The status word of a channel (R172). -/
def Channel.status (c : Channel) : Word :=
  BitVec.ofNat 64 ((match c.st with
    | .idle => 0
    | .running => 1
    | .done => 2
    | .failed => 3) + (if c.latched.isSome then 4 else 0) + (if c.poisoned then 8 else 0) +
    ((c.code.map Code.num).getD 0) * 256 + c.tmpl.toNat * 65536)

/-- A load of a copy aperture: the status word or the write pointer of a channel (R168). -/
def Brick.apertureLoad (x : Brick) (off : Nat) : Word :=
  let c := (x.chans.toList)[off / 16]?.getD Channel.fresh
  if off % 16 = 0 then c.status else BitVec.ofNat 64 c.ptr

/-- The 16 bytes of a trace entry (R344). -/
def TraceEntry.bytes (e : TraceEntry) : List Byte :=
  leBytes 6 e.time ++ leBytes 1 e.kind ++ leBytes 1 (e.strand + 8 * e.access) ++ leBytes 8 e.data.toNat

/-- DBGSTAT (R345). -/
def Brick.dbgStat (x : Brick) : Word :=
  BitVec.ofNat 64 (x.dbg.state + x.dbg.code * 256 +
    ((List.range 4).foldl (fun a i => if ((x.strands.toList)[i]?.bind (·.halted)).isSome then a + 2 ^ i else a) 0) * 65536)

/-- A byte of aperture 1, 2 or 3 (R344, R345). -/
def Brick.apertureByte (x : Brick) (ap off : Nat) : Byte :=
  let d (w : Word) : Byte := BitVec.ofNat 8 (w.toNat / 256 ^ (off % 8))
  match ap with
  | 1 => if off / 8 = 0 then d x.trctl else if off / 8 = 1 then d x.trmatch else 0
  | 2 => (((findKey (off / 16) x.trace).map TraceEntry.bytes).getD []).getD (off % 16) 0
  | 3 =>
    if off / 8 = 0 then d x.dbg.cmd else if off / 8 = 1 then d x.dbg.sel else if off / 8 = 2 then d x.dbg.space
    else if off / 8 = 3 then d x.dbg.pc else if off / 8 = 4 then d x.dbgStat
    else if 64 ≤ off ∧ off < 128 then BitVec.ofNat 8 (x.dbg.data.toNat / 256 ^ (off - 64)) else 0
  | _ => 0

/-- Who may use an aperture: the copy aperture its own brick's strands, the others the service pair of the brick's die
(R168, R344, R345). -/
def apertureOk (b : Nat) (pa : Nat) : Bool :=
  if bits pa 16 12 = 0 then paBrick pa = b && decide (bits pa 11 0 < 0x80)
  else isPair b && dieOf b = paBrick pa / 4096

/-- What a class-4 access is refused with (R168, R344, R345). -/
def apertureFault (b pa n : Nat) (isStore : Bool) : Option Code :=
  if !apertureOk b pa then some (if bits pa 16 12 = 0 ∧ paBrick pa = b then .notMapped else .rights)
  else if bits pa 16 12 = 0 ∧ (n ≠ 8 ∨ (isStore ∧ bits pa 11 0 % 16 ≠ 0)) then some .rights
  else none

/-- The n bytes that a load of class 4 returns (R168, R344, R345); zeros from a die of a world (R329). -/
def State.apertureBytes (s : State) (pa n : Nat) : List Byte :=
  let x := s.brick (paBrick pa)
  if bits pa 16 12 = 0 then leBytes n (x.apertureLoad (bits pa 11 0)).toNat
  else if bits pa 16 12 = 2 ∧ s.worldOf (paBrick pa / 4096) ≠ 0 then List.replicate n 0
  else (List.range n).map fun i => x.apertureByte (bits pa 16 12) (bits pa 11 0 + i)

/-! Records that an instruction reads as it executes (log 6). -/

/-- The pieces of a range within 64-byte lines: start and length. -/
def linePieces : Nat → Nat → Nat → List (Nat × Nat)
  | 0, _, _ => []
  | fuel + 1, a, n =>
    if n = 0 then []
    else let m := min n (64 - a % 64); (a, m) :: linePieces fuel (a + m) (n - m)

/-- One piece of a record that is aligned to al, read as a load (R109, R111, R351): zero bytes after SKIP. -/
def readPiece (s : State) (ord : Nat) (ea : Word) (al n : Nat) (need : Need) (seq : BitVec 32) :
    Except Stop (List Byte × State) := do
  gate s 0
  match ← reach s ord ea al need seq with
  | .skip => .ok (List.replicate n 0, s)
  | .at ea p s' =>
    if s.lineBusy s.cur.1 s.cur.2 s.nextId s.me.space ea.toNat (some p.pa) ∨ (homeHere s.cur.1 p.pa ∧ s.ownBusy)
      then .error (.wait s)
    else if paClass p.pa = 4 ∧ p.pa < 2 ^ 52 then
      match apertureFault s.cur.1 p.pa n false with
      | some c => .error (.post ⟨c, need.cls, ea, ord, seq, []⟩)
      | none => .ok (s'.apertureBytes p.pa n, s')
    else
      match (if homeHere s.cur.1 p.pa then none else s.here.rrbHit s.me.space ea.toNat n) with
      | some l => .ok (l, s')
      | none => do
        homeWait s p.pa ord need.cls ea
        if s.readBad s.cur.1 s.me.space ea.toNat p.pa n then .error (.post ⟨.poison, need.cls, ea, ord, seq, []⟩)
        else
          let line := s'.bytes (p.pa / 64 * 64) 64
          let s'' := if homeHere s.cur.1 p.pa || s.me.noAlloc || !rrbClass p.pa || s.readPoison (p.pa / 64 * 64) 64 then s'
            else s'.modHere fun x => x.rrbFill s.me.space (lineOf ea.toNat) line
          .ok (s'.bytes p.pa n, s'')

/-- Pieces of a record that is aligned to al in turn, numbered from ord on. -/
def readPieces (s : State) (al : Nat) (need : Need) (seq : BitVec 32) : Nat → List (Nat × Nat) → Except Stop (List Byte × State)
  | _, [] => .ok ([], s)
  | ord, (a, n) :: t => do
    let (l, s) ← readPiece s ord (BitVec.ofNat 64 a) al n need seq
    let (r, s) ← readPieces s al need seq (ord + 1) t
    .ok (l ++ r, s)

/-- A record of n bytes at ea, which its instruction has found aligned to al, its accesses numbered from ord on: NEWADDR of a REDIRECT is held
to the same alignment (R109, R351; log 124). -/
def readRec (s : State) (ord : Nat) (ea : Word) (al n : Nat) (need : Need) (seq : BitVec 32) : Except Stop (List Byte × State) :=
  readPieces s al need seq ord (linePieces (n / 8 + 2) ea.toNat n)

/-- The double that starts at byte o of a record. -/
def doubleAt (l : List Byte) (o : Nat) : Word := BitVec.ofNat 64 (leNat ((l.drop o).take 8))
/-- The number of n bytes that starts at byte o of a record. -/
def numAt (l : List Byte) (o n : Nat) : Nat := leNat ((l.drop o).take n)

/-! Retired accesses (R114). -/

/-- The bind entries that are valid and hold an address (R114). -/
def Strand.bindsOf (x : Strand) (ea : Nat) : List Nat :=
  (List.range 8).filter fun n =>
    let e := (x.binds.toList)[n]?.getD ⟨0, 0, 0, 0⟩
    x.bindtab.getLsbD n && decide (e.base.toNat ≤ ea) && decide (ea < e.base.toNat + e.len.toNat)

/-- The bind table with the counts of some entries changed. -/
def bumpBinds (v : Vector BindEntry 8) (l : List Nat) (f : Nat → Nat) : Vector BindEntry 8 :=
  v.mapFinIdx fun i e _ => if l.contains i then { e with count := f e.count } else e

/-- A remote access retires: it is counted, its RRB line goes, and it is on its way (R114); pa: its place, where the checks at issue have
fixed it (R140). -/
def retireRemote (s : State) (ea : Word) (len : Nat) (act : FAct) (access : Access) (op pa : Option Nat) (counted : Bool) :
    Except Stop State :=
  let x := s.me
  if counted ∧ x.unacked = 4095 then .error (.wait s)
  else
    let binds := if counted then x.bindsOf ea.toNat else []
    let s := s.modHere fun y => y.rrbDrop x.space ea.toNat len
    let s := s.modMe fun x => { x with
      unacked := if counted then x.unacked + 1 else x.unacked
      binds := bumpBinds x.binds binds (· + 1) }
    .ok (s.bumpId.modHere fun y =>
      let f : Flight := ⟨s.nextId, s.cur.2, x.ctxKey, x.space, x.pc, ea, len, act, op, binds, counted, false, false, y.epoch, access, pa⟩
      { y with flights := y.flights ++ [f] })

/-! Landing words and atomic steps at home (R120, R122, R127). -/

/-- What a landing word becomes when a chunk of m bytes is performed, and whether LANDING_OVERRUN is posted (R122). -/
def landChunk (w : Word) (m : Nat) : Word × Bool :=
  let st := bits w.toNat 63 62
  let p := bits w.toNat 47 0
  if st = 3 then (0xC000000000000000, false)
  else if st = 1 ∧ m < p then (BitVec.ofNat 64 (2 ^ 62 + (p - m)), false)
  else if st = 1 ∧ p = m then (0x8000000000000000, false)
  else (0xC000000000000000, true)

/-- The new value of an atomic on 8n bits (R120). -/
def Amo.apply (a : Amo) (old : Nat) : Nat :=
  let m := 2 ^ (8 * a.n)
  let o := old % m
  match a.op with
  | .add => (o + a.v) % m
  | .xchg => a.v
  | .cas => if o = a.e then a.v else o
  | .min => if toS o (8 * a.n) ≤ toS a.v (8 * a.n) then o else a.v
  | .max => if toS o (8 * a.n) < toS a.v (8 * a.n) then a.v else o
  | .and => o &&& a.v
  | .or => o ||| a.v
  | .xor => o ^^^ a.v

/-- An atomic's indivisible step: the old value, and the state with the new one (R120). -/
def amoStep (s : State) (a : Amo) (pa : Nat) : Nat × State :=
  let old := s.num pa a.n
  (old, s.softNum pa a.n (a.apply old))

/-- rel's indivisible step (R127). -/
def relStep (s : State) (b : Word) (pa : Nat) : State :=
  if b = 0 then s.softNum pa 8 0 else s.softNum pa 8 ((s.num pa 8 + b.toNat) % 2 ^ 64)

/-- What a retired access does at its home, or the code it is dropped with (R114, R120, R123, R127, R167, R349, R31). -/
def performAct (s : State) (pa : Nat) (act : FAct) : Except Code State :=
  match act with
  | .write l => if s.inDeque pa then .error .rights else .ok (s.writeOpt pa (s.soft pa l))
  | .amo a =>
    if s.inDeque pa then .error .rights else if s.readPoison pa a.n then .error .poison else .ok (amoStep s a pa).2
  | .rel b =>
    if s.inDeque pa then .error .rights else if b ≠ 0 ∧ s.readPoison pa 8 then .error .poison else .ok (relStep s b pa)
  | .landSet m => if s.inDeque pa then .error .rights else .ok (s.softNum pa 8 (landSetWord m).toNat)
  | .bufAdv n =>
    if s.inDeque pa then .error .rights
    else .ok (s.softNum pa 8 ((s.num pa 8 + n.toNat) % 2 ^ 32))

/-- What a retired access needs (R109). -/
def FAct.need : FAct → Need
  | .write _ => needStore
  | .amo _ => needAtomic
  | .rel _ => needRel
  | .landSet _ => needRel
  | .bufAdv _ => needRel

/-- A wake event reaches a strand that executes pause (R95). -/
def wakeBrick (s : State) (b : Nat) : State :=
  s.modBrick b fun x => { x with strands := x.strands.map fun t => { t with pause := none } }

/-- A write performed at a place of SRAM wakes its brick (R95). -/
def wakeAt (s : State) (pa : Nat) : State := if paClass pa = 0 ∧ pa < 2 ^ 52 then wakeBrick s (paBrick pa) else s

/-! Accesses to the host, and acts of units at home (R121, R245, R319). -/

/-- An atomic to host memory that takes the fallback (R121, R319). -/
def needsFallback (s : State) (a : Amo) (pa : Nat) : Bool :=
  paClass pa = 3 && decide (pa < 2 ^ 52) &&
    (!(a.op = .add || a.op = .xchg || a.op = .cas) || ((s.region? pa).map (·.noatom)).getD false)

/-- The mailbox entry of a fallback atomic (R319): those of one region are issued one at a time, in their order of arrival, and the
entries behind the first wait. -/
def pushFallback (s : State) (space b opId acc : Nat) (a : Amo) (pa : Nat) : State :=
  let n := match a.op with
    | .add => 0
    | .xchg => 1
    | .cas => 2
    | .min => 3
    | .max => 4
    | .and => 5
    | .or => 6
    | .xor => 7
  let first : Bool := !s.mail.any fun m => m.kind = 1 && m.addr / 2 ^ 21 = bits pa 47 0 / 2 ^ 21
  let t := { s with mail := s.mail ++ [⟨1, n, a.n, s.nextId % 2 ^ 32, bits pa 47 0, a.v, a.e, b, opId, acc, space⟩], nextId := s.nextId + 1 }
  if first then t.msix space 0 else t

/-- A posted host write of brick b waits for a flushing read of its port (R245). -/
def postOn (s : State) (port b id : Nat) : State :=
  { s with ports := putKey port (match findKey port s.ports with
      | some p => { p with posted := p.posted ++ [(b, id)] }
      | none => ⟨true, [(b, id)], 0, [], false⟩) s.ports }

/-- A store-like act of a unit, at a place that its checks have given (R171, R203, R308, R316, R319, R323): parked while the host is lost,
none while it waits for its home, or the code that it is dropped with. A host write is posted, and numbered for its flushing read (R245); a
write of SRAM wakes its brick (R95). b and va: the interface and address that it goes through. -/
def homeAct (s : State) (b space va pa : Nat) (act : FAct) : Option (Except Code State) :=
  let host : Bool := isHost pa
  if host && s.hostHeld space then
    match act.plain with
    | some l => (s.parkAct space pa (.write l)).map .ok
    | none => none
  else if !s.homeReady pa then none
  else if s.linkDown b space va pa then some (.error .poison)
  else
    let plain : Except Code State := (performAct (noteWrite s b space pa act.size) pa act).map fun t =>
      if host && act.plain.isSome then (postOn t (s.portAt b space va) b t.nextId).bumpId
      else wakeAt t pa
    some (match act with
      | .amo a => if needsFallback s a pa then .ok (pushFallback s space 65536 0 0 a pa) else plain
      | _ => plain)

/-- A store-like access number ord of the instruction in hand to the local window, or one that retires toward its home
(R113, R114, R115). -/
def storeAccess (s : State) (ord : Nat) (ea : Word) (al len : Nat) (act : FAct) (access : Access) : Except Stop State := do
  gate s 0
  match s.answer ord ea with
  | none => .ok s
  | some ea =>
    if ea.toNat % al ≠ 0 then .error (.trap .misaligned)
    else if 2 ^ 57 ≤ ea.toNat then .error (.post ⟨.notMapped, access, ea, ord, 0, []⟩)
    else if ea.toNat < Config.sramBytes then
      if s.ownBusy then .error (.wait s)
      else
        let pa := sramPa s.cur.1 ea.toNat
        let t := noteCode s s.cur.1 s.cur.2 pa len
        match performAct t pa act with
        | .ok t => .ok (t.traceMe 3 access.num ea)
        | .error c => .ok ((s.traceMe 3 access.num ea).report s.cur.1 s.cur.2 s.me.space c access s.me.pc ea 0)
    else do
      let t ← retireRemote s ea len act access none none true
      .ok (t.traceMe 3 access.num ea)

end Sys2Proof.Machine
end

