-- ==== Sys2Proof/Machine/Flags.lean ====
section
/-! DEFINITION. The floating-point flags (R27, R47) and the rounding that raises them (R40, R41, R43, R44, R55). -/

namespace Sys2Proof.Machine

/-- Invalid operation (R27). -/
def NV : BitVec 5 := 1
/-- Division by zero. -/
def DZ : BitVec 5 := 2
/-- Overflow. -/
def OF : BitVec 5 := 4
/-- Underflow. -/
def UF : BitVec 5 := 8
/-- Inexact. -/
def NX : BitVec 5 := 16

/-- The strand with flags raised (R47). -/
def Strand.raise (x : Strand) (f : BitVec 5) : Strand := { x with fpstat := x.fpstat ||| f }

/-- A floating-point format (R40): widths of the exponent and fraction fields, bias; e4m3 has no infinities (R41). -/
structure FFmt where
  eb : Nat
  fb : Nat
  bias : Nat
  noInf : Bool
deriving DecidableEq, Repr

/-- FP32 (R40). -/
def fp32 : FFmt := ⟨8, 23, 127, false⟩
/-- FP16. -/
def fp16 : FFmt := ⟨5, 10, 15, false⟩
/-- BF16. -/
def bf16 : FFmt := ⟨8, 7, 127, false⟩
/-- E4M3. -/
def e4m3 : FFmt := ⟨4, 3, 7, true⟩
/-- E5M2. -/
def e5m2 : FFmt := ⟨5, 2, 15, false⟩

/-- Width in bits. -/
def FFmt.width (f : FFmt) : Nat := 1 + f.eb + f.fb
/-- Width in bytes. -/
def FFmt.bytes (f : FFmt) : Nat := f.width / 8
/-- The canonical NaN (R41). -/
def FFmt.nan (f : FFmt) : Nat := if f.noInf then 2 ^ (f.eb + f.fb) - 1 else (2 ^ f.eb - 1) * 2 ^ f.fb + 2 ^ (f.fb - 1)
/-- The sign bit in place. -/
def FFmt.signed (f : FFmt) (neg : Bool) (x : Nat) : Nat := if neg then 2 ^ (f.eb + f.fb) + x else x
/-- Infinity, magnitude bits. -/
def FFmt.infBits (f : FFmt) : Nat := (2 ^ f.eb - 1) * 2 ^ f.fb
/-- The largest finite value, magnitude bits (R40). -/
def FFmt.maxBits (f : FFmt) : Nat := if f.noInf then 2 ^ (f.eb + f.fb) - 2 else f.infBits - 1

/-- A floating-point datum: a NaN, an infinity, or (−1)^neg × m × 2^e. -/
inductive FVal where
  | nan (signals : Bool)
  | inf (neg : Bool)
  | fin (neg : Bool) (m : Nat) (e : Int)
deriving DecidableEq, Repr

/-- The datum that bits hold (R40, R41). -/
def FFmt.decode (f : FFmt) (x : Nat) : FVal :=
  let neg := x.testBit (f.eb + f.fb)
  let ex := x / 2 ^ f.fb % 2 ^ f.eb
  let fr := x % 2 ^ f.fb
  if f.noInf ∧ ex = 2 ^ f.eb - 1 ∧ fr = 2 ^ f.fb - 1 then .nan false
  else if !f.noInf ∧ ex = 2 ^ f.eb - 1 then (if fr = 0 then .inf neg else .nan (!fr.testBit (f.fb - 1)))
  else if ex = 0 then .fin neg fr (1 - (f.bias : Int) - f.fb)
  else .fin neg (2 ^ f.fb + fr) ((ex : Int) - f.bias - f.fb)

/-- m / 2^k rounded to an integer in a mode, for a value of the given sign (R43); and whether it changed. -/
def roundShift (m : Nat) (k : Int) (rm : BitVec 2) (neg : Bool) : Nat × Bool :=
  if k ≤ 0 then (m * 2 ^ (-k).toNat, false)
  else
    let p := 2 ^ k.toNat
    let q := m / p
    let r := m % p
    let up := if rm = 0 then decide (p < 2 * r) || (decide (2 * r = p) && q % 2 = 1)
      else if rm = 1 then false
      else if rm = 2 then !neg && decide (0 < r)
      else neg && decide (0 < r)
    (if up then q + 1 else q, decide (r ≠ 0))

/-- What an overflow delivers (R44, R55): magnitude bits by mode, sign and saturation. -/
def FFmt.overflow (f : FFmt) (rm : BitVec 2) (neg sat : Bool) : Nat :=
  let toInf := rm = 0 || (rm = 2 && !neg) || (rm = 3 && neg)
  if sat || !toInf then f.signed neg f.maxBits
  else if f.noInf then f.nan
  else f.signed neg f.infBits

/-- An exact value (−1)^neg × m × 2^e rounded to a format (R44, R55): bits and flags. m = 0 is a zero of that sign. -/
def FFmt.round (f : FFmt) (rm : BitVec 2) (sat neg : Bool) (m : Nat) (e : Int) : Nat × BitVec 5 :=
  if m = 0 then (f.signed neg 0, 0)
  else
    let len := m.log2 + 1
    let emin : Int := 1 - f.bias
    -- to the precision of the format, with an unbounded exponent
    let k := (len : Int) - (f.fb + 1)
    let (q, nx) := roundShift m k rm neg
    let (q, e1) := if q = 2 ^ (f.fb + 1) then (2 ^ f.fb, e + k + 1) else (q, e + k)
    let top := e1 + f.fb
    let field := (top + f.bias).toNat
    if top < emin then
      -- tiny: the exact value at the quantum of the subnormals
      let (q, nx) := roundShift m (emin - f.fb - e) rm neg
      (f.signed neg q, if nx then UF ||| NX else 0)
    else if f.maxBits < field * 2 ^ f.fb + (q - 2 ^ f.fb) then (f.overflow rm neg sat, OF ||| NX)
    else (f.signed neg (field * 2 ^ f.fb + (q - 2 ^ f.fb)), if nx then NX else 0)

end Sys2Proof.Machine
end

