-- ==== Sys2Proof/Machine/Float.lean ====
section
/-! DEFINITION. Floating-point arithmetic on one element (R42, R45, R46), conversions (R54 to R57) and the codes of the
four-bit blocks (R49 to R53, R150). Bits in, bits and flags out. -/

namespace Sys2Proof.Machine

/-- A NaN among the operands signals (R42). -/
def sigNV : List FVal → BitVec 5
  | [] => 0
  | .nan true :: t => NV ||| sigNV t
  | _ :: t => sigNV t

/-- The datum with its sign turned. -/
def FVal.negate : FVal → FVal
  | .nan b => .nan b
  | .inf b => .inf (!b)
  | .fin b m e => .fin (!b) m e

/-- The exact sum of two finite data, rounded (R45): equal-signed zeros keep their sign, any other zero sum is +0, or −0 toward
−∞. -/
def addFin (f : FFmt) (rm : BitVec 2) (n1 : Bool) (m1 : Nat) (e1 : Int) (n2 : Bool) (m2 : Nat) (e2 : Int) : Nat × BitVec 5 :=
  let e := min e1 e2
  let a : Int := (if n1 then -1 else 1) * (m1 * 2 ^ (e1 - e).toNat : Nat)
  let b : Int := (if n2 then -1 else 1) * (m2 * 2 ^ (e2 - e).toNat : Nat)
  let t := a + b
  if t = 0 then (f.signed (if m1 = 0 ∧ m2 = 0 ∧ n1 = n2 then n1 else rm = 3) 0, 0)
  else f.round rm false (decide (t < 0)) t.natAbs e

/-- x + y (R45, R46). -/
def fAdd (f : FFmt) (rm : BitVec 2) (x y : FVal) : Nat × BitVec 5 :=
  match x, y with
  | .fin n1 m1 e1, .fin n2 m2 e2 => addFin f rm n1 m1 e1 n2 m2 e2
  | .inf a, .inf b => if a = b then (f.signed a f.infBits, 0) else (f.nan, NV)
  | .inf a, .fin _ _ _ => (f.signed a f.infBits, 0)
  | .fin _ _ _, .inf b => (f.signed b f.infBits, 0)
  | _, _ => (f.nan, sigNV [x, y])

/-- The exact product; none for 0 × ∞ (R46). -/
def fProd (x y : FVal) : Option FVal :=
  match x, y with
  | .fin n1 m1 e1, .fin n2 m2 e2 => some (.fin (n1 != n2) (m1 * m2) (e1 + e2))
  | .inf a, .inf b => some (.inf (a != b))
  | .inf a, .fin n m _ => if m = 0 then none else some (.inf (a != n))
  | .fin n m _, .inf b => if m = 0 then none else some (.inf (n != b))
  | _, _ => some (.nan false)

/-- A datum rounded to a format. -/
def fRound (f : FFmt) (rm : BitVec 2) (sat : Bool) : FVal → Nat × BitVec 5
  | .nan s => (f.nan, if s then NV else 0)
  | .inf a => (f.signed a f.infBits, 0)
  | .fin n m e => f.round rm sat n m e

/-- x × y (R45, R46). -/
def fMul (f : FFmt) (rm : BitVec 2) (x y : FVal) : Nat × BitVec 5 :=
  match fProd x y with
  | none => (f.nan, NV)
  | some (.nan _) => (f.nan, sigNV [x, y])
  | some p => fRound f rm false p

/-- x × y + z with one rounding (R45, R46). -/
def fFma (f : FFmt) (rm : BitVec 2) (x y z : FVal) : Nat × BitVec 5 :=
  match fProd x y with
  | none => (f.nan, NV)
  | some (.nan _) => (f.nan, sigNV [x, y, z])
  | some p =>
    match z with
    | .nan s => (f.nan, if s then NV else 0)
    | z => fAdd f rm p z

/-- A quotient of naturals to 64 more bits, with a sticky bit. -/
def stickyDiv (a b : Nat) : Nat := 2 * (a * 2 ^ 64 / b) + if a * 2 ^ 64 % b = 0 then 0 else 1

/-- x ÷ y (R45, R46). -/
def fDiv (f : FFmt) (rm : BitVec 2) (x y : FVal) : Nat × BitVec 5 :=
  match x, y with
  | .fin n1 m1 e1, .fin n2 m2 e2 =>
    if m2 = 0 then (if m1 = 0 then (f.nan, NV) else (f.signed (n1 != n2) f.infBits, DZ))
    else if m1 = 0 then (f.signed (n1 != n2) 0, 0)
    else f.round rm false (n1 != n2) (stickyDiv m1 m2) (e1 - e2 - 65)
  | .inf _, .inf _ => (f.nan, NV)
  | .inf a, .fin n _ _ => (f.signed (a != n) f.infBits, 0)
  | .fin n _ _, .inf b => (f.signed (n != b) 0, 0)
  | _, _ => (f.nan, sigNV [x, y])

/-- The integer square root below 2^i, bit by bit. -/
def isqrt (n : Nat) : Nat → Nat → Nat
  | 0, r => r
  | i + 1, r => isqrt n i (if (r + 2 ^ i) * (r + 2 ^ i) ≤ n then r + 2 ^ i else r)

/-- √x (R45, R46). -/
def fSqrt (f : FFmt) (rm : BitVec 2) (x : FVal) : Nat × BitVec 5 :=
  match x with
  | .nan s => (f.nan, if s then NV else 0)
  | .inf a => if a then (f.nan, NV) else (f.infBits, 0)
  | .fin n m e =>
    if m = 0 then (f.signed n 0, 0)
    else if n then (f.nan, NV)
    else
      let (m, e) := if e % 2 = 0 then (m, e) else (2 * m, e - 1)
      let t := m * 2 ^ 80
      let r := isqrt t 56 0
      f.round rm false false (2 * r + if r * r = t then 0 else 1) (e / 2 - 41)

/-- 1 ÷ x (R46). -/
def fRcp (f : FFmt) (rm : BitVec 2) (x : FVal) : Nat × BitVec 5 := fDiv f rm (.fin false 1 0) x

/-- 1 ÷ √x (R46). -/
def fRsqrt (f : FFmt) (rm : BitVec 2) (x : FVal) : Nat × BitVec 5 :=
  match x with
  | .nan s => (f.nan, if s then NV else 0)
  | .inf a => if a then (f.nan, NV) else (0, 0)
  | .fin n m e =>
    if m = 0 then (f.signed n f.infBits, DZ)
    else if n then (f.nan, NV)
    else
      let (m, e) := if e % 2 = 0 then (m, e) else (2 * m, e - 1)
      let t := 2 ^ 108 / m
      let r := isqrt t 56 0
      f.round rm false false (2 * r + if r * r * m = 2 ^ 108 then 0 else 1) (-(e / 2) - 55)

/-- x < y on data that are not NaN; −0 equals +0 (R46). -/
def fLt (x y : FVal) : Bool :=
  match x, y with
  | .fin n1 m1 e1, .fin n2 m2 e2 =>
    let e := min e1 e2
    decide ((if n1 then -1 else 1 : Int) * (m1 * 2 ^ (e1 - e).toNat : Nat) < (if n2 then -1 else 1 : Int) * (m2 * 2 ^ (e2 - e).toNat : Nat))
  | .inf a, .inf b => a && !b
  | .inf a, .fin _ _ _ => a
  | .fin _ _ _, .inf b => !b
  | _, _ => false

/-- The sign of a datum. -/
def FVal.neg : FVal → Bool
  | .nan _ => false
  | .inf a => a
  | .fin n _ _ => n

/-- A datum is a NaN. -/
def FVal.isNan : FVal → Bool
  | .nan _ => true
  | _ => false

/-- vfmin and vfmax (R46) on bits: max turns the choice. -/
def fMinMax (f : FFmt) (mx : Bool) (a b : Nat) : Nat × BitVec 5 :=
  let x := f.decode a
  let y := f.decode b
  let nv := sigNV [x, y]
  if x.isNan && y.isNan then (f.nan, nv)
  else if x.isNan then (b, nv)
  else if y.isNan then (a, nv)
  else
    let lt := fLt x y || (!fLt y x && x.neg && !y.neg)
    (if lt != mx then a else b, 0)

/-- Conditions of vfcmp (R143), in the order of FN. -/
inductive FCmp where
  | eq | lt | le | un
deriving DecidableEq, Repr

/-- A compare's truth and flags (R46). -/
def fCompare (f : FFmt) (c : FCmp) (a b : Nat) : Bool × BitVec 5 :=
  let x := f.decode a
  let y := f.decode b
  let nan := x.isNan || y.isNan
  match c with
  | .eq => (!nan && !fLt x y && !fLt y x, sigNV [x, y])
  | .lt => (!nan && fLt x y, if nan then NV else 0)
  | .le => (!nan && !fLt y x, if nan then NV else 0)
  | .un => (nan, sigNV [x, y])

/-! Conversions (R54 to R57). -/

/-- Floating-point format of a conversion code (R80). -/
def cvtFmt (c : BitVec 3) : FFmt := if c = 0 then fp32 else if c = 1 then fp16 else if c = 2 then bf16 else if c = 3 then e4m3 else e5m2

/-- To a floating-point format (R54, R55). -/
def toFp (f : FFmt) (rm : BitVec 2) (sat : Bool) (x : FVal) : Nat × BitVec 5 :=
  let small := f.noInf || f.fb = 2
  match x with
  | .nan s => (f.nan, if s then NV else 0)
  | .inf n =>
    if small && sat then (f.signed n f.maxBits, 0)
    else if f.noInf then (f.nan, NV)
    else (f.signed n f.infBits, 0)
  | .fin n m e => f.round rm (small && sat) n m e

/-- To an integer of n bits (R56). -/
def toInt (n : Nat) (signed : Bool) (rm : BitVec 2) (x : FVal) : Nat × BitVec 5 :=
  let lo : Int := if signed then -(2 ^ (n - 1) : Nat) else 0
  let hi : Int := if signed then (2 ^ (n - 1) : Nat) - 1 else (2 ^ n : Nat) - 1
  let wrap (v : Int) : Nat := (v % (2 ^ n : Nat)).toNat
  match x with
  | .nan _ => (0, NV)
  | .inf a => (wrap (if a then lo else hi), NV)
  | .fin a m e =>
    let (q, nx) := roundShift m (-e) rm a
    let v : Int := if a then -(q : Int) else q
    if v < lo then (wrap lo, NV) else if hi < v then (wrap hi, NV) else (wrap v, if nx then NX else 0)

/-- An integer clamped to n bits (R38). -/
def clamp (n : Nat) (signed : Bool) (v : Int) : Nat :=
  let lo : Int := if signed then -(2 ^ (n - 1) : Nat) else 0
  let hi : Int := if signed then (2 ^ (n - 1) : Nat) - 1 else (2 ^ n : Nat) - 1
  ((max lo (min hi v)) % (2 ^ n : Nat)).toNat

/-- The integer that n bits hold with a signedness. -/
def intVal (n : Nat) (signed : Bool) (x : Nat) : Int := if signed then toS x n else (x % 2 ^ n : Nat)

/-- A conversion of one element (R54 to R57): codes of the two sides and widths in bytes. A widening of an integer extends, and
saturation changes nothing there (R57). -/
def convert (sc dc : BitVec 3) (ws wd : Nat) (rm : BitVec 2) (sat : Bool) (x : Nat) : Nat × BitVec 5 :=
  let si := isInt sc
  let di := isInt dc
  if si then
    let v := intVal (8 * ws) (sc = 5) x
    if di then ((if sat && decide (wd ≤ ws) then clamp (8 * wd) (dc = 5) v else (v % (2 ^ (8 * wd) : Nat)).toNat), 0)
    else (cvtFmt dc).round rm (sat && ((cvtFmt dc).noInf || (cvtFmt dc).fb = 2)) (decide (v < 0)) v.natAbs 0
  else if di then toInt (8 * wd) (dc = 5) rm ((cvtFmt sc).decode x)
  else toFp (cvtFmt dc) rm sat ((cvtFmt sc).decode x)

/-! Four-bit blocks (R49 to R53, R150). -/

/-- Codes of a block by geometry (R49). -/
def geomCodes (g : Nat) : Nat := if g = 0 then 16 else if g = 1 then 32 else 64
/-- Bytes of a block by geometry (R49). -/
def geomBytes (g : Nat) : Nat := 4 + geomCodes g / 2

/-- Eight times the magnitude of codes 0 to 7 of a type (R51). -/
def codeMag8 (ty : Nat) : List Nat :=
  match ty with
  | 0 => [0, 8, 16, 24, 32, 40, 48, 56]
  | 1 => [0, 4, 8, 12, 16, 24, 32, 48]
  | 2 => [0, 1, 2, 4, 8, 16, 32, 64]
  | _ => [0, 8, 16, 24, 32, 48, 64, 96]

/-- A code's value: sign and eight times its magnitude (R51). -/
def codeVal (ty c : Nat) : Bool × Nat :=
  if c < 8 then (false, (codeMag8 ty).getD c 0)
  else if ty = 0 then (true, 8 * (16 - c))
  else if ty = 2 ∧ c = 8 then (false, 0)
  else (true, (codeMag8 ty).getD (c - 8) 0)

/-- A scale word is invalid (R53). -/
def scaleBad (w : Nat) : Bool := bits w 29 22 = 0 || bits w 29 22 = 255
/-- The scale of a valid word: m × 2^e (R50). -/
def scaleVal (w : Nat) : Nat × Int := (2 ^ 22 + bits w 21 0, (bits w 29 22 : Int) - 127 - 22)

/-- The code at place k of a block's bytes (R49). -/
def blockCode (l : List Byte) (k : Nat) : Nat := (l.getD (4 + k / 2) 0).toNat / 16 ^ (k % 2) % 16

/-- A decoded lane of a block: BF16 bits (R52, R53). -/
def decode4 (l : List Byte) (k : Nat) : Nat :=
  let w := leNat (l.take 4)
  if scaleBad w then 0x7FC0
  else
    let c := codeVal (bits w 31 30) (blockCode l k)
    (bf16.round 0 false c.1 (c.2 * (scaleVal w).1) ((scaleVal w).2 - 3)).1

/-- The least valid scale word (without TYPE) whose scale is at least m × 2^e / (c), c in eighths; the largest if none is
(R50, R150). Infinite: the largest. -/
def scaleFor (m : Nat) (e : Int) (c8 : Nat) : Nat :=
  -- the quotient 8m × 2^e / c8, rounded up to 23 significant bits
  let n := 8 * m * 2 ^ 64
  let q := n / c8
  let st := decide (n % c8 ≠ 0)
  let len := q.log2 + 1
  let k := len - 23
  let r := q / 2 ^ k + if q % 2 ^ k ≠ 0 ∨ st then 1 else 0
  let (r, k) := if r = 2 ^ 23 then (2 ^ 22, k + 1) else (r, k)
  let ex : Int := e - 64 + k + 22 + 127
  if ex ≤ 0 then 2 ^ 22 else if 254 < ex then 254 * 2 ^ 22 + (2 ^ 22 - 1) else ex.toNat * 2 ^ 22 + (r - 2 ^ 22)

/-- A code's value in eighths (R51). -/
def codeInt (ty c : Nat) : Int := let v := codeVal ty c; if v.1 then -(v.2 : Int) else v.2

/-- The code for a quotient q = num / den (eighths), den positive, in a mode (R150): the nearest value, ties to an even code, or
the directed neighbour; beyond the ends, the end. -/
def encodeCode (ty : Nat) (rm : BitVec 2) (num : Int) (den : Nat) : Nat × Bool :=
  let codes := if ty = 0 then [8, 9, 10, 11, 12, 13, 14, 15, 0, 1, 2, 3, 4, 5, 6, 7]
    else [15, 14, 13, 12, 11, 10, 9, 0, 1, 2, 3, 4, 5, 6, 7]
  let below := codes.filter fun c => decide (codeInt ty c * den ≤ num)
  let above := codes.filter fun c => decide (num ≤ codeInt ty c * den)
  let c := match below.getLast?, above.head? with
    | none, some a => a
    | some b, none => b
    | some b, some a =>
      if codeInt ty b = codeInt ty a then b
      else
        let db := num - codeInt ty b * den
        let da := codeInt ty a * den - num
        if rm = 0 then (if db < da then b else if da < db then a else if b % 2 = 0 then b else a)
        else if rm = 1 then (if num < 0 then a else b)
        else if rm = 2 then a
        else b
    | none, none => 0
  (c, decide (codeInt ty c * den ≠ num))

/-- One lane of venc4 (R150): its code and flags, for a valid scale word. -/
def encodeLane (ty : Nat) (rm : BitVec 2) (scale : Nat) (x : FVal) : Nat × BitVec 5 :=
  match x with
  | .nan _ => (0, NV)
  | .inf n => (if n then (if ty = 0 then 8 else 15) else 7, NX)
  | .fin n m e =>
    let s := scaleVal scale
    -- q in eighths is 8 m 2^e / (s.1 2^s.2)
    let d := e - s.2
    let num : Nat := 8 * m * 2 ^ d.toNat
    let den : Nat := s.1 * 2 ^ (-d).toNat
    let (c, nx) := encodeCode ty rm (if n then -(num : Int) else num) den
    let c := if n ∧ codeInt ty c = 0 then (if ty = 1 ∨ ty = 3 then 8 else 0) else c
    (c, if nx then NX else 0)

end Sys2Proof.Machine
end

