-- ==== Sys2Proof/Machine/Operands.lean ====
section
/-! DEFINITION. Operand forms (R65 to R69, R76, R131, R132): literals and immediates with their hint.imm, scalar and vector
sources, elements of vector and predicate registers. -/

namespace Sys2Proof.Machine

/-- An immediate field of n bits extended by the group's hint.imm, the first giving the most significant bits; sign-extended
and wrapped to 64 bits (R65, R76). -/
def extendImm (imms : List (BitVec 24)) (n x : Nat) : Word :=
  match imms with
  | [] => BitVec.ofInt 64 (toS x n)
  | [a] => BitVec.ofInt 64 (toS (a.toNat * 2 ^ n + x % 2 ^ n) (n + 24))
  | a :: b :: _ => BitVec.ofInt 64 (toS ((a.toNat * 2 ^ 24 + b.toNat) * 2 ^ n + x % 2 ^ n) (n + 48))

/-- A scalar source (R67): register, constant or literal; ext says that hint.imm extends this literal. -/
def State.scalar (s : State) (q : Src) (ext : Bool) : Word :=
  if q.k = 1 then s.me.sreg (q.n.extractLsb' 0 4)
  else if q.k = 2 then s.here.creg q.n
  else extendImm (if ext then s.me.hints.imms else []) 5 q.n.toNat

/-- The first source of Format R: a hint.imm extends it if the second is no literal (R76). -/
def State.srcA (s : State) (a b : Src) : Word := s.scalar a (b.k ≠ 3)
/-- The second source of Format R. -/
def State.srcB (s : State) (b : Src) : Word := s.scalar b true
/-- The only source of a unary instruction. -/
def State.src1 (s : State) (a : Src) : Word := s.scalar a true

/-- An immediate of Format I or an offset of Format M, of n bits (R76). -/
def State.imm (s : State) (n x : Nat) : Word := extendImm s.me.hints.imms n x

/-! Elements (R17). -/

/-- Element j of width w bytes. -/
def elem (v : VReg) (w j : Nat) : Nat := v.toNat / 2 ^ (8 * w * j) % 2 ^ (8 * w)
/-- Elements per register. -/
def elems (w : Nat) : Nat := 64 / w
/-- The number whose digits to the base b are f 0, f 1, … up to n of them. -/
def digits (b : Nat) (f : Nat → Nat) : Nat → Nat → Nat
  | 0, _ => 0
  | n + 1, j => f j + b * digits b f n (j + 1)
/-- The register whose elements of width w are f 0, f 1, … -/
def buildV (w : Nat) (f : Nat → Nat) : VReg :=
  BitVec.ofNat 512 (digits (2 ^ (8 * w)) (fun j => f j % 2 ^ (8 * w)) (elems w) 0)
/-- Element j of width w is active under a predicate (R17). -/
def active (p : PReg) (w j : Nat) : Bool := p.getLsbD (w * j)
/-- The byte-lane mask of the active elements of width w. -/
def activeLanes (p : PReg) (w : Nat) : PReg :=
  BitVec.ofNat 64 (digits (2 ^ w) (fun j => if active p w j then 2 ^ w - 1 else 0) (elems w) 0)
/-- Whether a lane of a 64-lane result is active: lane 32 + j goes with lane j (R132). -/
def activeLane (p : PReg) (k : Nat) : Bool := active p 2 (k % 32)
/-- Byte j of a register. -/
def byteOf (v : VReg) (j : Nat) : Byte := v.extractLsb' (8 * j) 8
/-- The register with the bytes of l, and zero beyond. -/
def ofBytes (l : List Byte) : VReg := BitVec.ofNat 512 (leNat (l.take 64))
/-- The 64 bytes of a register. -/
def toBytes (v : VReg) : List Byte := leBytes 64 v.toNat

/-- Width in bytes of a two-bit width field (R80). -/
def widthOf (w : BitVec 2) : Nat := 2 ^ w.toNat
/-- Floating-point format of a two-bit format code (R145). -/
def fmtOf (f : BitVec 2) : FFmt := if f = 0 then fp32 else if f = 1 then fp16 else bf16

/-- An integer that every arithmetic format holds exactly, as that format's bits (R69). -/
def intBits (f : FFmt) (v : Int) : Nat := (f.round 0 false (decide (v < 0)) v.natAbs 0).1

/-- A vector source of integer elements of width w (R67, R69). -/
def State.vsrc (s : State) (q : Src) (ext : Bool) (w : Nat) : VReg :=
  if q.k = 0 then s.me.vreg q.n else let v := (s.scalar q ext).toNat; buildV w fun _ => v

/-- A vector source of floating-point elements (R67, R69): a literal that no hint extends stands for its integer value. -/
def State.fsrc (s : State) (q : Src) (ext : Bool) (f : FFmt) : VReg :=
  if q.k = 0 then s.me.vreg q.n
  else if q.k = 3 ∧ ¬(ext ∧ s.me.hints.imms ≠ []) then
    let v := intBits f (toS q.n.toNat 5)
    buildV f.bytes fun _ => v
  else let v := (s.scalar q ext).toNat; buildV f.bytes fun _ => v

/-- The low w bytes of element 0, or of the broadcast value, of a source (R151, R152). -/
def State.vnum (s : State) (q : Src) (ext : Bool) (w : Nat) : Nat := elem (s.vsrc q ext w) w 0

/-! Results under predication (R132). -/

/-- Vector register d written at its active elements of width w; the others keep their value or become zero. -/
def State.putV (s : State) (d : BitVec 5) (w : Nat) (v : VReg) : State :=
  s.modMe fun x => x.setV d (mergeLanes (x.vreg d) v (activeLanes x.pred w) x.zeroing)

/-- Predicate register d from a truth per element of width w: inactive elements are cleared (R132, R143). -/
def State.putP (s : State) (d : BitVec 3) (w : Nat) (f : Nat → Bool) : State :=
  let p := s.me.pred
  let v : PReg := BitVec.ofNat 64 (digits (2 ^ w) (fun j => if active p w j && f j then 2 ^ w - 1 else 0) (elems w) 0)
  (s.setP d v).traceMe 2 0 v

/-- Flags of the active elements, their OR (R47). -/
def orFlags (p : PReg) (w : Nat) (f : Nat → BitVec 5) : BitVec 5 :=
  (List.range (elems w)).foldl (fun a j => if active p w j then a ||| f j else a) 0

/-- The state with flags raised on the moving strand. -/
def State.raise (s : State) (f : BitVec 5) : State := s.modMe fun x => x.raise f

end Sys2Proof.Machine
end

