-- ==== Sys2Proof/Machine/Context.lean ====
section
/-! DEFINITION. Contexts: the save area (R33), leaving a strand and resuming (R14, R16, R118, R235), and the end of a task (R93,
R180, R281). -/

namespace Sys2Proof.Machine

/-! Launches and courses. -/

/-- The launch with a number. -/
def State.launch? (s : State) (l : Nat) : Option Launch := s.launches.find? fun x => x.id = l
/-- The state with a launch changed. -/
def State.modLaunch (s : State) (l : Nat) (f : Launch → Launch) : State :=
  { s with launches := s.launches.map fun x => if x.id = l then f x else x }

/-- Brick (row, col) of a course, as BRICKID (R230, R258). -/
def courseBrick (org row col : Nat) : Nat :=
  let die := bits org 14 12
  let gr := 56 * (die / 4) + bits org 11 6 + row
  let gc := 56 * (die % 4) + bits org 5 0 + col
  (4 * (gr / 56) + gc / 56) * 4096 + gr % 56 * 64 + gc % 56

/-- The bricks of a course in ascending course index (R230). -/
def courseBricks (org rows cols : Nat) : List Nat :=
  (List.range (rows * cols)).map fun i => courseBrick org (i / cols) (i % cols)

/-- The bricks of a launch's course. -/
def Launch.bricks (l : Launch) : List Nat := courseBricks l.org l.cmd.rows l.cmd.cols

/-- The course index of a brick in a launch (R230). -/
def Launch.index (l : Launch) (b : Nat) : Nat := (l.bricks.findIdx? (· = b)).getD 0

/-- Base of a context block (R232). -/
def Launch.blockBase (l : Launch) (blk : Nat) : Nat := l.cmd.pool.toNat + blk * 2 ^ l.cmd.ctxlog2

/-- A block that no live context holds (R232). -/
def Launch.blockFree (l : Launch) (blk : Nat) : Bool := decide (blk < l.cmd.ctxcount) && !l.blocks.contains blk

/-- The default BUFBASE field of strand k (R231). -/
def Launch.bufbase (l : Launch) (k : Nat) : BitVec 8 :=
  BitVec.ofNat 8 ((if l.cmd.descbase = 0 then 0xB8 else l.cmd.descbase.toNat) + k)

/-! The save area (R33). -/

/-- The flags double: RM, FPSTAT and the pending late fault (R33). -/
def savedFlags (x : Strand) : Nat :=
  x.rm.toNat + x.fpstat.toNat * 4 + (match x.firstLate with
    | some l => 2 ^ 16 + l.code.num * 2 ^ 32
    | none => 0)

/-- The first 144 bytes of the save area: the migration frame (R33). -/
def frameBytes (pc : Word) (flags : Nat) (regs : Vector Word 16) : List Byte :=
  leBytes 8 pc.toNat ++ leBytes 8 flags ++ regs.toList.flatMap fun r => leBytes 8 r.toNat

/-- Save-area bytes 0x0000 to 0x016F (R33). -/
def saveCore (x : Strand) : List Byte :=
  frameBytes x.pc (savedFlags x) x.s ++ leBytes 8 (x.bufbase.toNat * 512) ++ leBytes 8 x.bindtab.toNat ++
  (x.binds.toList.flatMap fun e => leBytes 8 e.sync.toNat ++ leBytes 8 e.base.toNat ++ leBytes 8 e.len.toNat) ++
  leBytes 8 ((x.firstLate.map fun l => l.seq.toNat).getD 0) ++ leBytes 8 x.ctxid.toNat

/-- Save-area bytes 0x0200 to 0x0A3F: v0 to v31 and p0 to p7, with all ones for p0 (R33). -/
def saveVectors (x : Strand) : List Byte :=
  x.v.toList.flatMap toBytes ++ (List.range 8).flatMap fun i => leBytes 8 (x.preg (BitVec.ofNat 3 i)).toNat

/-- The accumulator's image (R20). -/
def accBytes (a : Acc) : List Byte := leBytes 4096 a.toNat

/-- A list cut into lines of 64 bytes. -/
def toLines : Nat → List Byte → List (List Byte)
  | 0, _ => []
  | n + 1, l => if l.isEmpty then [] else l.take 64 :: toLines n (l.drop 64)

/-- Address of the save area. -/
def Strand.saveBase (x : Strand) : Nat := x.savearea.toNat * 4096

/-- The lines that a save writes: place in the save area and bytes; acc: the accumulator, which goes first (R241); full: v and p too, and
zeros in the reserved bytes 0x0170 to 0x01FF and 0x0A40 to 0x0FFF (R33, R118, log 99). -/
def saveLines (x : Strand) (full : Bool) (acc : Option Acc) : List (Nat × List Byte) :=
  let f (off : Nat) (l : List Byte) := (toLines 64 l).zipIdx.map fun q => (off + 64 * q.2, q.1)
  (match acc with
    | some a => f 0x1000 (accBytes a)
    | none => []) ++
  (if full then f 0 (saveCore x ++ List.replicate 0x90 0) ++ f 0x200 (saveVectors x ++ List.replicate 0x5C0 0) else f 0 (saveCore x))

/-- Number of the store or load of a save area at an offset among the accesses that a reply may answer (R33). -/
def saveOrd (off : Nat) : Nat := 2000 + off

/-- The physical address of a VA, as brick b's interface or a walk maps it now. -/
def State.paAt (s : State) (b space va : Nat) : Option Nat :=
  if va < Config.sramBytes ∧ b < 32768 then some (sramPa b va) else (nodeAt s b space va).bind fun n => (n.paOf va).toOption

/-- The park buffer of 256 MiB has room for n more bytes (R323). -/
def State.parkRoom (s : State) (n : Nat) : Bool := decide ((s.park.map fun p => p.act.size).sum + n ≤ 2 ^ 28)

/-- Every line of a range has a home that takes an access now, or the park buffer takes its writes: else what accesses it waits (R318,
R323). -/
def State.homesReady (s : State) (b space va n : Nat) (wr : Bool) : Bool :=
  (linePieces (n / 64 + 2) va n).all fun q => match s.paAt b space q.1 with
    | none => true
    | some pa => s.homeReady pa || (wr && isHost pa && s.hostHeld space && s.parkRoom n)

/-- The save area of a strand's task has homes that take its save, or one whose region has timed out under it (R318): a save to a host that
is lost is parked (R323). -/
def Strand.saveReady (x : Strand) (s : State) (b : Nat) : Bool := x.lapse.isSome || s.homesReady b x.space x.saveBase 0x2040 true

/-- The save area of a strand's task has homes that are ready for its restore. -/
def Strand.restoreReady (x : Strand) (s : State) (b : Nat) : Bool := x.lapse.isSome || s.homesReady b x.space x.saveBase 0x2040 false

/-- One line of a save of strand k, at home; none while its home does not take it. SKIP drops it, RETRY and REDIRECT make it again (R33); a
line through a link that is down is dropped and reported (R316). -/
def saveLine (s : State) (b k : Nat) (x : Strand) (q : Nat × List Byte) : Option (Except Post State) :=
  match x.answers.find? (fun a => a.1 = saveOrd q.1 ∧ a.2 = .skip) with
  | some _ => some (.ok s)
  | none =>
    let ea := x.saveBase + q.1
    let post (c : Code) : Except Post State := .error { code := c, access := .store, addr := BitVec.ofNat 64 ea, ord := saveOrd q.1 }
    match s.check b x.space ea needStore with
    | .ok (p, s') =>
      if paClass p.pa = 4 ∧ p.pa < 2 ^ 52 then some (post .rights)
      else if x.lapse = some (p.pa / 2 ^ 21 * 2 ^ 21) then some (post .ownershipTimeout)
      else (homeAct (s'.modBrick b fun y => y.rrbDrop x.space ea q.2.length) b x.space ea p.pa (.write (q.2.map some))).map fun r =>
        match r with
        | .ok t => .ok t
        | .error .poison => .ok (s'.report b k x.space .poison .store x.pc (BitVec.ofNat 64 ea) 0)
        | .error c => post c
    | .error c => some (post c)

/-- The lines of a save, in turn (log 14): a fault leaves the lines before it written; none while a home does not take one. -/
def saveAll (s : State) (b k : Nat) (x : Strand) : List (Nat × List Byte) → Except (Option (Post × State)) State
  | [] => .ok s
  | q :: t => match saveLine s b k x q with
    | none => .error none
    | some (.ok s) => saveAll s b k x t
    | some (.error p) => .error (some (p, s))

/-- The strand whose save stopped at a store: the stores before it are not made again (R33). -/
def Strand.savedTo (x : Strand) (lines : List (Nat × List Byte)) (ord : Nat) : Strand :=
  { x with answers := x.answers ++ (lines.takeWhile fun q => saveOrd q.1 ≠ ord).map fun q => (saveOrd q.1, .skip) }

/-- Bytes of a save area as the restore reads them; SKIP reads as zero (R33). -/
def restoreLine (s : State) (b : Nat) (x : Strand) (off n : Nat) : Except Post (List Byte × State) :=
  match x.answers.find? (fun a => a.1 = saveOrd off ∧ a.2 = .skip) with
  | some _ => .ok (List.replicate n 0, s)
  | none =>
    let ea := x.saveBase + off
    match s.check b x.space ea needLoad with
    | .ok (p, s') =>
      if paClass p.pa = 4 ∧ p.pa < 2 ^ 52 then .error { code := .rights, access := .load, addr := BitVec.ofNat 64 ea, ord := saveOrd off }
      else if x.lapse = some (p.pa / 2 ^ 21 * 2 ^ 21) then
        .error { code := .ownershipTimeout, access := .load, addr := BitVec.ofNat 64 ea, ord := saveOrd off }
      else if s.readBad b x.space ea p.pa n then .error { code := .poison, access := .load, addr := BitVec.ofNat 64 ea, ord := saveOrd off }
      else .ok (s'.bytes p.pa n, s')
    | .error c => .error { code := c, access := .load, addr := BitVec.ofNat 64 ea, ord := saveOrd off }

/-- n lines of a save area from an offset on. -/
def restoreLines (s : State) (b : Nat) (x : Strand) : Nat → Nat → Except Post (List Byte × State)
  | 0, _ => .ok ([], s)
  | n + 1, off => do
    let (l, s) ← restoreLine s b x off 64
    let (r, s) ← restoreLines s b x n (off + 64)
    .ok (l ++ r, s)

/-- The code of a late fault with a number (R25, R163); a number that names none is taken as SCALE_INVALID (log 98). -/
def codeOf (n : Nat) : Code := ([Code.sealedIntegrity, .bufDescInvalid].find? fun c => c.num = n).getD .scaleInvalid

/-- The registers that bytes 0x0000 to 0x016F restore, CTXID among them (R33). -/
def restoreCore (x : Strand) (l : List Byte) : Strand :=
  let flags := numAt l 8 8
  let reg (i : Nat) : Word := doubleAt l (0x10 + 8 * i)
  { x with
    pc := BitVec.ofNat 64 (numAt l 0 8 / 4 * 4)
    rm := BitVec.ofNat 2 flags
    fpstat := BitVec.ofNat 5 (flags / 4)
    s := Vector.ofFn fun i => reg i
    bufbase := BitVec.ofNat 8 (numAt l 0x90 8 / 512)
    bindtab := BitVec.ofNat 8 (numAt l 0x98 8)
    binds := Vector.ofFn fun (i : Fin 8) => ⟨doubleAt l (0xA0 + 24 * i), doubleAt l (0xA8 + 24 * i), doubleAt l (0xB0 + 24 * i), 0⟩
    ctxid := BitVec.ofNat 32 (numAt l 0x168 8)
    lates := (if flags.testBit 16 then [⟨codeOf (bits flags 47 32), BitVec.ofNat 32 (numAt l 0x160 8)⟩] else []) ++ x.lates }

/-- v0 to v31 and p1 to p7 from the save area (R33). -/
def restoreVectors (x : Strand) (l : List Byte) : Strand :=
  { x with
    v := Vector.ofFn fun (i : Fin 32) => ofBytes (l.drop (64 * i))
    p := Vector.ofFn fun (i : Fin 8) => doubleAt l (2048 + 8 * i) }

/-- v0 to v31 and p1 to p7 undefined: zero when the strand last ran another space, else free (R8, R16, log 7). DESIGN CHOICE: one free
value per register, which every read returns until it is written, where R8 lets two reads differ (log 100). -/
def undefVectors (x : Strand) (free : Nat) : Strand :=
  if x.lastSpace = x.space then
    { x with
      v := Vector.ofFn fun (i : Fin 32) => Config.freeVec (64 * free + i)
      p := Vector.ofFn fun (i : Fin 8) => Config.freeWord (64 * free + i) }
  else { x with v := Vector.replicate 32 0, p := Vector.replicate 8 0 }

/-! Accumulator ownership (R21, R22, R242). -/

/-- ACCOWN as it names a context (R27). -/
def ownWord (space : Nat) (ctxid : BitVec 32) : Word := BitVec.ofNat 64 (2 ^ 63 + space * 2 ^ 32 + ctxid.toNat)
/-- The context whose key is that of R23's tag owns the accumulator. -/
def Brick.ownsAcc (x : Brick) (space : Nat) (ctxid : BitVec 32) : Bool := x.accown = ownWord space ctxid
/-- A fired command of a context has not completed. -/
def Brick.firedOf (x : Brick) (ctx : Nat) : Bool := x.matq.any fun m => m.ctx = ctx && m.fired

/-! Leaving a strand. -/

/-- A strand that a task of a space takes: no register value passes to it from a task of another space (R16; log 125); DEADLINE, TRAPVEC and
WATCHDOG.LOG2 are the launch's, which its installation sets (log 38). -/
def Strand.enter (x : Strand) (space : Nat) : Strand :=
  if x.lastSpace = space then x else { x with trappc := 0, trapcause := 0, fltseq := 0 }

/-- The strand without its task, free since a cycle (R103, R286). -/
def Strand.vacate (x : Strand) (cycle : Nat) : Strand :=
  { x with
    since := cycle
    task := none, block := none, ops := [], hints := Hints.none, answers := [], phase := 0, lates := [], wdCount := 0
    wdDue := false, saveDue := false, yieldPend := false, yieldLeft := 0, lastSpace := x.space, issued := 0, saveTok := none
    restore := none, kill := none, trapDue := none, lapse := none, fx := [], halted := none, stopReq := false, pause := none, steal := .idle, mode := .task }

/-- The context that leaves strand k (R23, R118): its windows are closed and its registers saved. -/
def Strand.toCtx (x : Strand) (k : Nat) (t : Task) (full : Bool) : Ctx where
  task := t
  ctxid := x.ctxid
  space := x.space
  savearea := BitVec.ofNat 64 x.saveBase
  strand := some k
  full := full
  block := x.block
  since := x.since
  answers := x.answers.filter fun a => decide (a.1 < 2000 ∨ 2 ^ 60 ≤ a.1)
  phase := x.phase
  ops := x.ops
  lates := x.lates.filter fun l => some l ≠ x.firstLate
  kill := none
  order := 0
  fx := x.fx
  trapDue := x.trapDue

/-- Strand k of brick b, its registers saved, lets its task go: to the ready queue, or away while it is blocked. -/
def letGo (s : State) (b : Nat) (k : Fin 5) (x : Strand) (c : Ctx) : State :=
  let c := { c with order := s.nextId }
  (s.bumpId.modStrand b k fun _ => x.vacate s.cycle).modBrick b fun y =>
    if c.block.isSome then { y with away := y.away ++ [c] } else { y with ready := y.ready ++ [{ c with since := s.cycle }] }

/-- Strand k of brick b saves its task and lets it go (R92, R118, R241); a store that faults stops it there, and one whose home does not
take it leaves the save for later. -/
def leaveStrand (s : State) (b : Nat) (k : Fin 5) (t : Task) (full : Bool) (acc : Option Acc) : Except (Option (Post × State)) State :=
  let x := { (s.strand b k) with pc := (s.strand b k).groupPc, hints := Hints.none }
  let l := saveLines x full acc
  match saveAll s b k x l with
  | .ok s => .ok (letGo s b k x (x.toCtx k t full))
  | .error none => .error none
  | .error (some (p, s)) => .error (some (p, s.modStrand b k fun y => y.savedTo l p.ord))

/-- A context takes strand k of brick b; its registers are still to be loaded (R33, R235). -/
def Ctx.place (c : Ctx) (x : Strand) : Strand :=
  { x.enter c.space with
    task := some c.task
    ctxid := c.ctxid
    space := c.space
    savearea := BitVec.ofNat 45 (c.savearea.toNat / 4096)
    block := c.block
    since := c.since
    answers := c.answers
    phase := c.phase
    ops := c.ops
    lates := c.lates
    fx := c.fx
    trapDue := c.trapDue
    wdCount := 0
    mode := .task
    restore := some c.full }

/-- The restore of strand k of brick b, from its save area; it blocks on a fault (R33). -/
def restoreStrand (s : State) (b : Nat) (k : Fin 5) : Except Post State := do
  let x := s.strand b k
  let (l, s) ← restoreLines s b x 6 0
  let y := restoreCore x l
  if x.restore = some true then do
    let (l, s) ← restoreLines s b x 33 0x200
    .ok ((s.modStrand b k fun _ => { restoreVectors y l with restore := none, lapse := none, answers := x.answers.filter fun a => decide (a.1 < 2000 ∨ 2 ^ 60 ≤ a.1) }))
  else .ok ((s.modStrand b k fun _ =>
    { undefVectors y s.free with restore := none, lapse := none, answers := x.answers.filter fun a => decide (a.1 < 2000 ∨ 2 ^ 60 ≤ a.1) }).bumpFree)

/-- A memory fault of a save or restore blocks strand k of brick b on its mailbox (R33). -/
def postSave (s : State) (b : Nat) (k : Fin 5) (p : Post) (nested : Bool) : State :=
  let x := s.strand b k
  let tok := s.nextId % 2 ^ 32
  let m : FaultMsg := ⟨x.space, p.code, b, k, p.access, false, x.pc, p.addr, 0, tok⟩
  let s := (s.trace b k 4 0 (BitVec.ofNat 64 p.code.num)).bumpId.modStrand b k fun x =>
    if nested then { x with lapse := none, saveTok := some (tok, p.ord, p.code) }
    else { x with lapse := none, block := some (.fault tok p.ord p.code), since := s.cycle, wdCount := 0, wdDue := false }
  s.sendFault m

/-! Finding an operation or a context wherever it is. -/

/-- A brick's operations with number id changed, on strands and in contexts. -/
def Brick.modOp (x : Brick) (id : Nat) (f : Op → Op) : Brick :=
  let g (o : Op) := if o.id = id then f o else o
  let h (c : Ctx) : Ctx := { c with ops := c.ops.map g }
  { x with strands := x.strands.map fun t => { t with ops := t.ops.map g }, ready := x.ready.map h, away := x.away.map h, kept := x.kept.map h }

/-- The operation with a number in a brick, and the strand that runs it. -/
def Brick.findOp (x : Brick) (id : Nat) : Option (Fin 5 × Op) :=
  ((List.finRange 5).flatMap fun k => (x.strand k).ops.map fun o => (k, o)).find? fun q => q.2.id = id

/-- The operation with a number among the contexts that are off their strands. -/
def Brick.findAwayOp (x : Brick) (id : Nat) : Option (Ctx × Op) :=
  ((x.ready ++ x.away ++ x.kept).flatMap fun c => c.ops.map fun o => (c, o)).find? fun q => q.2.id = id

/-- The operation with a number, wherever it is. -/
def Brick.anyOp (x : Brick) (id : Nat) : Option Op :=
  match x.findOp id with
  | some q => some q.2
  | none => (x.findAwayOp id).map (·.2)

/-- The ring entry of sequence number q completes and frees on every strand whose ring holds it for an operation
(R23). -/
def Brick.freeSeq (x : Brick) (ctx : Nat) (q : Option (BitVec 32)) : Brick :=
  match q with
  | none => x
  | some q => { x with strands := x.strands.map fun t =>
      { t with ring := t.ring.filter fun e => !(e.seq == q && e.tag = ctx && e.fault.isNone) } }

/-! The end of a task (R180). -/

/-- A number with bit i set or cleared. -/
def putBit (x i : Nat) (v : Bool) : Nat := if x.testBit i = v then x else if v then x + 2 ^ i else x - 2 ^ i
/-- CTRL of a chain record: hardware alone writes RUN, so that a chain runs while the brick tracks it (R196, R281). -/
def chainCtrl (s : State) (b rec_ : Nat) : Nat := putBit (s.num (sramPa b rec_) 8) 3 ((s.brick b).chains.contains rec_)
/-- The state with a chain's CTRL written. -/
def setChainCtrl (s : State) (b rec_ x : Nat) : State := s.writeNum (sramPa b rec_) 8 x

/-- A hardware write in a chain record. -/
def recWrite (s : State) (b off : Nat) (l : List Byte) : State := (noteWrite s b 0 (sramPa b off) l.length).write (sramPa b off) l
/-- Offset of stage frame i (R196). -/
def frameAt (r i : Nat) : Nat := r + 0x400 + 0x180 * i
/-- Bits 10:8 of a frame's STAGE: the strand on which the stage last ran in spread form (R196, R298). -/
def setStageStrand (s : State) (b r i k : Nat) : State :=
  let a := frameAt r i + 0x98
  let v := s.num (sramPa b a) 8
  recWrite s b a (leBytes 8 (v - bits v 10 8 * 256 + k * 256))

/-- The stage that a task runs of the chain whose record lies at rec_. -/
def Task.stageIn (t : Task) (rec_ : Nat) : Option Nat := findKey rec_ t.stages
/-- The task without a chain. -/
def Task.leave (t : Task) (rec_ : Nat) : Task := { t with stages := t.stages.filter fun q => q.1 ≠ rec_ }

/-- A task that takes strand k of brick b is the stage of each of its spread chains on that strand (R298). -/
def runStages (s : State) (b k : Nat) (t : Task) : State :=
  t.stages.foldl (fun s q => if (chainCtrl s b q.1).testBit 4 then s else setStageStrand s b q.1 q.2 k) s

/-- A task of brick b runs a stage of the chain whose record lies at rec_. -/
def Brick.runsChain (x : Brick) (rec_ : Nat) : Bool :=
  x.strands.toList.any (fun t => t.task.any fun q => (q.stageIn rec_).isSome) ||
    (x.ready ++ x.away ++ x.kept).any fun c => (c.task.stageIn rec_).isSome

/-- The brick without a pending switch. -/
def dropSwitch (s : State) (b r : Nat) : State :=
  s.modBrick b fun x => { x with switches := x.switches.filter fun w => w.crec ≠ r }

/-- A pending switch is refused: PEND is cleared, and its chsw completes with a status (R200); a request of the scheduler may be made again
after 50 µs (R286). -/
def refuseSwitch (s : State) (b : Nat) (w : Switch) (v : Word) : State :=
  let s := dropSwitch (setChainCtrl s b w.crec (putBit (chainCtrl s b w.crec) 5 false)) b w.crec
  match w.op with
  | none => s.modBrick b fun x => { x with switchWait := putKey w.crec s.cycle x.switchWait }
  | some id => s.modBrick b fun x => x.modOp id fun o => match o.kind with
    | .chsw d => { o with done := true, commit := ⟨some (d, v), [], false⟩ }
    | _ => o

/-- A stage task has left a chain: LEFT is set, which refuses a pending switch (R200); with the last, RUN is cleared and the chain is
tracked no more (R281). -/
def leaveChain (s : State) (b r : Nat) : State :=
  let c := putBit (chainCtrl s b r) 6 true
  if (s.brick b).runsChain r then
    let s := setChainCtrl s b r c
    match (s.brick b).switches.find? fun w => w.crec = r with
    | some w => refuseSwitch s b w 2
    | none => s
  else
    (dropSwitch (setChainCtrl s b r (putBit (putBit c 3 false) 5 false)) b r).modBrick b fun x =>
      { x with chains := x.chains.filter (· ≠ r), switchWait := x.switchWait.filter fun q => q.1 ≠ r }

/-- A task leaves every chain of which it runs a stage (R281). -/
def chainLeft (s : State) (b : Nat) (t : Task) : State := t.stages.foldl (fun s q => leaveChain s b q.1) s

/-- Accumulator, queued commands and capability slots of a context that ends (R93, R161, R180); its own first touch ends with it, and an
image of it that is on its way out sets no ACCIMG (R242). -/
def Brick.releaseCtx (x : Brick) (space : Nat) (ctxid : BitVec 32) : Brick :=
  let key := space + 2 ^ 20 * ctxid.toNat
  { x with
    accown := if x.ownsAcc space ctxid then x.accown &&& 0x7FFFFFFFFFFFFFFF else x.accown
    matq := if x.ownsAcc space ctxid then x.matq.filter fun m => !(m.ctx = key && !m.fired) else x.matq
    slots := x.slots.map fun q => match q with
      | some t => if t.ctx = key then none else some t
      | none => none
    ownPending := x.ownPending.bind fun w =>
      if w.touch && w.v = ownWord space ctxid then none
      else some { w with lost := w.lost || w.old.any fun q => q.1 = key } }

/-- What the launch learns when a task ends: one task less, its block free, a root's status (R232, R234). -/
def launchEnd (s : State) (t : Task) (status : Word) : State :=
  s.modLaunch t.launch fun l =>
    { l with
      live := l.live - 1
      blocks := l.blocks.filter (· ≠ t.blk)
      freed := putKey t.blk s.cycle l.freed
      roots := match t.root with
        | some i => if status = 0 then l.roots else l.roots ++ [(i, status)]
        | none => l.roots }

/-- What the task waits for before it ends: stores, outstanding ring entries, copies, fired commands (R180), and its own csrw to ACCOWN
(R242). -/
def endBusy (s : State) (b : Nat) (k : Fin 5) : Bool :=
  let x := s.strand b k
  let y := s.brick b
  let key := x.ctxKey
  x.unacked ≠ 0 || x.ring.any (fun e => e.tag = key && e.fault.isNone) ||
  y.chans.toList.any (fun c => (c.job.any fun j => j.ctx = key) || (c.latched.any fun j => j.ctx = key)) ||
  y.held.any (fun h => h.2.1.ctx = key) || y.flights.any (fun f => f.ctx = key && !f.arrived) ||
  (y.ownsAcc x.space x.ctxid && y.firedOf key) || y.ownPending.any fun w => !w.touch && w.strand = k.val

/-- The task's join counter goes down by one, as a retired no-return atomic (R180). -/
def joinDown (s : State) (b : Nat) (k : Fin 5) (a : Word) : State :=
  let x := s.strand b k
  let act : FAct := .amo ⟨.add, 8, 2 ^ 64 - 1, 0⟩
  if a.toNat < Config.sramBytes then
    match performAct s (sramPa b a.toNat) act with
    | .ok t => t
    | .error c => s.report b k x.space c .atomic x.pc a 0
  else
    let f : Flight := ⟨s.nextId, k, x.ctxKey, x.space, x.pc, a, 8, act, none, [], true, false, false, (s.brick b).epoch, .atomic, none⟩
    (s.bumpId.modStrand b k fun x => { x with unacked := x.unacked + 1 }).modBrick b fun y =>
      { (y.rrbDrop x.space a.toNat 8) with flights := y.flights ++ [f] }

/-- The task on strand k of brick b ends with a status: its windows are closed and nothing of it is under way (R180). -/
def endTask (s : State) (b : Nat) (k : Fin 5) (status : Word) : State :=
  let x := s.strand b k
  match x.task with
  | none => s
  | some t =>
    let s := if t.nojoin then s else joinDown s b k t.joinAddr
    let s := s.modStrand b k fun x => { x.vacate s.cycle with ring := x.ring.filter fun e => e.tag ≠ x.ctxKey }
    let s := s.modBrick b fun y => y.releaseCtx x.space x.ctxid
    chainLeft (launchEnd s t status) b t

/-- KILL begins: the task takes no trap and ends once nothing of it is under way (R117, R180). -/
def Strand.beginKill (x : Strand) (status : Word) : Strand :=
  { x with kill := some status, block := none, answers := [], hints := Hints.none, lates := [], saveDue := false, wdDue := false, saveTok := none }

/-- The status of a KILL for a fault code: bit 63 and the code (R117). -/
def killStatus (c : Nat) : Word := BitVec.ofNat 64 (2 ^ 63 + c)

/-- An operation that KILL ends: it waits for something that is not on its way (R117, R278, log 25). -/
def Op.killable (o : Op) : Bool :=
  (match o.kind with
  | .foot _ _ _ => true
  | .cpWait _ _ _ _ => true
  | .mapw _ _ => true
  | .chsw _ => true
  | _ => false) || o.accs.any fun a => match a.st with
    | .faulted _ _ => true
    | .retry => true
    | .host => true
    | _ => false

/-- A send whose message is on its way, or whose landing word has still to take its update (R185). -/
def Op.sending (o : Op) : Bool :=
  !o.done && match o.kind with
    | .msg _ _ _ _ => true
    | _ => false

/-- KILL drops the task's waits, its faulted entries and its commands that have not fired (R180, R242, log 25). -/
def killDrop (s : State) (b : Nat) (k : Fin 5) : State :=
  let x := s.strand b k
  let key := x.ctxKey
  let gone := (x.ops.filter Op.killable).filterMap (·.seq) ++
    ((s.brick b).matq.filter fun m => m.ctx = key && !m.fired && m.issuer.isNone).map (·.seq)
  (s.modStrand b k fun x =>
    { x with
      ops := x.ops.filter fun o => !o.killable
      ring := x.ring.filter fun e => e.tag ≠ key || (e.fault.isNone && !gone.contains e.seq) }).modBrick b fun y =>
    { y with matq := y.matq.filter fun m => !(m.ctx = key && !m.fired && m.issuer.isNone), panels := y.panels.filter fun p => p.ctx ≠ key }

/-- A task that is ending by KILL goes on to its end once nothing of it is under way (R180). -/
def killTurn (s : State) (b : Nat) (k : Fin 5) (status : Word) : State :=
  let s := killDrop s b k
  if endBusy s b k || (s.strand b k).ops.any (fun o => o.sending || o.accs.any fun a => a.st = .pending && s.homeReady a.pa) then s
  else endTask s b k status

end Sys2Proof.Machine
end

