-- ==== Sys2Proof/Machine/Fetch.lean ====
section
/-! DEFINITION. Fetching an instruction (R19, R62, R91, R187), the passing of cycles (R27, R95, R103, R104), and which strand
may move. -/

namespace Sys2Proof.Machine

/-- The byte that a strand's fetch sees: stores to code reach it after its fence.s or acq.all (R91, log 9). -/
def fetchSeen (b : Nat) (k : Fin 5) (x : Strand) (pa : Nat) : List CodeStore → Byte → Byte
  | [], v => v
  | e :: t, v =>
    if e.pa ≠ pa then fetchSeen b k x pa t v
    else if (if e.brick = b ∧ e.strand = k then decide (e.n < x.fetchOwn) else decide (e.n < x.fetchAll)) then v
    else fetchSeen b k x pa t e.old

/-- The word that a strand's fetch sees at a physical address (R4, R62). -/
def fetchWord (s : State) (pa : Nat) : IWord :=
  let f (i : Nat) : Byte := fetchSeen s.cur.1 s.cur.2 s.me (pa + i) s.codeLog (s.byte (pa + i))
  wordOfBytes (f 0) (f 1) (f 2) (f 3)

/-- The number of the fetch at pc among the accesses that a reply may answer (R19, R117). -/
def fetchOrd (pc : Word) : Nat := 2 ^ 70 + pc.toNat

/-- The word at the PC, or why the fetch stops (R19): SKIP gives the word 0, REDIRECT the word at NEWADDR. -/
def fetch (s : State) : Except Stop IWord := do
  let x := s.me
  let ord := fetchOrd x.pc
  match ← reach s ord x.pc 4 needFetch 0 with
  | .skip => .ok 0
  | .at ea p _ =>
    homeWait s p.pa ord .fetch ea
    if s.readBad s.cur.1 x.space ea.toNat p.pa 4 then .error (.post ⟨.poison, .fetch, ea, ord, 0, []⟩)
    else .ok (fetchWord s p.pa)

/-- The interface's entry that a fetch leaves (R259, R262). -/
def fetchFill (s : State) : State :=
  match reach s (fetchOrd s.me.pc) s.me.pc 4 needFetch 0 with
  | .ok (.at _ _ t) => t
  | _ => s

/-- The word of the handler that the message strand runs (R187). -/
def handlerWord (s : State) : Option IWord :=
  match s.here.handler with
  | some m => if s.me.handlerCount < 256 then m.code[s.me.pc.toNat / 4]? else none
  | none => none

/-- The limit of the watchdog (R27, R103). -/
def Strand.wdLimit (x : Strand) : Nat := 2 ^ max x.wdLog2.toNat 16

/-- A task strand after dt cycles (R103, R104, R105): the watchdog runs unless the task is blocked, LEFT runs down under
PEND; what falls due ends a pause, in either mode (R95). -/
def Strand.tick (x : Strand) (dt : Nat) : Strand :=
  let x := { x with pause := x.pause.map (· - dt) }
  if x.task.isNone ∨ x.halted.isSome then x
  else
    let wd := if x.block.isSome then 0 else min (x.wdCount.toNat + dt) (2 ^ 32 - 1)
    let left := x.yieldLeft.toNat - dt
    let wdDue := x.wdDue || decide (x.wdLimit ≤ wd)
    let saveDue := x.saveDue || (x.yieldPend && decide (left = 0) && x.block.isNone)
    { x with
      wdCount := BitVec.ofNat 32 wd
      wdDue := wdDue
      yieldLeft := if x.yieldPend then BitVec.ofNat 32 left else x.yieldLeft
      saveDue := saveDue
      pause := if (wdDue && !x.wdDue) || (saveDue && !x.saveDue) then none else x.pause }

/-- A brick after dt cycles: the four task strands of a brick count (R103). -/
def Brick.tick (b dt : Nat) (x : Brick) : Brick :=
  { x with strands := x.strands.mapFinIdx fun i t _ =>
      if i < 4 ∧ !isPair b then t.tick dt else { t with pause := t.pause.map (· - dt) } }

/-- The state after dt cycles (log 2). -/
def State.tick (s : State) (dt : Nat) : State :=
  if dt = 0 ∨ s.stopped then s
  else { s with cycle := s.cycle + dt, bricks := s.bricks.map fun q => (q.1, q.2.tick q.1 dt) }

/-- The moving strand has something to run: a task, a handler, or a healthy service pair (R13, R29, R187, R320). -/
def State.live (s : State) : Bool :=
  if isPair s.cur.1 then s.cur.2 = 0 && (((s.pairs.toList)[dieOf s.cur.1]?.map (·.healthy)).getD false)
  else if s.cur.2 = 4 then s.here.handler.isSome
  else s.me.task.isSome

/-- The strand waits for an operation whose window has closed; the wait may be a block (R71, R118). -/
def State.waitOn (s : State) (o : Op) : State :=
  if (s.blocks o).isNone then s else s.modMe fun x => x.holdFor s.cycle (s.blocks o)

/-- The moving strand is at the instruction at MATCH, under ONPC (R344). -/
def State.atMatch (s : State) : Bool :=
  s.here.trctl.getLsbD 10 && (s.me.pc.extractLsb' 2 55 == s.here.trmatch.extractLsb' 2 55)

/-- The instruction that the moving strand had in hand in s has issued by t: it is not the strand's next one again. -/
def State.issuedBy (s t : State) : Bool :=
  let x := s.me
  let y := t.strand s.cur.1 s.cur.2
  x.pc ≠ y.pc || x.handlerCount ≠ y.handlerCount || x.mode ≠ y.mode || x.task.isSome ≠ y.task.isSome

/-- The trace buffer freezes when a strand issues the instruction at MATCH, once that instruction's own entries have been written (R344). -/
def freezing (s : State) (o : Host.Outcome State Fault Refusal) : Host.Outcome State Fault Refusal :=
  if s.atMatch then
    match o with
    | .next t => .next (if s.issuedBy t then t.modBrick s.cur.1 fun x => { x with trctl := x.trctl ||| 0x100 } else t)
    | .fault f => .fault f
    | .refused r => .refused r
  else o

end Sys2Proof.Machine
end

