-- ==== Sys2Proof/Machine/Scalar.lean ====
section
/-! DEFINITION. The scalar instructions: register forms (R84 to R86), immediates (R87), branches, jumps and calls (R89, R90), nop
(R94) and the hints (R75 to R78). -/

namespace Sys2Proof.Machine

/-- A binary function of scalar sources (R84). -/
def scalar2 (i : Instr) (d : BitVec 4) (a b : Src) (f : Word → Word → Word) (s : State) : Host.Outcome State Fault Refusal :=
  run i s fun s => .ok (s.setS d (f (s.srcA a b) (s.srcB b)))

/-- A unary function of a scalar source (R84). -/
def scalar1 (i : Instr) (d : BitVec 4) (a : Src) (f : Word → Word) (s : State) : Host.Outcome State Fault Refusal :=
  run i s fun s => .ok (s.setS d (f (s.src1 a)))

/-- 1 if a condition holds, else 0. -/
def truth (c : Bool) : Word := if c then 1 else 0

/-- A shift or rotate amount: mod 64 (R39). -/
def amount (b : Word) : Nat := b.toNat % 64

/-- Zero bits of x above its highest one, among n bits (R85). -/
def leadingZeros (x : Word) : Nat := if x = 0 then 64 else 63 - x.toNat.log2
/-- Zero bits of x below its lowest one, among the bits from i on (R85). -/
def trailingFrom (x : Nat) : Nat → Nat → Nat
  | 0, i => i
  | n + 1, i => if x.testBit i then i else trailingFrom x n (i + 1)
/-- One bits of x among n bits (R85). -/
def popCount (x : Nat) : Nat → Nat
  | 0 => 0
  | n + 1 => popCount x n + if x.testBit n then 1 else 0
/-- The carry-less product of a and the low n bits of b (R85). -/
def clprod (a b : Nat) : Nat → Nat
  | 0 => 0
  | n + 1 => (clprod a b n) ^^^ (if b.testBit n then a * 2 ^ n else 0)
/-- The eight bytes in reverse order (R85). -/
def byteSwap (a : Word) : Word := BitVec.ofNat 64 (leNat (leBytes 8 a.toNat).reverse)

/-- Signed quotient with R39's edges. -/
def sdivWord (a b : Word) : Word :=
  if b = 0 then BitVec.allOnes 64 else BitVec.ofInt 64 (a.toInt.tdiv b.toInt)
/-- Signed remainder with R39's edges. -/
def sremWord (a b : Word) : Word := if b = 0 then a else BitVec.ofInt 64 (a.toInt.tmod b.toInt)
/-- Unsigned quotient with R39's edges. -/
def udivWord (a b : Word) : Word := if b = 0 then BitVec.allOnes 64 else BitVec.ofNat 64 (a.toNat / b.toNat)
/-- Unsigned remainder with R39's edges. -/
def uremWord (a b : Word) : Word := if b = 0 then a else BitVec.ofNat 64 (a.toNat % b.toNat)
/-- The left rotation by n (R85). -/
def rotl (a : Word) (n : Nat) : Word := (a <<< n) ||| (a >>> (64 - n))

/-- add (R85). -/
def execAdd (d : BitVec 4) (a b : Src) (s : State) : Host.Outcome State Fault Refusal :=
  scalar2 (.add d a b) d a b (fun a b => a + b) s

/-- sub (R85). -/
def execSub (d : BitVec 4) (a b : Src) (s : State) : Host.Outcome State Fault Refusal :=
  scalar2 (.sub d a b) d a b (fun a b => a - b) s

/-- min (R85). -/
def execMin (d : BitVec 4) (a b : Src) (s : State) : Host.Outcome State Fault Refusal :=
  scalar2 (.min d a b) d a b (fun a b => if a.slt b then a else b) s

/-- max (R85). -/
def execMax (d : BitVec 4) (a b : Src) (s : State) : Host.Outcome State Fault Refusal :=
  scalar2 (.max d a b) d a b (fun a b => if a.slt b then b else a) s

/-- minu (R85). -/
def execMinu (d : BitVec 4) (a b : Src) (s : State) : Host.Outcome State Fault Refusal :=
  scalar2 (.minu d a b) d a b (fun a b => if a < b then a else b) s

/-- maxu (R85). -/
def execMaxu (d : BitVec 4) (a b : Src) (s : State) : Host.Outcome State Fault Refusal :=
  scalar2 (.maxu d a b) d a b (fun a b => if a < b then b else a) s

/-- and (R85). -/
def execAnd (d : BitVec 4) (a b : Src) (s : State) : Host.Outcome State Fault Refusal :=
  scalar2 (.and d a b) d a b (fun a b => a &&& b) s

/-- or (R85). -/
def execOr (d : BitVec 4) (a b : Src) (s : State) : Host.Outcome State Fault Refusal :=
  scalar2 (.or d a b) d a b (fun a b => a ||| b) s

/-- xor (R85). -/
def execXor (d : BitVec 4) (a b : Src) (s : State) : Host.Outcome State Fault Refusal :=
  scalar2 (.xor d a b) d a b (fun a b => a ^^^ b) s

/-- andn (R85). -/
def execAndn (d : BitVec 4) (a b : Src) (s : State) : Host.Outcome State Fault Refusal :=
  scalar2 (.andn d a b) d a b (fun a b => a &&& ~~~b) s

/-- shl (R85). -/
def execShl (d : BitVec 4) (a b : Src) (s : State) : Host.Outcome State Fault Refusal :=
  scalar2 (.shl d a b) d a b (fun a b => a <<< amount b) s

/-- shr (R85). -/
def execShr (d : BitVec 4) (a b : Src) (s : State) : Host.Outcome State Fault Refusal :=
  scalar2 (.shr d a b) d a b (fun a b => a >>> amount b) s

/-- sar (R85). -/
def execSar (d : BitVec 4) (a b : Src) (s : State) : Host.Outcome State Fault Refusal :=
  scalar2 (.sar d a b) d a b (fun a b => a.sshiftRight (amount b)) s

/-- rol (R85). -/
def execRol (d : BitVec 4) (a b : Src) (s : State) : Host.Outcome State Fault Refusal :=
  scalar2 (.rol d a b) d a b (fun a b => rotl a (amount b)) s

/-- clz (R85). -/
def execClz (d : BitVec 4) (a : Src) (s : State) : Host.Outcome State Fault Refusal :=
  scalar1 (.clz d a) d a (fun a => BitVec.ofNat 64 (leadingZeros a)) s

/-- ctz (R85). -/
def execCtz (d : BitVec 4) (a : Src) (s : State) : Host.Outcome State Fault Refusal :=
  scalar1 (.ctz d a) d a (fun a => BitVec.ofNat 64 (trailingFrom a.toNat 64 0)) s

/-- popc (R85). -/
def execPopc (d : BitVec 4) (a : Src) (s : State) : Host.Outcome State Fault Refusal :=
  scalar1 (.popc d a) d a (fun a => BitVec.ofNat 64 (popCount a.toNat 64)) s

/-- seq (R85). -/
def execSeq (d : BitVec 4) (a b : Src) (s : State) : Host.Outcome State Fault Refusal :=
  scalar2 (.seq d a b) d a b (fun a b => truth (a == b)) s

/-- sne (R85). -/
def execSne (d : BitVec 4) (a b : Src) (s : State) : Host.Outcome State Fault Refusal :=
  scalar2 (.sne d a b) d a b (fun a b => truth (a != b)) s

/-- slt (R85). -/
def execSlt (d : BitVec 4) (a b : Src) (s : State) : Host.Outcome State Fault Refusal :=
  scalar2 (.slt d a b) d a b (fun a b => truth (a.slt b)) s

/-- sltu (R85). -/
def execSltu (d : BitVec 4) (a b : Src) (s : State) : Host.Outcome State Fault Refusal :=
  scalar2 (.sltu d a b) d a b (fun a b => truth (a.ult b)) s

/-- sle (R85). -/
def execSle (d : BitVec 4) (a b : Src) (s : State) : Host.Outcome State Fault Refusal :=
  scalar2 (.sle d a b) d a b (fun a b => truth (a.sle b)) s

/-- sleu (R85). -/
def execSleu (d : BitVec 4) (a b : Src) (s : State) : Host.Outcome State Fault Refusal :=
  scalar2 (.sleu d a b) d a b (fun a b => truth (a.ule b)) s

/-- sel: a if the old d is not zero, else b (R85). -/
def execSel (d : BitVec 4) (a b : Src) (s : State) : Host.Outcome State Fault Refusal :=
  scalar2 (.sel d a b) d a b (fun x y => if s.me.sreg d ≠ 0 then x else y) s

/-- mul (R85). -/
def execMul (d : BitVec 4) (a b : Src) (s : State) : Host.Outcome State Fault Refusal :=
  scalar2 (.mul d a b) d a b (fun a b => a * b) s

/-- mulh (R85). -/
def execMulh (d : BitVec 4) (a b : Src) (s : State) : Host.Outcome State Fault Refusal :=
  scalar2 (.mulh d a b) d a b (fun a b => BitVec.ofInt 64 (a.toInt * b.toInt / (2 ^ 64 : Nat))) s

/-- mulhu (R85). -/
def execMulhu (d : BitVec 4) (a b : Src) (s : State) : Host.Outcome State Fault Refusal :=
  scalar2 (.mulhu d a b) d a b (fun a b => BitVec.ofNat 64 (a.toNat * b.toNat / 2 ^ 64)) s

/-- div (R85). -/
def execDiv (d : BitVec 4) (a b : Src) (s : State) : Host.Outcome State Fault Refusal :=
  scalar2 (.div d a b) d a b (fun a b => sdivWord a b) s

/-- divu (R85). -/
def execDivu (d : BitVec 4) (a b : Src) (s : State) : Host.Outcome State Fault Refusal :=
  scalar2 (.divu d a b) d a b (fun a b => udivWord a b) s

/-- rem (R85). -/
def execRem (d : BitVec 4) (a b : Src) (s : State) : Host.Outcome State Fault Refusal :=
  scalar2 (.rem d a b) d a b (fun a b => sremWord a b) s

/-- remu (R85). -/
def execRemu (d : BitVec 4) (a b : Src) (s : State) : Host.Outcome State Fault Refusal :=
  scalar2 (.remu d a b) d a b (fun a b => uremWord a b) s

/-- clmul (R85). -/
def execClmul (d : BitVec 4) (a b : Src) (s : State) : Host.Outcome State Fault Refusal :=
  scalar2 (.clmul d a b) d a b (fun a b => BitVec.ofNat 64 (clprod a.toNat b.toNat 64)) s

/-- clmulh (R85). -/
def execClmulh (d : BitVec 4) (a b : Src) (s : State) : Host.Outcome State Fault Refusal :=
  scalar2 (.clmulh d a b) d a b (fun a b => BitVec.ofNat 64 (clprod a.toNat b.toNat 64 / 2 ^ 64)) s

/-- bswap (R85). -/
def execBswap (d : BitVec 4) (a : Src) (s : State) : Host.Outcome State Fault Refusal :=
  scalar1 (.bswap d a) d a (fun a => byteSwap a) s

/-! Immediates (R87). -/

/-- A function of a register and an immediate of n bits (R87). -/
def scalarImm (i : Instr) (d a : BitVec 4) (n x : Nat) (f : Word → Word → Word) (s : State) : Host.Outcome State Fault Refusal :=
  run i s fun s => .ok (s.setS d (f (s.me.sreg a) (s.imm n x)))

/-- A shift of a register by an immediate amount (R87). -/
def scalarShift (i : Instr) (d a : BitVec 4) (f : Word → Word) (s : State) : Host.Outcome State Fault Refusal :=
  run i s fun s => .ok (s.setS d (f (s.me.sreg a)))

/-- add.i (R87). -/
def execAddI (d a : BitVec 4) (j : BitVec 18) (s : State) : Host.Outcome State Fault Refusal :=
  scalarImm (.addI d a j) d a 18 j.toNat (fun a b => a + b) s

/-- and.i (R87). -/
def execAndI (d a : BitVec 4) (j : BitVec 18) (s : State) : Host.Outcome State Fault Refusal :=
  scalarImm (.andI d a j) d a 18 j.toNat (fun a b => a &&& b) s

/-- or.i (R87). -/
def execOrI (d a : BitVec 4) (j : BitVec 18) (s : State) : Host.Outcome State Fault Refusal :=
  scalarImm (.orI d a j) d a 18 j.toNat (fun a b => a ||| b) s

/-- xor.i (R87). -/
def execXorI (d a : BitVec 4) (j : BitVec 18) (s : State) : Host.Outcome State Fault Refusal :=
  scalarImm (.xorI d a j) d a 18 j.toNat (fun a b => a ^^^ b) s

/-- slt.i (R87). -/
def execSltI (d a : BitVec 4) (j : BitVec 17) (s : State) : Host.Outcome State Fault Refusal :=
  scalarImm (.sltI d a j) d a 17 j.toNat (fun a b => truth (a.slt b)) s

/-- sltu.i (R87). -/
def execSltuI (d a : BitVec 4) (j : BitVec 17) (s : State) : Host.Outcome State Fault Refusal :=
  scalarImm (.sltuI d a j) d a 17 j.toNat (fun a b => truth (a.ult b)) s

/-- shl.i (R87). -/
def execShlI (d a : BitVec 4) (n : BitVec 6) (s : State) : Host.Outcome State Fault Refusal :=
  scalarShift (.shlI d a n) d a (fun a => a <<< n.toNat) s

/-- shr.i (R87). -/
def execShrI (d a : BitVec 4) (n : BitVec 6) (s : State) : Host.Outcome State Fault Refusal :=
  scalarShift (.shrI d a n) d a (fun a => a >>> n.toNat) s

/-- sar.i (R87). -/
def execSarI (d a : BitVec 4) (n : BitVec 6) (s : State) : Host.Outcome State Fault Refusal :=
  scalarShift (.sarI d a n) d a (fun a => a.sshiftRight n.toNat) s

/-! Branches (R89). -/

/-- PC + 4 × a signed offset of n bits (R65). -/
def branchTarget (s : State) (n x : Nat) : Word := s.me.pc + BitVec.ofInt 64 (4 * toS x n)

/-- A conditional branch: it goes to PC + 4 × offset when taken, and the taken branch is traced (R89, R344). On the message
strand a target outside the handler's words is a trap (R187). -/
def branch (i : Instr) (s : State) (c : Bool) (n x : Nat) : Host.Outcome State Fault Refusal :=
  runJump i s fun s =>
    if c then
      let t := branchTarget s n x
      if isMessage s.cur.1 s.cur.2 ∧ ¬(∃ m ∈ s.here.handler, t.toNat / 4 < m.code.length) then .error (.trap .illegalOpcode)
      else .ok (s.traceMe 1 0 t, t)
    else .ok (s, s.me.pc + 4)

/-- beq (R89). -/
def execBeq (a b : BitVec 4) (o : BitVec 15) (s : State) : Host.Outcome State Fault Refusal :=
  branch (.beq a b o) s (let x := s.me.sreg a; let y := s.me.sreg b; x == y) 15 o.toNat

/-- bne (R89). -/
def execBne (a b : BitVec 4) (o : BitVec 15) (s : State) : Host.Outcome State Fault Refusal :=
  branch (.bne a b o) s (let x := s.me.sreg a; let y := s.me.sreg b; x != y) 15 o.toNat

/-- blt (R89). -/
def execBlt (a b : BitVec 4) (o : BitVec 15) (s : State) : Host.Outcome State Fault Refusal :=
  branch (.blt a b o) s (let x := s.me.sreg a; let y := s.me.sreg b; x.slt y) 15 o.toNat

/-- bge (R89). -/
def execBge (a b : BitVec 4) (o : BitVec 15) (s : State) : Host.Outcome State Fault Refusal :=
  branch (.bge a b o) s (let x := s.me.sreg a; let y := s.me.sreg b; y.sle x) 15 o.toNat

/-- bltu (R89). -/
def execBltu (a b : BitVec 4) (o : BitVec 15) (s : State) : Host.Outcome State Fault Refusal :=
  branch (.bltu a b o) s (let x := s.me.sreg a; let y := s.me.sreg b; x.ult y) 15 o.toNat

/-- bgeu (R89). -/
def execBgeu (a b : BitVec 4) (o : BitVec 15) (s : State) : Host.Outcome State Fault Refusal :=
  branch (.bgeu a b o) s (let x := s.me.sreg a; let y := s.me.sreg b; y.ule x) 15 o.toNat

/-- bz (R89). -/
def execBz (a : BitVec 4) (o : BitVec 19) (s : State) : Host.Outcome State Fault Refusal :=
  branch (.bz a o) s (s.me.sreg a == 0) 19 o.toNat

/-- bnz (R89). -/
def execBnz (a : BitVec 4) (o : BitVec 19) (s : State) : Host.Outcome State Fault Refusal :=
  branch (.bnz a o) s (s.me.sreg a != 0) 19 o.toNat

/-- jmp (R90). -/
def execJmp (o : BitVec 26) (s : State) : Host.Outcome State Fault Refusal :=
  runJump (.jmp o) s fun s => let t := branchTarget s 26 o.toNat; .ok (s.traceMe 1 0 t, t)

/-- call: s14 receives the return address (R90). -/
def execCall (o : BitVec 26) (s : State) : Host.Outcome State Fault Refusal :=
  runJump (.call o) s fun s =>
    let t := branchTarget s 26 o.toNat
    .ok ((s.setS 14 (s.me.pc + 4)).traceMe 1 0 t, t)

/-- nop (R94). -/
def execNop (s : State) : Host.Outcome State Fault Refusal := run .nop s fun s => .ok s

/-! Hints (R75). -/

/-- A hint waits for its consumer (R75). -/
def hint (i : Instr) (s : State) (f : Hints → Hints) : Host.Outcome State Fault Refusal :=
  runRaw i s fun s => .ok (advanceHint s f)

/-- hint.imm (R76). -/
def execHintImm (p : BitVec 24) (s : State) : Host.Outcome State Fault Refusal :=
  hint (.hintImm p) s fun h => { h with imms := h.imms ++ [p] }

/-- hint.mod (R77). -/
def execHintMod (p : BitVec 24) (s : State) : Host.Outcome State Fault Refusal :=
  hint (.hintMod p) s fun h => { h with mod := some p }

/-- hint.sched (R78). -/
def execHintSched (p : BitVec 24) (s : State) : Host.Outcome State Fault Refusal :=
  hint (.hintSched p) s fun h => { h with sched := some p }

end Sys2Proof.Machine
end

