-- ==== Sys2Proof/Machine/Control.lean ====
section
/-! DEFINITION. Jumps through registers (R90, R178), yield and exit (R92, R93), traps and their return (R96 to R101), watchdog and
deadline (R103, R104), forced saves (R241), halting (R105), pause (R95) and the control registers (R26 to R28, R106, R107,
R321). -/

namespace Sys2Proof.Machine

/-! Late faults, the watchdog and forced saves at an interruption point (R15, R25, R101). -/

/-- Strand k of brick b holds a task in task mode at a boundary where an asynchronous event may be taken, its registers are loaded, and
every window's instruction is complete (R15, R33, R74). -/
def Strand.ready (x : Strand) : Bool :=
  x.task.isSome && x.mode = .task && x.halted.isNone && x.block.isNone && x.phase = 0 && x.restore.isNone && x.kill.isNone && !x.hints.any &&
  (x.windowFree || decide (64 ≤ x.issued)) && x.drained

/-- The strand after a late fault's trap with resume address pc: its ring entry stays faulted, and is marked as trapped (R25, R96,
R180). -/
def lateEntry (l : Late) (pc : Word) (x : Strand) : Strand :=
  trapEntry l.code (some l.seq) pc
    { x with
      lates := x.lates.filter (· ≠ l)
      ring := x.ring.map fun e => if e.seq == l.seq && e.fault.isSome then { e with trapped := true } else e }

/-- A due late fault is taken as a trap (R25, R101). -/
def execLateFaultTrap (b k : Nat) (s : State) : Host.Outcome State Fault Refusal :=
  .next (if h : k < 5 then
    let x := s.strand b ⟨k, h⟩
    match x.firstLate with
    | some l => if x.ready ∧ !x.saveDue then
        (s.modStrand b ⟨k, h⟩ (lateEntry l x.groupPc)).trace b ⟨k, h⟩ 4 0 (BitVec.ofNat 64 l.code.num) else s
    | none => s
  else s)

/-- WATCHDOG falls due once COUNT has reached its limit (R103). -/
def execWatchdogDue (b k : Nat) (s : State) : Host.Outcome State Fault Refusal :=
  .next (if h : k < 5 then
    let x := s.strand b ⟨k, h⟩
    if x.task.isSome ∧ x.block.isNone ∧ x.wdLimit ≤ x.wdCount.toNat then
      s.modStrand b ⟨k, h⟩ fun x => { x with wdDue := true, pause := if x.wdDue then x.pause else none }
    else s
  else s)

/-- A due WATCHDOG is taken as a trap, after forced saves and late faults (R101, R103). -/
def execWatchdog (b k : Nat) (s : State) : Host.Outcome State Fault Refusal :=
  .next (if h : k < 5 then
    let x := s.strand b ⟨k, h⟩
    if x.wdDue ∧ x.ready ∧ !x.saveDue ∧ x.lates = [] then
      (s.modStrand b ⟨k, h⟩ fun x => trapEntry .watchdog none x.groupPc x).trace b ⟨k, h⟩ 4 0 0x67
    else s
  else s)

/-- A pre-emption request reaches a strand that holds a task (R104, R240). -/
def Strand.preempt (x : Strand) : Strand :=
  if x.task.isNone ∨ x.yieldPend then x
  else
    let due := x.deadline = 0 && x.block.isNone
    { x with yieldPend := true, yieldLeft := x.deadline, saveDue := x.saveDue || due, pause := if due && !x.saveDue then none else x.pause }

/-- The scheduler raises a request on channel 63 for the course of launch l: from now on its strands start no work, and in 96 cycles the
request reaches them (R240, R279). -/
def preemptLaunch (s : State) (l : Nat) : State :=
  s.modLaunch l fun q =>
    if q.st ≠ .running ∧ q.st ≠ .preempting then q else { q with st := .preempting, raises := q.raises ++ [s.cycle + 96] }

/-- Requests on channel 63 reach a course in cycle t: each of its task strands that holds a task follows R104 (R240, R279). -/
def reachCourse (s : State) (t : Nat) (l : Launch) : State :=
  if !l.raises.contains t then s
  else (l.bricks.foldl (fun s b => s.modBrick b fun x =>
      { x with strands := x.strands.map fun t => if t.task.isSome then t.preempt else t }) s).modLaunch l.id fun q =>
    { q with raises := q.raises.filter (· ≠ t) }

/-- Channel 63 raises a request for the course of launch l (R104, R240). -/
def execPreemptionRequest (l : Nat) (s : State) : Host.Outcome State Fault Refusal := .next (preemptLaunch s l)

/-- LEFT has reached 0 under PEND: a forced save falls due (R104). -/
def execDeadlineExpiry (b k : Nat) (s : State) : Host.Outcome State Fault Refusal :=
  .next (if h : k < 5 then
    let x := s.strand b ⟨k, h⟩
    if x.task.isSome ∧ x.yieldPend ∧ x.yieldLeft = 0 ∧ x.block.isNone then
      s.modStrand b ⟨k, h⟩ fun x => { x with saveDue := true, pause := if x.saveDue then x.pause else none }
    else s
  else s)

/-- A forced save at an interruption point: UNACKED and fired commands drain, the accumulator's image and the save area are
written, the task leaves, and the save is recorded (R241). -/
def execForcedSave (b k : Nat) (s : State) : Host.Outcome State Fault Refusal :=
  .next (if h : k < 5 then
    let x := s.strand b ⟨k, h⟩
    match x.task with
    | none => s
    | some t =>
      let owns := (s.brick b).ownsAcc x.space x.ctxid
      if !x.saveDue ∨ !x.ready ∨ !x.saveReady s b ∨ x.unacked ≠ 0 ∨ (owns ∧ (s.brick b).firedOf x.ctxKey) then s
      else
        let c := s.modStrand b ⟨k, h⟩ Strand.closeWindows
        match leaveStrand c b ⟨k, h⟩ t true (if owns then some (s.brick b).acc else none) with
        | .ok s' => (s'.trace b ⟨k, h⟩ 5 0 (BitVec.ofNat 64 Code.deadlineForced.num)).modLaunch t.launch fun l => { l with forced := l.forced + 1 }
        | .error none => s
        | .error (some (p, s')) => postSave s' b ⟨k, h⟩ p false
  else s)

/-! The end of the running task by itself (R93, R180). -/

/-- texit's waits and its end (R180): a late fault that falls due meanwhile traps with TRAPPC at the instruction itself (R93). A forced save
or a WATCHDOG that falls due meanwhile is taken at the boundary before the instruction, which runs again later (DEDUCED, log 101). -/
def endSelf (s : State) (status : Word) : Except Stop State := do
  let s ← closing s
  let b := s.cur.1
  let k := s.cur.2
  let x := s.me
  match x.firstLate with
  | some l =>
    if x.mode = .task then .ok ((s.modMe (lateEntry l x.pc)).traceMe 4 0 (BitVec.ofNat 64 l.code.num))
    else if endBusy s b k then .error (.wait s) else .ok (endTask s b k status)
  | none => if endBusy s b k then .error (.wait s) else .ok (endTask s b k status)

/-- exit: the task ends with status 0 (R93). -/
def execExit (s : State) : Host.Outcome State Fault Refusal := runRaw .exit s fun s => endSelf s 0

/-- A jump through a register: a target of 0 ends a task as texit s0 does (R178), a misaligned one traps (R90). DESIGN CHOICE: where it ends the
task, the target and s0 are read before the windows that the end cuts short commit (R73, log 133). -/
def jumpReg (i : Instr) (s : State) (t : Word) (link : Bool) : Host.Outcome State Fault Refusal :=
  runRaw i s fun s =>
    if t.toNat % 4 ≠ 0 then .error (.trap .misaligned)
    else if t = 0 ∧ s.me.task.isSome then endSelf s (s.me.sreg 0)
    else
      let s := (if link then s.setS 14 (s.me.pc + 4) else s).traceMe 1 0 t
      .ok (advanceTo s t)

/-- jr (R90). -/
def execJr (a : BitVec 4) (s : State) : Host.Outcome State Fault Refusal := jumpReg (.jr a) s (s.me.sreg a) false
/-- callr (R90). -/
def execCallr (a : BitVec 4) (s : State) : Host.Outcome State Fault Refusal := jumpReg (.callr a) s (s.me.sreg a) true
/-- ret (R90). -/
def execRet (s : State) : Host.Outcome State Fault Refusal := jumpReg .ret s (s.me.sreg 14) false

/-! yield (R92). -/

/-- The strand whose ring holds an entry of a context (R23). -/
def Brick.boundTo (x : Brick) (key : Nat) : Option Nat :=
  (List.range 4).find? fun k => ((x.strands.toList)[k]?.map fun t => t.ring.any fun e => e.tag = key).getD false

/-- A context of the ready queue may run on strand k: one that has an outstanding entry is bound to its strand (R23, R235). -/
def Ctx.mayRun (c : Ctx) (x : Brick) (k : Nat) : Bool := (x.boundTo (c.space + 2 ^ 20 * c.ctxid.toNat)).all (· = k)

/-- The ready queue or the deque holds work for strand k (R236). -/
def Brick.hasWork (x : Brick) (k : Nat) : Bool := x.ready.any (fun c => c.mayRun x k) || x.deque ≠ []

/-- yield: windows close, YIELDREQ is taken, stores drain as by fence.s, and the task leaves if it must or if work waits; a store of its
save that faults blocks it there, YIELDREQ taken (R91, R92, R104, R236). -/
def yieldBody (s : State) : Except Stop State := do
  let s ← closing s
  let x := s.me
  let pend := x.yieldPend || x.phase = 2
  let s := s.modMe fun x => { x with yieldPend := false, yieldLeft := 0, saveDue := false, phase := if pend then 2 else 1 }
  if x.unacked ≠ 0 then .error (.wait s)
  else
    let s := s.modMe fun x => { x with wdCount := 0, wdDue := false, fetchOwn := s.codeLog.length }
    match x.task with
    | some t =>
      if pend || s.here.hasWork s.cur.2 then
        if !x.saveReady s s.cur.1 then .error (.wait s)
        else
        let u := s.modMe fun x => { x with pc := x.pc + 4, hints := Hints.none, phase := 0 }
        match leaveStrand u s.cur.1 s.cur.2 t false none with
        | .ok s' => .ok s'
        | .error none => .error (.wait s)
        | .error (some (p, s')) => .ok (postFault (s'.modMe fun x => { x with pc := s.me.pc, hints := s.me.hints, phase := s.me.phase }) p)
      else .ok (advance (s.modMe fun x => undefVectors { x with lastSpace := x.space } s.free))
    | none => .ok (advance (s.modMe fun x => undefVectors { x with lastSpace := x.space } s.free))

/-- yield (R92). -/
def execYield (s : State) : Host.Outcome State Fault Refusal := runRaw .yield s yieldBody

/-! Traps and their return (R99, R100). -/

/-- trap raises TRAP_INSN (R99). -/
def execTrap (s : State) : Host.Outcome State Fault Refusal := run .trap s fun _ => .error (.trap .trapInsn)
/-- brk raises BREAKPOINT (R99). -/
def execBrk (s : State) : Host.Outcome State Fault Refusal := run .brk s fun _ => .error (.trap .breakpoint)

/-- The return from a trap: to TRAPPC, which is a multiple of 4 (R19, R100). -/
def eretBody (s : State) : Except Stop (State × Word) := do
  let s ← closing s
  let t := s.me.trappc
  if t.toNat % 4 ≠ 0 then .error (.trap .misaligned) else .ok (s.modMe (eretStrand (isPair s.cur.1)), t)

/-- eret (R100). -/
def execEret (s : State) : Host.Outcome State Fault Refusal :=
  runJump .eret s fun s => if s.me.mode = .task then .error (.trap .privilege) else eretBody s

/-- A refused word with its unused fields cleared, for the functions whose presence depends on the strand or its mode (R64, R82). -/
def bareWord (w : Nat) : Nat :=
  let mj := bits w 31 26
  let f := bits w 3 0
  if mj = 0x0F then mj * 2 ^ 26 + f + (if f ≤ 1 then 2 ^ 16 else 0)
  else if mj = 0x2B then mj * 2 ^ 26 + bits w 17 11 * 2 ^ 11 + f
  else if mj = 0x2C ∧ bits w 25 23 = 2 then mj * 2 ^ 26 + 2 ^ 24
  else if mj = 0x2C ∧ bits w 25 23 = 3 then w - f - bits w 22 22 * 2 ^ 22
  else if mj = 0x2F ∧ bits w 25 23 = 4 then w - bits w 22 22 * 2 ^ 22 - bits w 10 4 * 2 ^ 4
  else w

/-- The strand does not have the function of a refused word (R82). -/
def wordMissing (w : Nat) (b : Nat) (k : Fin 5) (m : Mode) : Bool :=
  majorMissing (bits w 31 26) b k ||
  match decodeRow (fixTags (bareWord w)) with
  | some i => illegalHere i b k m
  | none => false

/-- The trap of a word that matches no row, the first in the order of R81: a tag's trap comes after that of a hint.mod field which
the instruction does not honour (R77). -/
def wordTrap (w : Nat) (s : State) : Code :=
  let e := badWord w
  if e = .illegal ∨ wordMissing w s.cur.1 s.cur.2 s.me.mode then .illegalOpcode
  else if e = .reserved then .reservedField
  else match decodeRow (fixTags w) with
    | some i =>
      if (i.info.mods ≠ 0 ∧ modFault s.me.hmod i.info.mods) ∨ (isMessage s.cur.1 s.cur.2 ∧ handlerReg i) then .reservedField else .kindTag
    | none => .reservedField

/-- A word outside the opcode map, or with a field that its row does not allow, traps (R81). -/
def execIllegalOpcode (w : IWord) (s : State) : Host.Outcome State Fault Refusal :=
  .next (match decode w with
  | .ok _ => s
  | .error _ => takeTrap s (wordTrap w.toNat s))

/-! Halting and pausing (R95, R105, R320). -/

/-- The service pair of die d halts: it is unhealthy from then on (R105, R320). -/
def haltPair (s : State) (d : Nat) : State :=
  let s := { s with pairs := s.pairs.mapFinIdx fun i p _ => if i = d then { p with healthy := false } else p }
  s.logHealth 5 d 0 0

/-- halt (R105). -/
def execHalt (s : State) : Host.Outcome State Fault Refusal :=
  runRaw .halt s fun s => do
    if s.me.mode = .task then .error (.trap .privilege)
    else
      let s ← closing s
      if s.me.unacked ≠ 0 then .error (.wait s)
      else
        let s := (advance s).modMe fun x => { x with halted := some .halt }
        .ok (if isPair s.cur.1 then haltPair s (dieOf s.cur.1) else s)

/-- pause stalls the strand for 64 cycles or until a wake event (R95). -/
def execPause (s : State) : Host.Outcome State Fault Refusal :=
  run .pause s fun s => .ok (s.modMe fun x => { x with pause := some 64 })

/-- A pause ends: its cycles have passed, or an asynchronous interruption is due (R95). -/
def execPauseExpiry (b k : Nat) (s : State) : Host.Outcome State Fault Refusal :=
  .next (if h : k < 5 then
    let x := s.strand b ⟨k, h⟩
    if x.pause = some 0 ∨ (x.pause.isSome ∧ x.asyncDue) then s.modStrand b ⟨k, h⟩ fun x => { x with pause := none } else s
  else s)

/-! Control registers (R26, R27, R106, R107, R321). -/

/-- PAIRSTAT of die d (R321). -/
def State.pairstat (s : State) (d : Nat) : Word :=
  match (s.pairs.toList)[d]? with
  | some p => BitVec.ofNat 64 (d + (if p.leader then 8 else 0) + (if s.hostUp then 16 else 0) + p.mismatch * 256 + p.beat.toNat * 2 ^ 32)
  | none => 0

/-- The fields of TEMPLATEBASE: its reserved bits are ignored (R7, R27). -/
def templFields (v : Word) : Word := v &&& 0x01FFFFFFFFFFFFC0

/-- The value of a control register, reserved bits as zero (R27, R321). -/
def csrValue (s : State) (b : Nat) (k : Fin 5) (c : Nat) : Word :=
  let x := s.strand b k
  let y := s.brick b
  match c with
  | 0x001 => x.rm.zeroExtend 64
  | 0x002 => x.fpstat.zeroExtend 64
  | 0x010 => BitVec.ofNat 64 x.unacked
  | 0x011 => x.bindtab.zeroExtend 64
  | 0x012 => (x.bufbase.zeroExtend 64) <<< 9
  | 0x020 => x.deadline.zeroExtend 64
  | 0x021 => BitVec.ofNat 64 ((if x.yieldPend then 1 else 0) + x.yieldLeft.toNat * 2 ^ 32)
  | 0x022 => BitVec.ofNat 64 (x.wdLog2.toNat + x.wdCount.toNat * 2 ^ 32)
  | 0x030 => (x.trapvec.zeroExtend 64) <<< 2
  | 0x031 => x.trappc
  | 0x032 => x.trapcause.zeroExtend 64
  | 0x033 => x.fltseq.zeroExtend 64
  | 0x034 => BitVec.ofNat 64 (x.seqBase.toNat + x.seqNext.toNat * 2 ^ 32)
  | 0x040 => y.accown
  | 0x041 => x.ctxid.zeroExtend 64
  | 0x042 => (x.savearea.zeroExtend 64) <<< 12
  | 0x050 => BitVec.ofNat 64 x.space
  | 0x051 => templFields (((s.space? x.space).map Space.tmpl).getD 0)
  | 0x060 => (y.coursewin.zeroExtend 64) <<< 30
  | 0x061 => y.courseorg.zeroExtend 64
  | 0x062 => y.courseshape.zeroExtend 64
  | 0x063 => y.footmask
  | 0x070 => BitVec.ofNat 64 b
  | 0x071 => BitVec.ofNat 64 (k.val + if x.mode = .service then 256 else 0)
  | 0x090 => s.pairstat (dieOf b)
  | 0x091 => s.heartbeat.zeroExtend 64
  | 0x0C0 => BitVec.ofNat 64 s.cycle
  | _ => 0

/-- csrr (R107). -/
def execCsrr (x : BitVec 4) (c : BitVec 12) (s : State) : Host.Outcome State Fault Refusal :=
  run (.csrr x c) s fun s => .ok (s.setS x (csrValue s s.cur.1 s.cur.2 c.toNat))

/-- Registers that hold an RWS field (R26, R321). -/
def csrPrivileged (c : Nat) : Bool := [0x020, 0x022, 0x030, 0x031, 0x032, 0x033, 0x040, 0x041, 0x042, 0x091].contains c

/-- A write of BINDTAB keeps each valid entry whose bit is written 1 (R32). -/
def writeBindtab (v : Word) (x : Strand) : Strand := { x with bindtab := x.bindtab &&& v.truncate 8 }
/-- A write of WATCHDOG writes LOG2 alone; WATCHDOG is due at once if COUNT has passed the new limit (R103). -/
def writeWatchdog (v : Word) (x : Strand) : Strand :=
  let y := { x with wdLog2 := v.truncate 5 }
  { y with wdDue := y.wdDue || (y.task.isSome && decide (y.wdLimit ≤ y.wdCount.toNat)) }
/-- A write of FPSTAT clears each flag written 1 (R27). -/
def writeFpstat (v : Word) (x : Strand) : Strand := { x with fpstat := x.fpstat &&& ~~~(v.truncate 5) }

/-- BINDTAB_WRITE: the side of csrw that writes BINDTAB (R32). -/
def execBindtabWrite (v : Word) (s : State) : Host.Outcome State Fault Refusal := .next (s.modMe (writeBindtab v))
/-- WATCHDOG_WRITE: the side of csrw that writes WATCHDOG (R103). -/
def execWatchdogWrite (v : Word) (s : State) : Host.Outcome State Fault Refusal := .next (s.modMe (writeWatchdog v))
/-- FPSTAT_WRITE: the side of csrw that writes FPSTAT (R27, R28). -/
def execFpstatWrite (v : Word) (s : State) : Host.Outcome State Fault Refusal := .next (s.modMe (writeFpstat v))

/-- The pair that takes over: the lowest-numbered healthy one that is not the leader (R322). -/
def State.successor (s : State) : Option Nat := s.pairs.toList.findIdx? fun p => p.healthy && !p.leader

/-- The leader's heartbeat is three milliseconds late: a takeover is under way (R322). -/
def State.takeover (s : State) : Bool := decide (s.lastBeat + 3 * Config.msCycles ≤ s.cycle)

/-- A heartbeat is published: it takes effect only from the leader, while its pair runs (R320 to R322); one that comes during a takeover does
not end it (log 82). -/
def publishBeat (s : State) (d : Nat) (v : Word) : State :=
  if ((s.pairs.toList)[d]?.map fun p => p.leader && p.healthy).getD false then
    { s with
      heartbeat := v.truncate 32
      lastBeat := if s.takeover && s.successor.isSome then s.lastBeat else s.cycle
      pairs := s.pairs.map fun p => { p with beat := v.truncate 32 } }
  else s

/-- The writable fields of a strand's control registers take the bits of v (R27, R107). -/
def csrWrite (c : Nat) (v : Word) (x : Strand) : Strand :=
  match c with
  | 0x001 => { x with rm := v.truncate 2 }
  | 0x002 => writeFpstat v x
  | 0x011 => writeBindtab v x
  | 0x012 => { x with bufbase := v.extractLsb' 9 8 }
  | 0x020 => { x with deadline := v.truncate 32 }
  | 0x022 => writeWatchdog v x
  | 0x030 => { x with trapvec := v.extractLsb' 2 55 }
  | 0x031 => { x with trappc := v }
  | 0x032 => { x with trapcause := v.truncate 10 }
  | 0x033 => { x with fltseq := v.truncate 32 }
  | 0x041 => { x with ctxid := v.truncate 32 }
  | 0x042 => { x with savearea := v.extractLsb' 12 45 }
  | _ => x

/-- The writable fields of ACCOWN (R27). -/
def ownFields (v : Word) : Word := v &&& 0x800FFFFFFFFFFFFF

/-- A change of ACCOWN has begun for the context of strand k (R22, R242). -/
def Strand.ownWrite (x : Strand) (k : Nat) (v : Word) (touch : Bool) : OwnWrite := ⟨v, k, none, [], false, x.space, x.saveBase, none, touch⟩

/-- csrw (R107); a write of ACCOWN waits for its own step (R22, R242). -/
def execCsrw (x : BitVec 4) (c : BitVec 12) (s : State) : Host.Outcome State Fault Refusal :=
  run (.csrw x c) s fun s =>
    let v := s.me.sreg x
    if csrPrivileged c.toNat && s.me.mode = .task then .error (.trap .privilege)
    else if c.toNat = 0x040 then
      if s.me.phase = 1 then .ok s
      else match s.here.ownPending with
        | none => .error (.wait (s.modHere fun y => { y with ownPending := some (s.me.ownWrite s.cur.2 (ownFields v) false) }))
        | some _ => .error (.wait s)
    else if c.toNat = 0x091 then .ok (publishBeat s (dieOf s.cur.1) v)
    else .ok (s.modMe (csrWrite c.toNat v))

/-! ACCOWN's own step (R242). -/

/-- Whose image moves: the brick, the strand and pc that its messages name, the space and save area of the context (R242). -/
structure ImageIo where
  b : Nat
  k : Nat
  pc : Word
  space : Nat
  base : Nat
deriving DecidableEq, Repr

/-- Why the moving of an image stops: it waits for a home, or one of its lines faults. -/
inductive ImageStop where
  | wait
  | post (p : Post)
deriving DecidableEq, Repr

/-- What the moving of an image comes to: the state, the answers with SKIP for each line done, and why it stops short, if it does. -/
structure ImageStep where
  s : State
  ans : List (Nat × Answer)
  stop : Option ImageStop
deriving DecidableEq, Repr

/-- A line of an accumulator image: its address and place; none where an answer of the fault service skips it (R242). -/
def imageLine (s : State) (i : ImageIo) (off ord : Nat) (ans : List (Nat × Answer)) (rd : Bool) : Except Post (Option (Nat × Nat × State)) :=
  match ans.find? (fun a => a.1 = ord) with
  | some (_, .skip) => .ok none
  | a =>
    let ea := match a with
      | some (_, .redirect w) => w.toNat
      | _ => i.base + off
    match s.check i.b i.space ea (if rd then needMatrix true false .sealedLoad else needMatrix false true .sealedStore) with
    | .ok (p, s') =>
      if rd ∧ s.homeReady p.pa ∧ s.readBad i.b i.space ea p.pa 64 then
        .error { code := .poison, access := .matrix, addr := BitVec.ofNat 64 ea, ord := ord }
      else .ok (some (ea, p.pa, s'))
    | .error c => .error { code := c, access := .matrix, addr := BitVec.ofNat 64 ea, ord := ord }

/-- A line or ACCIMG of an image written at its home; one that its home drops is reported, and the step goes on (R242, R316, R323). -/
def imagePut (s : State) (i : ImageIo) (off ord : Nat) (ans : List (Nat × Answer)) (l : List Byte) : ImageStep :=
  match imageLine s i off ord ans false with
  | .error p => ⟨s, ans, some (.post p)⟩
  | .ok none => ⟨s, ans, none⟩
  | .ok (some (ea, pa, t)) =>
    match homeAct t i.b i.space ea pa (.write (l.map some)) with
    | none => ⟨t, ans, some .wait⟩
    | some (.error c) => ⟨t.report i.b i.k i.space c .matrix i.pc (BitVec.ofNat 64 ea) 0, (ord, .skip) :: ans, none⟩
    | some (.ok t) => ⟨t, (ord, .skip) :: ans, none⟩

/-- Lines n, n+1, … of an image are written (R242). -/
def imageOut (i : ImageIo) (s : State) (ans : List (Nat × Answer)) : List (Nat × List Byte) → ImageStep
  | [] => ⟨s, ans, none⟩
  | (n, l) :: t =>
    let r := imagePut s i (0x1000 + 64 * n) (3000 + n) ans l
    if r.stop.isSome then r else imageOut i r.s r.ans t

/-- A line or ACCIMG of an image as it is read at its home; none where it is skipped. -/
def imageGet (s : State) (i : ImageIo) (off ord : Nat) (ans : List (Nat × Answer)) (n : Nat) : Except ImageStop (Option (List Byte × State)) :=
  match imageLine s i off ord ans true with
  | .error p => .error (.post p)
  | .ok none => .ok none
  | .ok (some (_, pa, t)) => if t.homeReady pa then .ok (some (t.bytes pa n, t)) else .error .wait

/-- Lines of an image are read for the accumulator, from the lines that it holds: a skipped line leaves its part unchanged, and so do all that
follow a stop (R242). -/
def imageIn (i : ImageIo) (s : State) (ans : List (Nat × Answer)) : List (Nat × List Byte) → List Byte × ImageStep
  | [] => ([], ⟨s, ans, none⟩)
  | (n, old) :: t =>
    match imageGet s i (0x1000 + 64 * n) (3100 + n) ans 64 with
    | .error e => (old ++ (t.map (·.2)).flatten, ⟨s, ans, some e⟩)
    | .ok none => let r := imageIn i s ans t; (old ++ r.1, r.2)
    | .ok (some (l, s)) => let r := imageIn i s ((3100 + n, .skip) :: ans) t; (l ++ r.1, r.2)

/-- The accumulator's 64 lines. -/
def accLines (a : Acc) : List (Nat × List Byte) := (toLines 64 (accBytes a)).zipIdx.map fun q => (q.2, q.1)

/-- The image comes into the accumulator, and its ACCIMG is cleared (R242). -/
def loadImage (i : ImageIo) (s : State) (ans : List (Nat × Answer)) : ImageStep :=
  let (l, r) := imageIn i s ans (accLines (s.brick i.b).acc)
  let s := r.s.modBrick i.b fun x => { x with acc := BitVec.ofNat 32768 (leNat l) }
  if r.stop.isSome then { r with s := s } else imagePut s i 0x2000 3201 r.ans (leBytes 8 0)

/-- Step 4 of R242: a displaced image of the new owner comes back, and its ACCIMG is cleared; access 3203 stands for an ACCIMG that has been
read as 1. -/
def takeImage (i : ImageIo) (s : State) (ans : List (Nat × Answer)) : ImageStep :=
  if ans.any fun a => a.1 = 3203 then loadImage i s ans
  else match imageGet s i 0x2000 3200 ans 8 with
    | .error e => ⟨s, ans, some e⟩
    | .ok none => ⟨s, ans, none⟩
    | .ok (some (l, s)) => if leNat l ≠ 1 then ⟨s, ans, none⟩ else loadImage i s ((3203, .skip) :: ans)

/-- Step 2 of R242: the former owner's image goes out, and its ACCIMG is set unless that context has ended meanwhile. -/
def giveImage (i : ImageIo) (s : State) (ans : List (Nat × Answer)) (lost : Bool) : ImageStep :=
  let r := imageOut i s ans (accLines (s.brick i.b).acc)
  if r.stop.isSome || lost then r else imagePut r.s i 0x2000 3202 r.ans (leBytes 8 1)

/-- A fault of ACCOWN's step: a message to the space concerned, and the step waits (R242). -/
def ownFault (s : State) (i : ImageIo) (w : OwnWrite) (p : Post) : State :=
  let tok := s.nextId % 2 ^ 32
  ((s.bumpId.modBrick i.b fun x => { x with ownPending := some { w with tok := some (tok, p.ord, p.code) } }).trace i.b (Fin.ofNat 5 i.k) 4 0
    (BitVec.ofNat 64 p.code.num)).sendFault ⟨i.space, p.code, i.b, i.k, .matrix, false, i.pc, p.addr, 0, tok⟩

/-- The step stops short: it is held until its home takes it, or its fault is posted. -/
def ownStop (s : State) (i : ImageIo) (w : OwnWrite) : ImageStop → State
  | .wait => s.modBrick i.b fun y => { y with ownPending := some w }
  | .post p => ownFault s i w p

/-- The former owner whose image step 2 writes out, once it has begun (R242): its key, space and save area. -/
def OwnWrite.former (w : OwnWrite) (y : Brick) : Option (Nat × Nat × Nat) :=
  if w.old.isSome then w.old
  else if y.accown.getLsbD 63 ∧ y.accown ≠ w.v then
    let space := bits y.accown.toNat 51 32
    some (space + 2 ^ 20 * bits y.accown.toNat 31 0, space, y.ownSave.toNat)
  else none

/-- Steps 3 and 4 of R242: ACCOWN takes its new value with the SAVEAREA of the context that it names, whose image comes back; with that the
change is complete, and a csrw goes on. -/
def ownTake (s : State) (b : Nat) (w : OwnWrite) : State :=
  let i : ImageIo := ⟨b, w.strand, ((s.brick b).strand (Fin.ofNat 5 w.strand)).pc, w.space, w.save⟩
  let s := s.modBrick b fun y => { y with accown := w.v, ownSave := if w.v.getLsbD 63 then BitVec.ofNat 64 w.save else y.ownSave }
  let r : ImageStep := if w.v.getLsbD 63 then takeImage i s w.answers else ⟨s, w.answers, none⟩
  match r.stop with
  | some e => ownStop r.s i { w with answers := r.ans, old := none } e
  | none =>
    let t := r.s.modBrick b fun y => { y with ownPending := none }
    if w.touch then t else t.modStrand b (Fin.ofNat 5 w.strand) fun x => { x with phase := 1 }

/-- ACCOWN_WRITE: once the former owner's fired commands are complete, its image goes out, ACCOWN is written, and the new
owner's image comes back (R22, R242); a first touch has no former owner. -/
def execAccownWrite (b : Nat) (s : State) : Host.Outcome State Fault Refusal :=
  .next (match (s.brick b).ownPending with
  | none => s
  | some w =>
    let y := s.brick b
    if w.tok.isSome ∨ y.firedOf (bits y.accown.toNat 51 32 + 2 ^ 20 * bits y.accown.toNat 31 0) then s
    else match w.former y with
      | none => ownTake s b w
      | some q =>
        let i : ImageIo := ⟨b, w.strand, (y.strand (Fin.ofNat 5 w.strand)).pc, q.2.1, q.2.2⟩
        let r := giveImage i s w.answers w.lost
        let w := { w with answers := r.ans, old := some q }
        match r.stop with
        | some e => ownStop r.s i w e
        | none => ownTake r.s b { w with old := none })

end Sys2Proof.Machine
end

