-- ==== Sys2Proof/Machine/LoadStore.lean ====
section
/-! DEFINITION. Scalar loads and stores (R110 to R114), atomics (R119 to R121), and the steps that perform loads and atomics at
their homes and carry retired accesses there (R111, R112, R114, R349). -/

namespace Sys2Proof.Machine

/-! Loads (R110, R111). -/

/-- The value of n loaded bytes, extended (R110). -/
def extend (n : Nat) (signed : Bool) (x : Nat) : Word := if signed then BitVec.ofInt 64 (toS x (8 * n)) else BitVec.ofNat 64 (x % 2 ^ (8 * n))

/-- How an access that loads goes on after its checks: its bytes are there, or it is on its way (R111, R115). -/
inductive Loaded where
  | now (l : List Byte) (s : State)
  | later (a : PAcc) (s : State)
deriving DecidableEq, Repr

/-- One access of n bytes at a checked place: at home when the own brick is the home, from the RRB on a hit, else on its way
(R111, R112, R168). home: HOME is set; off: its place in the operation's buffer; seq: the operation's ring entry. -/
def loadAt (s : State) (ord : Nat) (ea : Word) (p : Place) (n off : Nat) (home : Bool) (cls : Access) (seq : BitVec 32) :
    Except Stop Loaded :=
  let acc : PAcc := ⟨ea, p.pa, n, off, none, home || s.me.noAlloc || !rrbClass p.pa, s.here.epoch, s.here.rrbCuts.length, .pending⟩
  if paClass p.pa = 4 ∧ p.pa < 2 ^ 52 then
    match apertureFault s.cur.1 p.pa n false with
    | some c => .error (.post ⟨c, cls, ea, ord, seq, []⟩)
    | none => .ok (.later acc s)
  else if homeHere s.cur.1 p.pa then
    if s.ownBusy then .error (.wait s)
    else if s.readPoison p.pa n then .error (.post ⟨.poison, cls, ea, ord, seq, []⟩)
    else .ok (.now (s.bytes p.pa n) s)
  else
    match (if home then none else s.here.rrbHit s.me.space ea.toNat n) with
    | some l => .ok (.now l s)
    | none => .ok (.later acc s)

/-- A scalar load (R111): SKIP returns zero; a fault opens no window. -/
def loadBody (n : Nat) (signed : Bool) (d b : BitVec 4) (o : BitVec 11) (L : BitVec 4) (s : State) : Except Stop State := do
  gate s 0
  let ea := s.me.sreg b + s.imm 11 o.toNat * BitVec.ofNat 64 n
  match ← reach s 0 ea n needLoad 0 with
  | .skip => .ok (s.addOp { (newOp s L .plain none) with done := true, commit := ⟨some (d, 0), [], false⟩ })
  | .at ea p s =>
    let s := s.traceMe 3 0 ea
    match ← loadAt s 0 ea p n 0 s.me.home .load 0 with
    | .now l s => .ok (s.addOp { (newOp s L .plain none) with done := true, commit := ⟨some (d, extend n signed (leNat l)), [], false⟩ })
    | .later a s => .ok (s.addOp { (newOp s L (.load n signed d) none) with accs := [a] })

/-- ld.b (R110). -/
def execLdB (d b : BitVec 4) (o : BitVec 11) (l : BitVec 4) (s : State) : Host.Outcome State Fault Refusal :=
  run (.ldB d b o l) s (loadBody 1 false d b o l)

/-- ld.bs (R110). -/
def execLdBs (d b : BitVec 4) (o : BitVec 11) (l : BitVec 4) (s : State) : Host.Outcome State Fault Refusal :=
  run (.ldBs d b o l) s (loadBody 1 true d b o l)

/-- ld.h (R110). -/
def execLdH (d b : BitVec 4) (o : BitVec 11) (l : BitVec 4) (s : State) : Host.Outcome State Fault Refusal :=
  run (.ldH d b o l) s (loadBody 2 false d b o l)

/-- ld.hs (R110). -/
def execLdHs (d b : BitVec 4) (o : BitVec 11) (l : BitVec 4) (s : State) : Host.Outcome State Fault Refusal :=
  run (.ldHs d b o l) s (loadBody 2 true d b o l)

/-- ld.w (R110). -/
def execLdW (d b : BitVec 4) (o : BitVec 11) (l : BitVec 4) (s : State) : Host.Outcome State Fault Refusal :=
  run (.ldW d b o l) s (loadBody 4 false d b o l)

/-- ld.ws (R110). -/
def execLdWs (d b : BitVec 4) (o : BitVec 11) (l : BitVec 4) (s : State) : Host.Outcome State Fault Refusal :=
  run (.ldWs d b o l) s (loadBody 4 true d b o l)

/-- ld.d (R110). -/
def execLdD (d b : BitVec 4) (o : BitVec 11) (l : BitVec 4) (s : State) : Host.Outcome State Fault Refusal :=
  run (.ldD d b o l) s (loadBody 8 false d b o l)

/-! Stores (R113, R114). -/

/-- A scalar store of n bytes (R113). -/
def storeBody (n : Nat) (d b : BitVec 4) (o : BitVec 11) (s : State) : Except Stop State :=
  let ea := s.me.sreg b + s.imm 11 o.toNat * BitVec.ofNat 64 n
  storeAccess s 0 ea n n (.write ((leBytes n (s.me.sreg d).toNat).map some)) .store

/-- st.b (R113). -/
def execStB (d b : BitVec 4) (o : BitVec 11) (s : State) : Host.Outcome State Fault Refusal :=
  run (.stB d b o) s (storeBody 1 d b o)

/-- st.h (R113). -/
def execStH (d b : BitVec 4) (o : BitVec 11) (s : State) : Host.Outcome State Fault Refusal :=
  run (.stH d b o) s (storeBody 2 d b o)

/-- st.w (R113). -/
def execStW (d b : BitVec 4) (o : BitVec 11) (s : State) : Host.Outcome State Fault Refusal :=
  run (.stW d b o) s (storeBody 4 d b o)

/-- st.d (R113). -/
def execStD (d b : BitVec 4) (o : BitVec 11) (s : State) : Host.Outcome State Fault Refusal :=
  run (.stD d b o) s (storeBody 8 d b o)

/-! Atomics (R119, R120). -/

/-- The atomic of an instruction's fields: ORD[2] gives the width (R80, R119). -/
def amoOf (s : State) (op : AmoOp) (d v o : BitVec 4) : Amo :=
  let n := if o.getLsbD 2 then 8 else 4
  ⟨op, n, (s.me.sreg v).toNat % 2 ^ (8 * n), (s.me.sreg d).toNat % 2 ^ (8 * n)⟩

/-- An atomic (R120): .rel and .ar drain unless the scope is .b; the no-return form retires like a store; the others deliver the
old value at window close, and .acq and .ar hold later S-path accesses. -/
def amoBody (op : AmoOp) (d b v : BitVec 4) (sc : BitVec 3) (o L : BitVec 4) (s : State) : Except Stop State := do
  gate s 0
  let a := amoOf s op d v o
  let ea := s.me.sreg b
  if ea.toNat % a.n ≠ 0 then .error (.trap .misaligned)
  else if o.getLsbD 1 ∧ sc ≠ 0 ∧ s.me.unacked ≠ 0 then .error (.wait s)
  else if o.getLsbD 3 then storeAccess s 0 ea a.n a.n (.amo a) .atomic
  else
    match ← reach s 0 ea a.n needAtomic 0 with
    | .skip => .ok (s.addOp { (newOp s L .plain none) with done := true, commit := ⟨some (d, 0), [], false⟩ })
    | .at ea p s =>
      let s := s.traceMe 3 2 ea
      if paClass p.pa = 4 ∧ p.pa < 2 ^ 52 then .error (.post ⟨.rights, .atomic, ea, 0, 0, []⟩)
      else if homeHere s.cur.1 p.pa then
        if s.ownBusy then .error (.wait s)
        else if s.inDeque p.pa then .error (.post ⟨.rights, .atomic, ea, 0, 0, []⟩)
        else if s.readPoison p.pa a.n then .error (.post ⟨.poison, .atomic, ea, 0, 0, []⟩)
        else
          let (old, t) := amoStep (noteCode s s.cur.1 s.cur.2 p.pa a.n) a p.pa
          .ok (t.addOp { (newOp s L .plain none) with done := true, commit := ⟨some (d, BitVec.ofNat 64 old), [], false⟩ })
      else
        let s := s.modHere fun x => x.rrbDrop s.me.space ea.toNat a.n
        .ok (s.addOp { (newOp s L (.load a.n false d) none) with
          hold := o.getLsbD 0
          accs := [⟨ea, p.pa, a.n, 0, some a, true, s.here.epoch, s.here.rrbCuts.length, .pending⟩] })

/-- amo.add (R119, R120). -/
def execAmoAdd (d b v : BitVec 4) (x : BitVec 3) (o l : BitVec 4) (s : State) : Host.Outcome State Fault Refusal :=
  run (.amoAdd d b v x o l) s (amoBody .add d b v x o l)

/-- amo.xchg (R119, R120). -/
def execAmoXchg (d b v : BitVec 4) (x : BitVec 3) (o l : BitVec 4) (s : State) : Host.Outcome State Fault Refusal :=
  run (.amoXchg d b v x o l) s (amoBody .xchg d b v x o l)

/-- amo.cas (R119, R120). -/
def execAmoCas (d b v : BitVec 4) (x : BitVec 3) (o l : BitVec 4) (s : State) : Host.Outcome State Fault Refusal :=
  run (.amoCas d b v x o l) s (amoBody .cas d b v x o l)

/-- amo.min (R119, R120). -/
def execAmoMin (d b v : BitVec 4) (x : BitVec 3) (o l : BitVec 4) (s : State) : Host.Outcome State Fault Refusal :=
  run (.amoMin d b v x o l) s (amoBody .min d b v x o l)

/-- amo.max (R119, R120). -/
def execAmoMax (d b v : BitVec 4) (x : BitVec 3) (o l : BitVec 4) (s : State) : Host.Outcome State Fault Refusal :=
  run (.amoMax d b v x o l) s (amoBody .max d b v x o l)

/-- amo.and (R119, R120). -/
def execAmoAnd (d b v : BitVec 4) (x : BitVec 3) (o l : BitVec 4) (s : State) : Host.Outcome State Fault Refusal :=
  run (.amoAnd d b v x o l) s (amoBody .and d b v x o l)

/-- amo.or (R119, R120). -/
def execAmoOr (d b v : BitVec 4) (x : BitVec 3) (o l : BitVec 4) (s : State) : Host.Outcome State Fault Refusal :=
  run (.amoOr d b v x o l) s (amoBody .or d b v x o l)

/-- amo.xor (R119, R120). -/
def execAmoXor (d b v : BitVec 4) (x : BitVec 3) (o l : BitVec 4) (s : State) : Host.Outcome State Fault Refusal :=
  run (.amoXor d b v x o l) s (amoBody .xor d b v x o l)

/-! Operations whose accesses are performed one by one. -/

/-- The number with n bytes of a list put at byte off. -/
def putBytes (buf off : Nat) (l : List Byte) : Nat :=
  let n := leNat l
  let old := buf / 256 ^ off % 256 ^ l.length
  buf - old * 256 ^ off + n * 256 ^ off

/-- Lanes of a decoding load (R137, R52): bytes from ea on, lane k at its block; lanes fed by a skipped line are +0. -/
def decodeLanes (bytes : List Byte) (ea : Nat) (geom n : Nat) (skips : List Nat) : List Nat :=
  let g := geomCodes geom
  let bb := geomBytes geom
  (List.range n).map fun k =>
    let o := k / g * bb
    let dropped (a : Nat) : Bool := skips.contains (lineOf (ea + a))
    if dropped o || dropped (o + 3) || dropped (o + 4 + k % g / 2) then 0
    else decode4 ((bytes.drop o).take bb) (k % g)

/-- The offset of the first invalid scale word that the active lanes of a decoding access use (R53, R132). -/
def badScale (mask : PReg) (bytes : List Byte) (ea geom n : Nat) (skips : List Nat) : Option Nat :=
  let g := geomCodes geom
  ((List.range ((n + g - 1) / g)).find? fun i =>
    let o := i * geomBytes geom
    scaleBad (leNat ((bytes.drop o).take 4)) && !skips.contains (lineOf (ea + o)) && !skips.contains (lineOf (ea + o + 3)) &&
      (List.range g).any fun k => decide (i * g + k < n) && activeLane mask (i * g + k)).map (· * geomBytes geom)

/-- Two registers' worth of 16-bit lanes. -/
def lanesV (l : List Nat) : VReg × VReg := (buildV 2 fun j => l.getD j 0, buildV 2 fun j => l.getD (32 + j) 0)

/-- The register results of vector d, and of d + 1 for a pair. -/
def pairCommit (d : BitVec 5) (pair : Bool) (v : VReg × VReg) (mask : PReg) (zero : Bool) : Commit :=
  ⟨none, (d, v.1, mask) :: (if pair then [(d + 1, v.2, mask)] else []), zero⟩

/-- Bytes that a decoding load reads (R137). -/
def decodeBytes (geom : Nat) (pair : Bool) : Nat :=
  let n := if pair then 64 else 32
  let g := geomCodes geom
  n / g * geomBytes geom + (if n % g = 0 then 0 else 4 + n % g / 2)

/-- An operation all of whose accesses are performed: its result is known (R111, R137, R140). -/
def Op.complete (o : Op) : Op :=
  match o.kind with
  | .load n sg d => { o with done := true, commit := { o.commit with sc := some (d, extend n sg o.buf) } }
  | .vload d pair mask =>
    let v := (BitVec.ofNat 512 o.buf, BitVec.ofNat 512 (o.buf / 2 ^ 512))
    { o with done := true, commit := pairCommit d pair v mask o.commit.zero }
  | .vdecode d pair geom mask ea skips =>
    let n := if pair then 64 else 32
    let v := lanesV (decodeLanes (leBytes (decodeBytes geom pair) o.buf) ea.toNat geom n skips)
    { o with done := true, commit := pairCommit d pair v (activeLanes mask 2) o.commit.zero }
  | .gather d _ mask => { o with done := true, commit := ⟨none, [(d, BitVec.ofNat 512 o.buf, mask)], o.commit.zero⟩ }
  | _ => { o with done := true }

/-- Every access of the operation is done. -/
def Op.allDone (o : Op) : Bool := o.accs.all fun a => a.st = .done

/-- An operation of strand k of brick b goes on once its last access is performed: a decoding load with an invalid scale word
takes a faulted ring entry first, and waits while that entry is in use (R137); a gather's entry frees (R140). -/
def finishOp (s : State) (b : Nat) (k : Fin 5) (id : Nat) : State :=
  match (s.strand b k).ops.find? (fun o => o.id = id) with
  | none => s
  | some o =>
    if !o.allDone || o.done then s
    else
      let put (s : State) : State := s.modBrick b fun x => (x.modOp id Op.complete).freeSeq (s.strand b k).ctxKey o.seq
      match o.kind with
      | .vdecode _ pair geom mask ea skips =>
        let n := if pair then 64 else 32
        match badScale mask (leBytes (decodeBytes geom pair) o.buf) ea.toNat geom n skips with
        | none => put s
        | some off =>
          let x := s.strand b k
          let q := x.seqNext
          if x.ring.any (fun e => e.seq.toNat % 64 = q.toNat % 64) then s
          else
            let w := fetchRaw s b x o.pc
            put (s.modStrand b k fun x =>
              { x with
                seqNext := q + 1
                lates := x.lates ++ [⟨.scaleInvalid, q⟩]
                ring := x.ring ++ [⟨q, 2, some .scaleInvalid, o.pc, w, 0, ea + BitVec.ofNat 64 off, x.ctxKey, false⟩] })
      | _ => put s
where
  /-- The instruction word at a PC, for the ring entry's INSN (R24). -/
  fetchRaw (s : State) (b : Nat) (x : Strand) (pc : Word) : IWord :=
    match s.check b x.space pc.toNat needFetch with
    | .ok (p, _) => BitVec.ofNat 32 (s.num p.pa 4)
    | .error _ => 0

/-- Access class of an operation's accesses (R116). -/
def Op.access (o : Op) (a : PAcc) : Access :=
  if a.amo.isSome then .atomic
  else match o.kind with
    | .gather _ _ _ => .gather
    | _ => .load

/-- Two ranges of physical addresses share a location: a double of SRAM, or a 64-byte line of other memory (R115 rule 1). -/
def sameLocation (p n q m : Nat) : Bool :=
  let u := poisonUnit p
  decide (p / u ≤ (q + m - 1) / u) && decide (q / u ≤ (p + n - 1) / u)

/-- An earlier access of the same operation to the same line, or to the same location for a gather, is still under way (R115 rule 3,
R141). -/
def earlierAcc (o : Op) (i : Nat) (a : PAcc) : Bool :=
  (o.accs.take i).any fun c => (c.st = .pending || c.st = .host || c.st = .retry) &&
    if o.isGather then sameLocation c.pa c.len a.pa a.len else decide (c.pa / 64 = a.pa / 64)

/-- Access i of the operation is performed with these bytes: they go to its buffer. -/
def putAcc (o : Op) (i : Nat) (l : List Byte) : Op :=
  match o.accs[i]? with
  | none => o
  | some a =>
    { o with
      buf := putBytes o.buf a.off l
      accs := o.accs.zipIdx.map fun q => if q.2 = i then { q.1 with st := .done } else q.1 }

/-- A fault met at home by an access in flight: its message goes out, and the task blocks at the window's close (R111, R140,
R349). On the message strand it is answered at once as SKIP and reported (R187). -/
def faultAcc (s : State) (b : Nat) (k : Fin 5) (o : Op) (i : Nat) (c : Code) (cls : Access) : State :=
  let tok := s.nextId % 2 ^ 32
  let a := (o.accs[i]?.map (·.ea)).getD 0
  let s := s.trace b k 4 0 (BitVec.ofNat 64 c.num)
  let m (r : Bool) (tok : Nat) : FaultMsg := ⟨o.space, c, b, k, cls, r, o.pc, a, o.seq.getD 0, tok⟩
  if isMessage b k then
    (finishOp (s.modBrick b fun x => x.modOp o.id fun o => putAcc o i (List.replicate ((o.accs[i]?.map (·.len)).getD 0) 0)) b k o.id).sendFault
      (m true 0)
  else
    let s := s.bumpId.modBrick b fun x => x.modOp o.id fun o =>
      { o with accs := o.accs.zipIdx.map fun q => if q.2 = i then { q.1 with st := .faulted tok c } else q.1 }
    s.sendFault (m false tok)

/-- What an access of an operation needs (R109, R140). -/
def Op.need (o : Op) (a : PAcc) : Need :=
  if a.amo.isSome then needAtomic
  else match o.kind with
    | .gather _ _ _ => needGather false
    | _ => needLoad

/-- An access that a reply let issue again: R109 from its step 2 on, at its address (R117). -/
def reissueAcc (s : State) (b : Nat) (k : Fin 5) (o : Op) (i : Nat) (a : PAcc) : State :=
  match s.check b o.space a.ea.toNat (o.need a) with
  | .error c => faultAcc s b k o i c (o.access a)
  | .ok (p, s') =>
    if o.isGather ∧ p.attr.fmt = .b4 then faultAcc s b k o i .formatMismatch .gather
    else match (if paClass p.pa = 4 ∧ p.pa < 2 ^ 52 then
        (if o.isGather ∨ a.amo.isSome then some Code.rights else apertureFault b p.pa a.len false) else none) with
      | some c => faultAcc s b k o i c (o.access a)
      | none => s'.modBrick b fun x => x.modOp o.id fun o =>
          { o with accs := o.accs.zipIdx.map fun q => if q.2 = i then { q.1 with st := .pending, pa := p.pa, epoch := x.epoch, cut := x.rrbCuts.length } else q.1 }

/-- LOAD_RESPONSE: an access on its way is performed at home, and the RRB may take its line (R111, R112, R115, R120, R246). -/
def loadResponse (s : State) (b : Nat) (k : Fin 5) (o : Op) (i : Nat) (a : PAcc) : State :=
  if a.st = .retry then reissueAcc s b k o i a
  else if a.st ≠ .pending ∨ !s.mayReach o.id a.pa ∨
      (!o.isGather ∧ s.lineBusy b k o.id o.space a.ea.toNat (some a.pa)) ∨ earlierAcc o i a then s
  else if paClass a.pa = 4 ∧ a.pa < 2 ^ 52 then
    let t := (s.modBrick b fun x => x.modOp o.id fun o => putAcc o i (s.apertureBytes a.pa a.len)).bumpFree
    let t := if bits a.pa 16 12 = 2 ∧ s.worldOf (paBrick a.pa / 4096) ≠ 0 then t.report b k o.space .sealedDebug .load o.pc a.ea 0 else t
    finishOp t b k o.id
  else if s.readBad b o.space a.ea.toNat a.pa a.len then faultAcc s b k o i .poison (o.access a)
  else
    match a.amo with
    | some m =>
      if s.atomHeld o.space a.pa then s
      else if s.inDeque a.pa then faultAcc s b k o i .rights .atomic
      else if needsFallback s m a.pa then
        pushFallback (s.modBrick b fun x => x.modOp o.id fun o =>
          { o with accs := o.accs.zipIdx.map fun q => if q.2 = i then { q.1 with st := .host } else q.1 }) o.space b o.id i m a.pa
      else
        let (old, t) := amoStep (noteBy s b k o.space a.pa m.n) m a.pa
        finishOp ((wakeFor t a.pa b).modBrick b fun x => x.modOp o.id fun o => putAcc o i (leBytes m.n old)) b k o.id
    | none =>
      let s' := (s.modBrick b fun x => x.modOp o.id fun o => putAcc o i (s.bytes a.pa a.len)).bumpFree
      let line := s.bytes (a.pa / 64 * 64) 64
      let fills := !a.nofill && !s.readPoison (a.pa / 64 * 64) 64 && a.epoch = (s.brick b).epoch &&
        !(s.brick b).cutSince a.cut o.space (lineOf a.ea.toNat)
      let s' := if fills then s'.modBrick b fun x => x.rrbFill o.space (lineOf a.ea.toNat) line else s'
      finishOp s' b k o.id
where
  /-- A write from another brick wakes the strands of the SRAM's brick (R95). -/
  wakeFor (s : State) (pa b : Nat) : State := if paClass pa = 0 ∧ paBrick pa ≠ b then wakeBrick s (paBrick pa) else s

/-- LOAD_RESPONSE (R111). -/
def execLoadResponse (b op i : Nat) (s : State) : Host.Outcome State Fault Refusal :=
  .next (match (s.brick b).findOp op with
  | none => s
  | some (k, o) =>
    match o.accs[i]? with
    | none => s
    | some a => if o.allDone ∧ !o.done then finishOp s b k op else loadResponse s b k o i a)

/-- RRB_EVICTION: any line may go at any time (R112). -/
def execRrbEviction (b n : Nat) (s : State) : Host.Outcome State Fault Refusal :=
  .next (s.modBrick b fun x => { x with rrb := x.rrb.eraseIdx n })

/-! Retired accesses arrive and are acknowledged (R114, R245). -/

/-- The scatter that a retired element belongs to has one element less to perform; its ring entry frees with the last (R140,
R141). -/
def scatterDone (s : State) (b : Nat) (op : Option Nat) : State :=
  match op with
  | none => s
  | some id =>
    let f (o : Op) : Op := match o.kind with
      | .scatter n => { o with kind := .scatter (n - 1), done := decide (n ≤ 1) }
      | _ => o
    let s := s.modBrick b fun x => x.modOp id f
    match (s.brick b).findOp id with
    | some (k, o) =>
      if o.done then
        let s := s.modBrick b fun x => x.freeSeq (s.strand b k).ctxKey o.seq
        if o.left.isNone then s.modBrick b fun x => { x with strands := x.strands.map fun t => { t with ops := t.ops.filter fun o => o.id ≠ id } } else s
      else s
    | none =>
      match (s.brick b).findAwayOp id with
      | some (c, o) =>
        if o.done then s.modBrick b fun x =>
          { (x.freeSeq (c.space + 2 ^ 20 * c.ctxid.toNat) o.seq) with
            ready := x.ready.map (fun c => { c with ops := c.ops.filter fun o => o.id ≠ id })
            away := x.away.map (fun c => { c with ops := c.ops.filter fun o => o.id ≠ id })
            kept := x.kept.map fun c => { c with ops := c.ops.filter fun o => o.id ≠ id } }
        else s
      | none => s

/-- Flight n of brick b with a change. -/
def modFlight (s : State) (b id : Nat) (f : Flight → Flight) : State :=
  s.modBrick b fun x => { x with flights := x.flights.map fun q => if q.id = id then f q else q }

/-- A retired access is dropped and reported (R114, R260). -/
def dropFlight (s : State) (b : Nat) (f : Flight) (c : Code) : State :=
  let s := modFlight s b f.id fun f => { f with arrived := true }
  scatterDone (s.report b f.strand f.space c f.access f.pc f.ea 0) b f.op

/-- A place in a window of class 4 that belongs to a brick: a copy start waits for its channel (R168, R170). -/
def isStart (pa : Nat) : Bool := paClass pa = 4 && decide (pa < 2 ^ 52) && !pa.testBit 17

/-! User queues as a doorbell reaches them (R304, R305). -/

/-- The queue with a number. -/
def State.queue? (s : State) (q : Nat) : Option Queue := s.queues.find? fun x => x.id = q
/-- The state with a queue changed. -/
def State.modQueue (s : State) (q : Nat) (f : Queue → Queue) : State :=
  { s with queues := s.queues.map fun x => if x.id = q then f x else x }

/-- The die whose distributor serves a queue: 64 slots a die (R310). -/
def Queue.die (q : Queue) : Nat := (q.slot.getD 0) / 64

/-- A physical address in a sealed range (R264). -/
def State.sealedPa (s : State) (pa : Nat) : Bool :=
  s.nodes.any fun n => n.kind = .linear && n.attr.prot = 3 && decide (n.pa ≤ pa) && decide (pa < n.pa + n.len)

/-- The head word's bytes (R304). -/
def Queue.headBytes (x : Queue) : List Byte := leBytes 8 (x.head.toNat + x.err * 2 ^ 56)

/-- The distributor's store of a head word (R304): dropped and reported where its range is sealed by now, its region has timed out or its link
is down (R264, R316, R318),
parked while the host is lost (R323), none while its home does not take it. -/
def headStore (s : State) (x : Queue) : Option State :=
  let drop (c : Code) : State := s.report (pairKey x.die) 0 x.space c .store 0 (BitVec.ofNat 64 x.headVa) 0
  if s.sealedPa x.headAt then some (drop .sealedStore)
  else if s.lapsed = some (x.headAt / 2 ^ 21 * 2 ^ 21) then some (drop .ownershipTimeout)
  else (homeAct s (pairKey x.die) x.space x.headVa x.headAt (.write (x.headBytes.map some))).map fun r => match r with
    | .ok t => t
    | .error c => drop c

/-- The head word is written (R304), or as soon as its home takes it. -/
def writeHead (s : State) (q : Nat) : State :=
  match s.queue? q with
  | some x => (((headStore s x).map fun t => t.modQueue q fun y => { y with stale := false })).getD (s.modQueue q fun y => { y with stale := true })
  | none => s

/-- Head words that are still to be written are tried again. -/
def staleHeads (s : State) : State := (s.queues.filter (·.stale)).foldl (fun s x => writeHead s x.id) s

/-- The queue stops with an error (R304 to R306, R309). -/
def stopQueue (s : State) (q err : Nat) : State := writeHead (s.modQueue q fun x => { x with err := err }) q

/-- TAIL takes a value from the doorbell; more commands than the ring holds stop the queue (R305). -/
def ringDoorbell (s : State) (x : Queue) (v : Nat) : State :=
  let t := BitVec.ofNat 32 v
  let s := s.modQueue x.id fun y => { y with tail := t }
  if x.err = 0 ∧ 2 ^ x.log2n < (t - x.head).toNat then stopQueue s x.id 3 else s

/-- Writes that a class-4 aperture takes from a service pair (R344, R345): TRCTL, TRMATCH and the debug registers. -/
def apertureWrite (x : Brick) (ap off n v : Nat) : Brick :=
  if ap = 1 ∧ off = 0 ∧ n = 8 then
    let keep := x.trctl &&& 0x1FF0000
    let c := v.testBit 25
    { x with trctl := (if c then 0 else keep) ||| (BitVec.ofNat 64 v &&& 0x73F) }
  else if ap = 1 ∧ off = 8 ∧ n = 8 then { x with trmatch := BitVec.ofNat 64 (bits v 56 2 * 4) }
  else if ap = 3 ∧ off = 0 ∧ n = 8 then
    if x.dbg.state = 1 then x
    else 
      let st := if bits v 11 8 = 0 then x.dbg.state else if 5 < bits v 11 8 ∨ 4 ≤ bits v 2 0 then 3 else 1
      { x with dbg := { x.dbg with cmd := BitVec.ofNat 64 v &&& 0x10F07, state := st, code := if bits v 11 8 = 0 then x.dbg.code else 0 } }
  else if ap = 3 ∧ off = 8 ∧ n = 8 then { x with dbg := { x.dbg with sel := BitVec.ofNat 64 v } }
  else if ap = 3 ∧ off = 16 ∧ n = 8 then { x with dbg := { x.dbg with space := BitVec.ofNat 64 (v % 2 ^ 20) } }
  else if ap = 3 ∧ off = 24 ∧ n = 8 then { x with dbg := { x.dbg with pc := BitVec.ofNat 64 (bits v 56 2 * 4) } }
  else if ap = 3 ∧ 64 ≤ off ∧ off + n ≤ 128 then
    { x with dbg := { x.dbg with data := BitVec.ofNat 512 (putBytes x.dbg.data.toNat (off - 64) (leBytes n v)) } }
  else x

/-- The bytes of a store, as a number. -/
def FAct.value : FAct → Nat
  | .write l => leNat (l.map fun o => o.getD 0)
  | _ => 0

/-- A strand's access to a doorbell page: a double stored at offset 0 rings; anything else is dropped and reported with RIGHTS (R305). -/
def ringAt (s : State) (b : Nat) (f : Flight) (d off : Nat) : State :=
  match s.queues.find? fun q => q.door = d with
  | none => dropFlight s b f .notMapped
  | some x =>
    if off ≠ 0 ∨ f.len ≠ 8 ∨ !f.act.isWrite then dropFlight s b f .rights
    else ringDoorbell (modFlight s b f.id fun f => { f with arrived := true }) x f.act.value

/-- A retired access reaches the home of its physical address (R114): written, or dropped and reported. Host writes are posted,
and wait for a flushing read; with the host lost they are parked (R245, R323). A write from another brick, or by the G path, wakes the
brick (R95). DESIGN CHOICE: a scatter element whose home is the deque's region of a brick with tasks is dropped there and reported with
RIGHTS, as a store is: R31 names stores and R140 checks at issue (log 126). -/
def landFlight (s : State) (b : Nat) (f : Flight) (pa : Nat) : State :=
  match performAct (noteBy s b f.strand f.space pa f.len) pa f.act with
  | .error c => dropFlight s b f c
  | .ok t =>
    let posted := paClass pa = 3 && decide (pa < 2 ^ 52)
    let t := modFlight t b f.id fun f => { f with arrived := true, posted := posted }
    let t := if paClass pa = 0 ∧ pa < 2 ^ 52 ∧ (paBrick pa ≠ b ∨ f.access = .gather) then wakeBrick t (paBrick pa) else t
    let t := if posted then postOn t (s.portAt b f.space f.ea.toNat) b f.id else t
    scatterDone t b f.op

/-- What stands against a retired access in a window of class 4: only a plain write may go there (R168, R344, R345). -/
def flightAperture (b pa : Nat) (f : Flight) : Option Code :=
  if !isStart pa then none
  else match apertureFault b pa f.len true with
    | some c => some c
    | none => if f.act.isWrite then none else some .rights

/-- A retired access is translated and checked at the interface (R114, R109 steps 4 to 6): its place is fixed, or it is dropped, as REVOKED
when it finds no mapping. -/
def translateFlight (s : State) (b : Nat) (f : Flight) : State :=
  match s.check b f.space f.ea.toNat f.act.need with
  | .error c => dropFlight s b f (if c = .notMapped ∧ s.unmapped b f.space f.ea.toNat then .revoked else c)
  | .ok (p, s') =>
    match flightAperture b p.pa f with
    | some c => dropFlight s b f c
    | none => modFlight s' b f.id fun q => { q with pa := some p.pa, epoch := (s.brick b).epoch }

/-- The interface translates the retired accesses that it accepted before a number, in that order, as far as they are not yet (R114). -/
def translateUpTo (s : State) (b id : Nat) : State :=
  ((s.brick b).flights.filter fun f => f.pa.isNone && !f.arrived && decide (f.id ≤ id)).foldl (fun s f => translateFlight s b f) s

/-- A retired access that is translated is performed at its home (R114): a store to a copy aperture waits for COPY_START (R168). -/
def arriveFlight (s : State) (b : Nat) (f : Flight) (pa : Nat) : State :=
  if paClass pa ≠ 3 ∧ s.linkDown b f.space f.ea.toNat pa then dropFlight s b f .poison
  else if let some d := doorbellOf pa then ringAt s b f d (bits pa 11 0)
  else if isStart pa then
    if bits pa 16 12 = 0 then s
    else modFlight (s.modBrick (paBrick pa) fun x => apertureWrite x (bits pa 16 12) (bits pa 11 0) f.len f.act.value)
      b f.id fun f => { f with arrived := true }
  else if isHost pa ∧ s.hostHeld f.space then
    match f.act.plain.bind fun l => s.parkAct f.space pa (.write l) with
    | some t => modFlight t b f.id fun f => { f with arrived := true }
    | none => s
  else if !s.mayReach f.id pa then s
  else if s.linkDown b f.space f.ea.toNat pa then dropFlight s b f .poison
  else
    match f.act with
    | .amo a =>
      if needsFallback s a pa then
        if f.posted then s else pushFallback (modFlight s b f.id fun f => { f with posted := true }) f.space b f.id 4096 a pa
      else landFlight s b f pa
    | _ => landFlight s b f pa

/-- An earlier element of the same scatter to the same location is still under way (R115 rule 1, R141). -/
def earlierElement (s : State) (b : Nat) (f : Flight) : Bool :=
  (s.brick b).flights.any fun g => g.op = f.op && !g.arrived && decide (g.id < f.id) &&
    match s.flightPa b g, s.flightPa b f with
    | some p, some q => sameLocation p g.len q f.len
    | _, _ => false

/-- An earlier retired access of the same strand to its own brick's SRAM is still under way (R115 rule 2). -/
def earlierOwn (s : State) (b : Nat) (f : Flight) : Bool :=
  (s.flightPa b f).any (homeHere b) && (s.brick b).flights.any fun g =>
    g.strand = f.strand && g.access ≠ .gather && !g.arrived && decide (g.id < f.id) && (s.flightPa b g).any (homeHere b)

/-- REMOTE_STORE_ARRIVAL: flight n of brick b is performed or dropped, once the interface has translated what it accepted before, after
every earlier access of its strand to its line or to its own brick (R114, R115). Scatter elements to one location keep their order
(R141). -/
def execRemoteStoreArrival (b n : Nat) (s : State) : Host.Outcome State Fault Refusal :=
  .next (match (s.brick b).flights[n]? with
  | none => s
  | some f =>
    if f.arrived then s
    else
      let s := translateUpTo s b f.id
      match (s.brick b).flights.find? fun g => g.id = f.id && !g.arrived with
      | none => s
      | some f =>
        if (if f.access = .gather then earlierElement s b f else
            s.lineBusy b f.strand f.id f.space f.ea.toNat f.pa || earlierOwn s b f) then s
        else match f.pa with
          | some pa => arriveFlight s b f pa
          | none => s)

/-- The acknowledgement of a retired access: UNACKED and the bind entries that counted it go down (R114). -/
def Strand.acknowledge (x : Strand) (f : Flight) : Strand :=
  if f.counted then { x with unacked := x.unacked - 1, binds := bumpBinds x.binds f.binds (· - 1) } else x

/-- RING_ENTRY_COMPLETE: an operation whose result is known frees its ring entry before its window closes (R23). -/
def execRingEntryComplete (b op : Nat) (s : State) : Host.Outcome State Fault Refusal :=
  .next (match (s.brick b).findOp op with
  | some (k, o) => if o.done then s.modBrick b fun x => x.freeSeq (s.strand b k).ctxKey o.seq else s
  | none => s)

end Sys2Proof.Machine
end

