-- ==== Sys2Proof/Machine/Engine.lean ====
section
/-! DEFINITION. What the brick's engines share: checks of whole extents (R159, R170), reads at home (R154, R167), sealed fetches
(R159, R264, R332, R333), buffer descriptors and their pointers (R30, R153). -/

namespace Sys2Proof.Machine

/-! Extents. -/

/-- Where the next piece of an extent begins: past the node, past the brick of a rectangle, past the local window. -/
def nextPiece (s : State) (b space va : Nat) : Nat :=
  if va < Config.sramBytes then Config.sramBytes
  else match nodeAt s b space va with
    | none => va + 1
    | some n =>
      let e := n.va + n.len
      let rect : Nat :=
        let o := (va - n.va) % 0x20000
        max (va + 1) (min e (va + (if o < Config.sramBytes then Config.sramBytes - o else 0x20000 - o)))
      match n.kind with
      | .course _ _ => rect
      | .aperture _ _ => rect
      | _ =>
        if paClass n.pa = 0 then
          let o := (n.pa + (va - n.va)) % 2 ^ 33
          max (va + 1) (min e (va + (if o < Config.sramBytes then Config.sramBytes - o else 2 ^ 33 - o)))
        else max e (va + 1)

/-- A VA under its own rule: the local window is clear memory of the brick (R34); elsewhere the place decides. rd: the access reads
(R262). -/
def placeAt (s : State) (b space va : Nat) (rd : Bool) (f : Place → Option Code) : Except Code (Place × State) :=
  if va < Config.sramBytes then .ok (localPlace b va, s)
  else do
    let (p, s) ← s.translate b space va rd
    match f p with
    | some c => .error c
    | none => .ok (p, s)

/-- Every piece of an extent in turn, its first and last byte (R159, R170): the first failure and its VA. -/
def extentCheck (s : State) (b space : Nat) (rd : Bool) (f : Place → Option Code) (hi : Nat) : Nat → Nat → Except (Code × Nat) State
  | 0, _ => .ok s
  | fuel + 1, va =>
    if hi ≤ va then .ok s
    else match placeAt s b space va rd f with
      | .error c => .error (c, va)
      | .ok (_, t) =>
        let nx := min hi (nextPiece s b space va)
        match placeAt t b space (nx - 1) rd f with
        | .error c => .error (c, nx - 1)
        | .ok (_, t) => extentCheck t b space rd f hi fuel nx

/-- The whole of an extent (R159, R170). -/
def State.extent (s : State) (b space va n : Nat) (rd : Bool) (f : Place → Option Code) : Except (Code × Nat) State :=
  extentCheck s b space rd f (va + n) (2 ^ 20) va

/-! Reads at home by an engine. -/

/-- The lines of a VA range as an engine reads them at home (R154, R171): bytes with the mark of a poisoned line, and the state with the
entries filled. -/
def homeLines (s : State) (b space : Nat) (f : Place → Option Code) : List (Nat × Nat) → Except (Code × Nat) (List (Byte × Bool) × State)
  | [] => .ok ([], s)
  | (va, n) :: t =>
    match placeAt s b space va true f with
    | .error c => .error (c, va)
    | .ok (p, s) =>
      match homeLines s b space f t with
      | .error e => .error e
      | .ok (r, s') =>
        let bad := s.readBad b space va (p.pa / 64 * 64) 64
        .ok ((s.bytes p.pa n).map (fun v => (v, bad)) ++ r, s')

/-- Every line of a VA range has a home that is ready (R318, R323). -/
def linesReady (s : State) (b space : Nat) (l : List (Nat × Nat)) : Bool :=
  l.all fun q => match placeAt s b space q.1 true fun _ => none with
    | .ok (p, _) => s.homeReady p.pa
    | .error _ => true

/-- One access of an instruction, aligned to its size, that reads at its home, never from the RRB (R167, R197). -/
def readHome (s : State) (ord : Nat) (ea : Word) (n : Nat) (need : Need) (seq : BitVec 32) : Except Stop (List Byte × State) := do
  match ← reach s ord ea n need seq with
  | .skip => .ok (List.replicate n 0, s)
  | .at ea p s' =>
    if s.lineBusy s.cur.1 s.cur.2 s.nextId s.me.space ea.toNat (some p.pa) ∨ (homeHere s.cur.1 p.pa ∧ s.ownBusy)
      then .error (.wait s)
    else if paClass p.pa = 4 ∧ p.pa < 2 ^ 52 then .error (.post ⟨.rights, need.cls, ea, ord, seq, []⟩)
    else do
      homeWait s p.pa ord need.cls ea
      if s.readBad s.cur.1 s.me.space ea.toNat p.pa n then .error (.post ⟨.poison, need.cls, ea, ord, seq, []⟩)
      else .ok (s'.bytes p.pa n, s')

/-! Sealed fetches (R159, R264). -/

/-- The key of a slot on a brick's die, if the die's world holds one for sealing (R332). -/
def sealKey (s : State) (b slot : Nat) : Option Nat :=
  (s.worlds.find? fun w => w.id = s.worldOf (dieOf b)).bind fun w =>
    (w.keys.find? fun k => k.slot = slot && k.usage = 2).map (·.key)

/-- The tag of the 256-byte sector that holds a physical address (R333). -/
def sectorTag (s : State) (pa : Nat) : List Byte :=
  match s.tagRegions.find? (fun r => decide (r.base ≤ pa) && decide (pa < r.base + r.len)) with
  | some r => (r.tags.drop ((pa - r.base) / 256 * 16)).take 16
  | none => []

/-- The sector's tag fails: no key, or a GMAC that does not verify (R159, R264). -/
def sectorBad (s : State) (b slot pa : Nat) : Bool :=
  match sealKey s b slot with
  | none => true
  | some k => !Config.tagOk k (pa / 256 * 256) (s.bytes (pa / 256 * 256) 256) (sectorTag s pa)

/-- Bytes of one line as the operand buffer takes them: a sealed line is decrypted (R159). -/
def operandLine (s : State) (b : Nat) (p : Place) (n : Nat) : List Byte :=
  let l := s.bytes p.pa n
  if p.attr.prot = 3 then
    match sealKey s b p.attr.keyslot.toNat with
    | some k => l.zipIdx.map fun q => Config.openSealed k (p.pa + q.2) q.1
    | none => l
  else l

/-- What an operand fetch of a list of lines gives: bytes with the mark of a poisoned line or a failed tag, the first poisoned line, the
first failing sector, and the state with the entries filled. -/
structure Fetched where
  data : List (Byte × Bool)
  poison : Option Nat
  tagBad : Option Nat
  state : State
deriving DecidableEq, Repr

/-- An operand fetch (R154, R157, R159). -/
def operandLines (s : State) (b space : Nat) : List (Nat × Nat) → Except (Code × Nat) Fetched
  | [] => .ok ⟨[], none, none, s⟩
  | (va, n) :: t =>
    match placeAt s b space va true (fun _ => none) with
    | .error c => .error (c, va)
    | .ok (p, s) =>
      match operandLines s b space t with
      | .error e => .error e
      | .ok r =>
        let bad := s.readBad b space va (p.pa / 64 * 64) 64
        let tag := p.attr.prot = 3 && sectorBad s b p.attr.keyslot.toNat p.pa
        .ok ⟨(operandLine s b p n).map (fun v => (v, bad || tag)) ++ r.data, if bad then some va else r.poison,
          if tag then some (va / 256 * 256) else r.tagBad, r.state⟩

/-! Writes by an engine. -/

/-- The engine that writes: 8 + c for copy channel c, 16 for the matrix unit; the command or chunk; and what its reports name. -/
structure Engine where
  unit : Nat
  op : Nat
  ctx : Nat
  space : Nat
  strand : Nat
  pc : Word
  seq : BitVec 32
  cls : Access
deriving DecidableEq, Repr

/-- The strand with its number, as what its own accesses at home report (R116). -/
def Strand.mover (x : Strand) (k : Nat) : Engine := ⟨k, 0, x.ctxKey, x.space, k, x.pc, 0, .store⟩

/-- A report of an engine of brick b on an address (R116). -/
def Engine.tell (e : Engine) (s : State) (b va : Nat) (c : Code) : State :=
  s.report b e.strand e.space c e.cls e.pc (BitVec.ofNat 64 va) e.seq

/-- Bytes that an engine of brick b writes at a place (R154, R171): they count in no UNACKED; a host write is posted and kept until its
flushing read completes (R245), and one that meets a link that is down, or an address that takes no write, is dropped and reported
(R316). None while the home is not ready. -/
def engineStore (s : State) (b : Nat) (e : Engine) (va pa : Nat) (l : List Byte) : Option State :=
  match homeAct (if e.unit = 16 then s.openFor e.op else s) b e.space va pa (.write (l.map some)) with
  | none => none
  | some (.error c) => some (e.tell s b va c)
  | some (.ok t) =>
    let t := { t with regions := s.regions }
    if isHost pa ∧ !s.hostHeld e.space then
      let f : Flight := ⟨t.nextId - 1, e.unit, e.ctx, e.space, e.pc, BitVec.ofNat 64 va, l.length, .write [], some e.op, [], false, true, true,
        (t.brick b).epoch, e.cls, some pa⟩
      some (t.modBrick b fun y => { y with flights := y.flights ++ [f] })
    else some t

/-- Posted writes of an engine's command or chunk wait for their flushing read (R245). -/
def Brick.engineBusy (y : Brick) (unit op : Nat) : Bool := y.flights.any fun f => f.strand = unit && f.op = some op && f.posted
/-- An engine's command or chunk has posted writes, acknowledged or not. -/
def Brick.enginePosted (y : Brick) (unit op : Nat) : Bool := y.flights.any fun f => f.strand = unit && f.op = some op
/-- The posted writes of an engine's command or chunk are acknowledged and go. -/
def Brick.engineDone (y : Brick) (unit op : Nat) : Brick := { y with flights := y.flights.filter fun f => !(f.strand = unit && f.op = some op) }

/-- The lines of a VA range written at their homes (R154), or the first translation that fails; none while a home is not ready. -/
def engineWrite (s : State) (b : Nat) (e : Engine) (va : Nat) (l : List Byte) : Option (Except (Code × Nat) State) :=
  go s l (linePieces (l.length / 64 + 2) va l.length)
where
  /-- Line by line. -/
  go (s : State) (l : List Byte) : List (Nat × Nat) → Option (Except (Code × Nat) State)
    | [] => some (.ok s)
    | (va, n) :: t =>
      match placeAt s b e.space va false (fun _ => none) with
      | .error c => some (.error (c, va))
      | .ok (p, s) => match engineStore s b e va p.pa (l.take n) with
        | none => none
        | some s => go s (l.drop n) t

/-! Buffer descriptors (R30). -/

/-- Address of descriptor n in the local window (R30). -/
def descAt (x : BitVec 8) (n : Nat) : Nat := x.toNat * 512 + 32 * n

/-- The fields of a descriptor's 32 bytes (R30). -/
def parseDesc (l : List Byte) (at_ : Nat) : Desc :=
  let v := leNat l
  ⟨at_, doubleAt l 0, bits v 68 64, bits v 76 72, bits v 111 96, v.testBit 112, v.testBit 113, v.testBit 114, v.testBit 115,
    v.testBit 116, doubleAt l 16, doubleAt l 24⟩

/-- Items that the buffer holds (R30). -/
def Desc.cap (d : Desc) : Nat := 2 ^ (d.log2 - d.item)
/-- The VA of item k (R30). -/
def Desc.itemAt (d : Desc) (k : Nat) : Nat := d.base.toNat + k % d.cap * 2 ^ d.item

/-- What R30 refuses in a descriptor; occ: with the occupancy check. -/
def descBad (l : List Byte) (occ : Bool) : Bool :=
  let v := leNat l
  let d := parseDesc l 0
  bits v 71 69 ≠ 0 || bits v 95 77 ≠ 0 || bits v 127 117 ≠ 0 || decide (d.log2 < 6) || decide (30 < d.log2) || decide (d.item < 3) ||
  decide (d.log2 < d.item) || d.count = 0 || decide (d.cap < d.count) || (d.mcrow && d.mccol) ||
  d.base.toNat % min (2 ^ d.log2) 4096 ≠ 0 || (d.ppmem && d.prod.toNat % 8 ≠ 0) || (d.cpmem && d.cons.toNat % 8 ≠ 0) ||
  (occ && !d.ppmem && !d.cpmem && decide (d.cap < (d.prod - d.cons).toNat % 2 ^ 32))

/-- The 32 bytes of a descriptor of brick b (R30). -/
def State.descBytes (s : State) (b at_ : Nat) : List Byte := s.bytes (sramPa b at_) 32

/-- Descriptor n of an array, or none if R30 refuses it; poison of its unit is not looked at (R349; log 127). -/
def State.desc? (s : State) (b : Nat) (base : BitVec 8) (n : Nat) (occ : Bool) : Option Desc :=
  let at_ := descAt base n
  let l := s.descBytes b at_
  if descBad l occ then none else some (parseDesc l at_)

/-- The place of a pointer, PROD or CONS: its field in the array, or its word in memory (R30). -/
def Desc.ptr (d : Desc) (s : State) (b space : Nat) (prod : Bool) : Except Code Nat :=
  if (if prod then d.ppmem else d.cpmem) then
    match s.check b space (if prod then d.prod else d.cons).toNat (needMatrix true true .sealedStore) with
    | .ok (p, _) => if paClass p.pa = 4 ∧ p.pa < 2 ^ 52 then .error .rights else .ok p.pa
    | .error c => .error c
  else .ok (sramPa b (d.at_ + if prod then 16 else 24))

/-- A live pointer value (R30, R153); poison of its unit is not looked at (R349; log 127). -/
def Desc.live (d : Desc) (s : State) (b space : Nat) (prod : Bool) : Except Code Nat := do
  let pa ← d.ptr s b space prod
  .ok (s.num pa 8 % 2 ^ 32)

/-- The pointers' homes are ready to be read and advanced (R318, R323). -/
def Desc.homes (d : Desc) (s : State) (b space : Nat) : Bool :=
  [true, false].all fun w => match d.ptr s b space w with
    | .ok pa => s.homeReady pa && !s.atomHeld space pa
    | .error _ => true

/-- The pages of the pointer words that a descriptor keeps in memory are in the brick's interface, as a test of readiness leaves them
(R153, R262). -/
def Desc.fill (d : Desc) (s : State) (b space : Nat) : State :=
  ((if d.ppmem then [d.prod] else []) ++ if d.cpmem then [d.cons] else []).foldl (fun s a =>
    match s.check b space a.toNat (needMatrix true true .sealedStore) with
    | .ok (_, t) => t
    | .error _ => s) s

/-- The live occupancy (R153). -/
def Desc.occ (d : Desc) (s : State) (b space : Nat) : Except Code Nat := do
  let p ← d.live s b space true
  let c ← d.live s b space false
  .ok ((p + 2 ^ 32 - c) % 2 ^ 32)

/-- Readiness of a descriptor as input or output (R153); a pointer that fails its translation counts as ready (R160). -/
def Desc.ready (d : Desc) (s : State) (b space : Nat) (input : Bool) : Bool :=
  d.homes s b space &&
  match d.occ s b space with
  | .error _ => true
  | .ok o => decide (o ≤ d.cap) && (if input then decide (d.count ≤ o) else decide (d.count ≤ d.cap - o))

/-- An engine's addition to a pointer at its home, once that is ready; bits 63:32 of the word become zero, as R167 has it for buf.adv (R154;
log 110). A poisoned word is no obstacle: n is added to the bytes stored, and the write of the whole double clears the poison (R349; log 127). -/
def Desc.bump (d : Desc) (s : State) (b : Nat) (e : Engine) (prod : Bool) (n : Nat) : State :=
  let va := if prod then (if d.ppmem then d.prod.toNat else d.at_ + 16) else if d.cpmem then d.cons.toNat else d.at_ + 24
  match d.ptr s b e.space prod with
  | .ok pa => match homeAct (d.fill s b e.space) b e.space va pa (.bufAdv (BitVec.ofNat 32 n)) with
    | none => s
    | some (.error c) => e.tell s b va c
    | some (.ok t) => t
  | .error _ => s

end Sys2Proof.Machine
end

