-- ==== Sys2Proof/Machine/Copy.lean ====
section
/-! DEFINITION. The copy channels (R168 to R174): starts, templates, chunks, completion, and the instructions that read a channel. -/

namespace Sys2Proof.Machine

/-! Templates (R169, R170). -/

/-- A template's fields (R169). -/
def parseTemplate (l : List Byte) : Template :=
  ⟨doubleAt l 0, doubleAt l 8, numAt l 16 4, numAt l 20 2, numAt l 22 2, toS (numAt l 24 4) 32, toS (numAt l 28 4) 32,
    toS (numAt l 32 4) 32, toS (numAt l 36 4) 32, doubleAt l 40, doubleAt l 48, (numAt l 56 1).testBit 0, numAt l 56 8 / 2 ≠ 0⟩

/-- The VA of the template that a start selects (R7, R169). -/
def templateAt (s : State) (space : Nat) (data : Word) : Nat :=
  (templFields (((s.space? space).map Space.tmpl).getD 0)).toNat + 64 * bits data.toNat 15 0

/-- The cached copy of a template, unless a strand of the brick has stored to it since (R170). -/
def cachedTemplate (s : State) (b pa : Nat) : Option (List Byte) :=
  match (s.brick b).tcache.find? (fun q => q.1 = pa) with
  | some (_, n, l) => if s.codeLog.any (fun e => decide (n ≤ e.n) && e.brick = b && decide (pa ≤ e.pa) && decide (e.pa < pa + 64)) then none
      else some l
  | none => none

/-- A store of the brick's strands to the template, accepted before the start, is still under way (R170). -/
def templateBusy (s : State) (b id pa : Nat) : Bool :=
  (s.brick b).flights.any fun f => !f.arrived && decide (f.id < id) &&
    match s.flightPa b f with
    | some q => decide (q < pa + 64) && decide (pa < q + f.len)
    | none => false

/-- What a copy may not touch: sealed ranges, missing rights, apertures (R168, R170, R264). -/
def copyFault (rd wr : Bool) (p : Place) : Option Code :=
  if paClass p.pa = 4 ∧ p.pa < 2 ^ 52 then some .rights
  else (⟨rd, wr, false, .sealedCopy, .copy⟩ : Need).fault p.attr

/-- The template snapshot of a start (R170): the template, or the code of the read that failed; and the state with the cache
filled. -/
def snapshot (s : State) (b space : Nat) (data : Word) : Option Template × Option Code × State :=
  match placeAt s b space (templateAt s space data) true (copyFault true false) with
  | .error c => (none, some c, s)
  | .ok (p, s) =>
    match cachedTemplate s b p.pa with
    | some l => (some (parseTemplate l), none, s)
    | none =>
      if s.readBad b space (templateAt s space data) p.pa 64 then (none, some .poison, s)
      else
        let l := s.bytes p.pa 64
        (some (parseTemplate l), none, s.modBrick b fun y =>
          { y with tcache := (y.tcache.filter fun q => q.1 ≠ p.pa) ++ [(p.pa, s.codeLog.length, l)] })

/-! Rows and chunks (R169). -/

/-- The signed offset of a start (R169). -/
def startOffset (data : Word) : Int := toS (bits data.toNat 63 32) 32
/-- An address as 64 bits. -/
def wrapVa (v : Int) : Nat := (v % (2 ^ 64 : Nat)).toNat

/-- The rows of a copy in copy order: source and destination VA (R169). -/
def Template.rows (t : Template) (off : Int) : List (Nat × Nat) :=
  (List.range (t.zcnt * t.ycnt)).map fun i =>
    let z : Int := (i / t.ycnt : Nat)
    let y : Int := (i % t.ycnt : Nat)
    (wrapVa (t.src.toNat + off + z * t.ssz + y * t.ssy), wrapVa (t.dst.toNat + off + z * t.dsz + y * t.dsy))

/-- A row cut at the 512-byte blocks of its destination (R169). -/
def rowChunks : Nat → Nat → Nat → Nat → List (Nat × Nat × Nat)
  | 0, _, _, _ => []
  | fuel + 1, src, dst, n =>
    if n = 0 then []
    else let m := min n (512 - dst % 512); (src, dst, m) :: rowChunks fuel (src + m) (dst + m) (n - m)

/-- The chunks of a copy in copy order (R169). -/
def Template.chunks (t : Template) (off : Int) : List Chunk :=
  (((t.rows off).flatMap fun q => rowChunks (t.xlen / 512 + 2) q.1 q.2 t.xlen).zipIdx).map fun q => ⟨q.2, q.1.1, q.1.2.1, q.1.2.2⟩

/-- The block of the bitmaps that a destination lies in (R172). -/
def Template.block (t : Template) (off : Int) (dst : Nat) : Int := (dst / 512 : Nat) - (wrapVa (t.dst.toNat + off) / 512 : Nat)

/-- What R170's first step refuses. -/
def Template.bad (t : Template) (data : Word) : Bool :=
  bits data.toNat 31 16 ≠ 0 || t.xlen = 0 || t.ycnt = 0 || t.zcnt = 0 || decide (2 ^ 32 < t.xlen * t.ycnt * t.zcnt) ||
  t.land.toNat % 8 ≠ 0 || t.compl.toNat % 8 ≠ 0 || t.reserved ||
  (t.bitmap && (t.chunks (startOffset data)).any fun c =>
    let i := t.block (startOffset data) c.dst
    decide (i < 0) || decide (63 < i))

/-- Bits of the chunk bitmap that are set while the chunks of l are left: blocks that none of them writes (R172). -/
def Template.bitmapOf (t : Template) (off : Int) (l : List Chunk) : Word :=
  BitVec.ofNat 64 ((List.range 64).foldl (fun (a i : Nat) => if l.any (fun c => t.block off c.dst = (i : Int)) then a else a + 2 ^ i) 0)

/-! The channel (R172). -/

/-- A channel with its copy started: the status and the three values are reset (R172). -/
def Channel.start (c : Channel) (j : CopyStart) : Channel :=
  { c with
    st := .running, poisoned := false, code := none, tmpl := j.data.truncate 16, ptr := 0, chunks := 0, poison := 0
    job := some j, begun := false, left := [], written := 0, latched := none }

/-- Channel c of a brick changed. -/
def Brick.modChan (y : Brick) (c : Nat) (f : Channel → Channel) : Brick :=
  { y with chans := y.chans.mapFinIdx fun i x _ => if i = c then f x else x }

/-- Channel c of a brick. -/
def Brick.chan (y : Brick) (c : Nat) : Channel := (y.chans.toList)[c]?.getD Channel.fresh

/-- The condition of cp.wait (R174). -/
def Channel.cond (c : Channel) (m : Word) : Bool := c.st = .done || c.st = .failed || (m ≠ 0 && (c.chunks &&& m) = m)

/-- The value that cp.wait selects (R173). -/
def Channel.select (c : Channel) (sel : Nat) : Word := if sel = 0 then c.chunks else if sel = 1 then c.status else c.poison

/-- Waits on a channel whose condition holds now take their value (R174). -/
def Brick.wakeWaits (y : Brick) (c : Nat) : Brick :=
  let x := y.chan c
  let f (o : Op) : Op := match o.kind with
    | .cpWait d k m sel => if k = c ∧ !o.done ∧ x.cond m then { o with done := true, commit := ⟨some (d, x.select sel), [], false⟩ } else o
    | _ => o
  let g (q : Ctx) : Ctx := { q with ops := q.ops.map f }
  { y with strands := y.strands.map fun t => { t with ops := t.ops.map f }, ready := y.ready.map g, away := y.away.map g, kept := y.kept.map g }

/-- The state with channel c of brick b changed, and its waits looked at. -/
def setChan (s : State) (b c : Nat) (f : Channel → Channel) : State := s.modBrick b fun y => (y.modChan c f).wakeWaits c

/-! Starts (R168, R170). -/

/-- The channel that a retired store would start: a double stored at offset 16c of the brick's own aperture (R168). -/
def startChannel (s : State) (b : Nat) (f : Flight) : Option (Nat × State) :=
  match s.check b f.space f.ea.toNat needStore with
  | .ok (p, t) =>
    if f.act.isWrite ∧ isStart p.pa ∧ bits p.pa 16 12 = 0 ∧ apertureFault b p.pa f.len true = none
      then some (bits p.pa 11 0 / 16, t) else none
  | .error _ => none

/-- A start is accepted: the template is snapshotted, and the copy starts or is latched (R170). Holds that have ended leave the template
cache before, and those that are armed on copies go with the start (R130). -/
def acceptStart (s : State) (b c : Nat) (j : CopyStart) : State :=
  let (t, code, s) := snapshot (s.settleFences b) b j.space j.data
  let j := { j with tmpl := t, code := code, holds := (s.holdsOf b j.strand j.ctx).filter fun h => h.b.getLsbD 1 && decide (h.upTo ≤ j.id) }
  setChan s b c fun x => if x.job.isNone then x.start j else { x with latched := some j }

/-- A start that finds the latch taken is held at the interface, unacknowledged (R170). -/
def holdStart (s : State) (b c : Nat) (j : CopyStart) (f : Flight) : State :=
  modFlight (s.modBrick b fun y => { y with held := y.held ++ [(c, j, f.id)] }) b f.id fun f => { f with arrived := true, posted := true }

/-- The template cannot be read yet: an earlier store to it is under way, or its home is not ready (R170). -/
def templateWaits (s : State) (b : Nat) (j : CopyStart) : Bool :=
  match placeAt s b j.space (templateAt s j.space j.data) true fun _ => none with
  | .ok (p, _) => templateBusy s b j.id p.pa || !s.homeReady p.pa
  | .error _ => false

/-- COPY_START: flight n of brick b is a start store that is accepted, or held while the latch is taken; or a held one, whose latch
is free now, is accepted (R168, R170). -/
def execCopyStart (b n : Nat) (s : State) : Host.Outcome State Fault Refusal :=
  .next (match (s.brick b).flights[n]? with
  | none => s
  | some f =>
    match (s.brick b).held.find? (fun h => h.2.2 = f.id) with
    | some (c, j, _) =>
      let first := ((s.brick b).held.find? fun h => h.1 = c).map (·.2.2) = some f.id
      if !first ∨ ((s.brick b).chan c).latched.isSome ∨ templateWaits s b j then s
      else
        let s := s.modBrick b fun y => { y with held := y.held.filter fun h => h.2.2 ≠ f.id }
        modFlight (acceptStart s b c j) b f.id fun f => { f with posted := false }
    | none =>
      if f.arrived ∨ s.lineBusy b f.strand f.id f.space f.ea.toNat (s.flightPa b f) then s
      else match startChannel s b f with
        | none => s
        | some (c, t) =>
          let j : CopyStart := ⟨f.id, f.ctx, BitVec.ofNat 64 f.act.value, none, none, f.strand, f.space, f.pc, []⟩
          if ((t.brick b).chan c).latched.isSome ∨ (t.brick b).held.any (fun h => h.1 = c) then holdStart t b c j f
          else if templateWaits s b j then s
          else modFlight (acceptStart t b c j) b f.id fun f => { f with arrived := true })

/-! A copy's beginning (R170). -/

/-- The copy's completion counter takes n at its home; an atomic that fails is dropped and reported (R171, R264, R319, R349). None while its
home is not ready. -/
def bumpCompl (s : State) (b : Nat) (j : CopyStart) (n : Nat) : Option State :=
  match j.tmpl with
  | some t =>
    let drop (c : Code) : State := s.report b j.strand j.space c .copy j.pc t.compl 0
    if t.compl = 0 ∨ t.compl.toNat % 8 ≠ 0 then some s
    else match placeAt s b j.space t.compl.toNat false (copyFault true true) with
      | .ok (p, s') => match homeAct s' b j.space t.compl.toNat p.pa (.amo ⟨.add, 8, n, 0⟩) with
        | none => none
        | some (.ok s) => some s
        | some (.error c) => some (drop c)
      | .error c => some (drop c)
  | none => some s

/-- A copy fails with a code: its channel is failed, and COMPL takes 2^32 (R170, R171). None while COMPL's home is not ready. -/
def failCopy (s : State) (b c : Nat) (j : CopyStart) (code : Code) : Option State :=
  (bumpCompl s b j (2 ^ 32)).map fun s => setChan (s.modBrick b fun y => { y with flights := y.flights.filter fun f => f.strand ≠ 8 + c }) b c
    fun x => { x with st := .failed, code := some code, job := none, left := [] }

/-- A memory fault of a copy: a report that names the start store, and the copy fails (R170, R171). -/
def copyReport (s : State) (b c : Nat) (j : CopyStart) (code : Code) (a : Nat) : State :=
  (failCopy (s.report b j.strand j.space code .copy j.pc (BitVec.ofNat 64 a) 0) b c j code).getD s

/-- The checks of every row's extents, and of LAND and COMPL (R170). -/
def copyExtents (s : State) (b space : Nat) (t : Template) (off : Int) : Except (Code × Nat) State := do
  let s ← rows s (fun q => q.1) true false (t.rows off)
  let s ← rows s (fun q => q.2) false true (t.rows off)
  let s ← word s t.land
  word s t.compl
where
  /-- The rows on one side. -/
  rows (s : State) (side : Nat × Nat → Nat) (rd wr : Bool) : List (Nat × Nat) → Except (Code × Nat) State
    | [] => .ok s
    | q :: l => do
      let s ← s.extent b space (side q) t.xlen rd (copyFault rd wr)
      rows s side rd wr l
  /-- A word that the copy updates. -/
  word (s : State) (a : Word) : Except (Code × Nat) State :=
    if a = 0 then .ok s else s.extent b space a.toNat 8 false (copyFault true true)

/-- A copy begins: its template is checked and its extents are translated (R170). -/
def beginCopy (s : State) (b c : Nat) (j : CopyStart) : State :=
  match j.tmpl, j.code with
  | some t, none =>
    if t.bad j.data then (failCopy s b c j .cpTemplateInvalid).getD s
    else match copyExtents s b j.space t (startOffset j.data) with
      | .error (code, a) => copyReport s b c j code a
      | .ok s =>
        let l := t.chunks (startOffset j.data)
        setChan s b c fun x => { x with begun := true, left := l, chunks := t.bitmapOf (startOffset j.data) l }
  | _, some code => copyReport s b c j code (templateAt s j.space j.data)
  | none, none => s

/-- COPY_BEGIN: the channel's copy, or the latched one after it, begins (R170). -/
def execCopyBegin (b c : Nat) (s : State) : Host.Outcome State Fault Refusal :=
  .next (
    let x := (s.brick b).chan c
    match x.job, x.latched with
    | some j, _ => if x.begun then s else beginCopy s b c j
    | none, some j => beginCopy (setChan s b c fun x => x.start j) b c j
    | none, none => s)

/-! Chunks (R171). -/

/-- A hold of fence.x on C keeps a copy that was started after it from its reads, wherever its task is by then (R130). -/
def copyHeld (s : State) (j : CopyStart) : Bool := j.holds.any fun h => !s.holdDone h

/-- Physical ranges of a list of VA ranges. -/
def paRanges (s : State) (b space : Nat) (l : List (Nat × Nat)) : List (Nat × Nat) :=
  (l.flatMap fun q => linePieces (q.2 / 64 + 2) q.1 q.2).filterMap fun q =>
    match placeAt s b space q.1 true (fun _ => none) with
    | .ok (p, _) => some (p.pa, q.2)
    | .error _ => none

/-- A physical byte lies in one of the ranges. -/
def inRanges (l : List (Nat × Nat)) (pa : Nat) : Bool := l.any fun q => decide (q.1 ≤ pa) && decide (pa < q.1 + q.2)

/-- The places of n bytes from a VA on, byte by byte, and the state with the entries filled; rd: they are read (R262). -/
def bytePlaces (s : State) (b space : Nat) (rd : Bool) (f : Place → Option Code) : List (Nat × Nat) → Except (Code × Nat) (List Nat × State)
  | [] => .ok ([], s)
  | (va, n) :: t =>
    match placeAt s b space va rd f with
    | .error c => .error (c, va)
    | .ok (p, s) => match bytePlaces s b space rd f t with
      | .error e => .error e
      | .ok (r, s) => .ok ((List.range n).map (p.pa + ·) ++ r, s)

/-- The bytes of a chunk at their destinations: zeros for a source line that returns poison, free bytes where source and destination overlap
(R171, log 16). -/
def chunkBytesOut (s : State) (down : Bool) (src dst : List (Nat × Nat)) (ps pd : List Nat) : List (Nat × Byte) :=
  (ps.zip pd).zipIdx.map fun q =>
    let (a, d) := q.1
    (d, if inRanges src d || inRanges dst a then Config.freeByte (512 * s.free + q.2)
      else if down || s.readPoison (a / 64 * 64) 64 then 0 else s.byte a)

/-- Runs of bytes at consecutive addresses. -/
def runs : List (Nat × Byte) → List (Nat × List Byte)
  | [] => []
  | (a, v) :: t =>
    match runs t with
    | (b, l) :: r => if b = a + 1 then (a, v :: l) :: r else (a, [v]) :: (b, l) :: r
    | [] => [(a, [v])]

/-- Copy channel c as it writes chunk number i (R171). -/
def CopyStart.engine (j : CopyStart) (c i : Nat) : Engine := ⟨8 + c, i, j.ctx, j.space, j.strand, j.pc, 0, .copy⟩

/-- The runs of bytes are written at their homes; none while one is not ready. -/
def writeRuns (s : State) (b : Nat) (e : Engine) (va : Nat) : List (Nat × List Byte) → Option State
  | [] => some s
  | q :: l => match engineStore s b e va q.1 q.2 with
    | none => none
    | some s => writeRuns s b e va l

/-- The landing word takes a chunk of n bytes; an overrun is reported once (R122, R171; a poisoned one drops the update: log 118). None while its home is not ready. -/
def landWord (s : State) (b : Nat) (j : CopyStart) (land : Word) (n : Nat) : Option State :=
  let drop (c : Code) : State := s.report b j.strand j.space c .copy j.pc land 0
  if land = 0 then some s
  else match placeAt s b j.space land.toNat false (copyFault true true) with
    | .error c => some (drop c)
    | .ok (p, s') =>
      if !s.homeReady p.pa || s.atomHeld j.space p.pa then none
      else if s.linkDown b j.space land.toNat p.pa || s.readBad b j.space land.toNat p.pa 8 then some (drop .poison)
      else
        let r := landChunk (BitVec.ofNat 64 (s.num p.pa 8)) n
        let s := wakeAt ((noteWrite s' b j.space p.pa 8).softNum p.pa 8 r.1.toNat) p.pa
        some (if r.2 then s.report b j.strand j.space .landingOverrun .landing j.pc land 0 else s)

/-- A chunk is performed at its destination: the landing word takes it, and the channel's values follow (R171, R172). -/
def endChunk (s : State) (b c : Nat) (j : CopyStart) (t : Template) (k : Chunk) : State :=
  let off := startOffset j.data
  match landWord s b j t.land k.len with
  | none => s
  | some s => setChan (s.modBrick b fun y => y.engineDone (8 + c) k.idx) b c fun x =>
      let left := x.left.filter fun q => q.idx ≠ k.idx
      { x with
        left := left
        chunks := t.bitmapOf off left
        written := x.written + k.len
        ptr := if t.bitmap then 0 else x.ptr + k.len }

/-- A chunk has bytes of a source line that returned poison (R171, R172). -/
def markPoison (s : State) (b c : Nat) (j : CopyStart) (t : Template) (k : Chunk) : State :=
  let blk := t.block (startOffset j.data) k.dst
  setChan s b c fun x => { x with
    poisoned := true
    poison := if 0 ≤ blk ∧ blk < 64 then x.poison ||| BitVec.ofNat 64 (2 ^ blk.toNat) else x.poison }

/-- A chunk of a running copy is translated, sent and performed; bytes posted to the host wait for their flushing read first (R171,
R245). -/
def doChunk (s : State) (b c : Nat) (j : CopyStart) (t : Template) (k : Chunk) : State :=
  let lines (va : Nat) := linePieces 16 va k.len
  if (s.brick b).enginePosted (8 + c) k.idx then (if (s.brick b).engineBusy (8 + c) k.idx then s else endChunk s b c j t k)
  else if !linesReady s b j.space (lines k.src ++ lines k.dst) ∨ (landWord s b j t.land k.len).isNone then s
  else match bytePlaces s b j.space true (copyFault true false) (lines k.src) with
    | .error (code, a) => copyReport s b c j code a
    | .ok (ps, s1) => match bytePlaces s1 b j.space false (copyFault false true) (lines k.dst) with
      | .error (code, a) => copyReport s b c j code a
      | .ok (pd, s2) =>
        let rows := t.rows (startOffset j.data)
        let src := paRanges s b j.space (rows.map fun q => (q.1, t.xlen))
        let dst := paRanges s b j.space (rows.map fun q => (q.2, t.xlen))
        let down := ps.any fun a => s.linkDown b j.space k.src a
        match writeRuns s2 b (j.engine c k.idx) k.dst (runs (chunkBytesOut s down src dst ps pd)) with
        | none => s
        | some u =>
          let u := if down ∨ ps.any fun a => s.readPoison (a / 64 * 64) 64 then markPoison u.bumpFree b c j t k else u.bumpFree
          if (u.brick b).enginePosted (8 + c) k.idx then u else endChunk u b c j t k

/-- COPY_CHUNK: chunk i of those left is performed; in ordered delivery only the first (R171). -/
def execCopyChunk (b c i : Nat) (s : State) : Host.Outcome State Fault Refusal :=
  .next (
    let x := (s.brick b).chan c
    match x.job with
    | none => s
    | some j =>
      match j.tmpl, x.left[i]? with
      | some t, some k => if !x.begun ∨ (i ≠ 0 ∧ !t.bitmap) ∨ copyHeld s j then s else doChunk s b c j t k
      | _, _ => s)

/-- COPY_COMPLETE: every chunk is performed; the channel is done and COMPL takes 1 (R171). -/
def execCopyComplete (b c : Nat) (s : State) : Host.Outcome State Fault Refusal :=
  .next (
    let x := (s.brick b).chan c
    match x.job with
    | none => s
    | some j =>
      if !x.begun ∨ x.left ≠ [] then s
      else match bumpCompl s b j 1 with
        | some s => setChan s b c fun x => { x with st := .done, ptr := x.written, job := none }
        | none => s)

/-! Instructions that read a channel (R173, R174). -/

/-- An instruction of major 0x2A takes a ring entry of KIND 3 (R173). -/
def cpOp (s : State) (i : Instr) (l : BitVec 4) (c : Nat) (kind : OpKind) (v : Option (BitVec 4 × Word)) : Except Stop State := do
  let (s, q) ← ringTake s i 3 (BitVec.ofNat 32 c) 0
  .ok (s.addOp { (newOp s l kind (some q)) with done := kind = .plain, commit := ⟨v, [], false⟩ })

/-- cp.wait (R174). -/
def execCpWait (d : BitVec 4) (c : BitVec 3) (m : BitVec 4) (t : BitVec 1) (x : BitVec 2) (l : BitVec 4) (s : State) :
    Host.Outcome State Fault Refusal :=
  run (.cpWait d c m t x l) s fun s =>
    let q := s.here.chan c.toNat
    let k := s.me.sreg m
    if t = 1 ∨ q.cond k then cpOp s (.cpWait d c m t x l) l c.toNat .plain (some (d, q.select x.toNat))
    else cpOp s (.cpWait d c m t x l) l c.toNat (.cpWait d c.toNat k x.toNat) none

/-- cp.ptr (R174). -/
def execCpPtr (d : BitVec 4) (c : BitVec 3) (l : BitVec 4) (s : State) : Host.Outcome State Fault Refusal :=
  run (.cpPtr d c l) s fun s => cpOp s (.cpPtr d c l) l c.toNat .plain (some (d, BitVec.ofNat 64 (s.here.chan c.toNat).ptr))

/-- cp.inv (R174). -/
def execCpInv (l : BitVec 4) (s : State) : Host.Outcome State Fault Refusal :=
  run (.cpInv l) s fun s => do
    let s ← cpOp s (.cpInv l) l 0 .plain none
    .ok (s.modHere fun y => { y with tcache := [] })

end Sys2Proof.Machine
end

