-- ==== Sys2Proof/Machine/MatrixUnit.lean ====
section
/-! DEFINITION. The matrix unit's arithmetic (R20, R58, R59, R155 to R157): operand tiles, chunks and one step. -/

namespace Sys2Proof.Machine

/-- Memory format and floating-point format of an operand (R155): fmtB says which side. -/
def pairFmt (pair : Nat) (sideB : Bool) : Fmt :=
  match pair with
  | 0 => .bf16
  | 1 => .fp16
  | 2 => .e4m3
  | 3 => if sideB then .e5m2 else .e4m3
  | 4 => if sideB then .e4m3 else .e5m2
  | 5 => .e5m2
  | 6 => .int8
  | _ => .b4

/-- Bytes of a row of an operand tile (R156). -/
def rowBytes (pair geom : Nat) : Nat := if pair = 7 then 128 / geomCodes geom * geomBytes geom else 64
/-- Bytes of a tile. -/
def tileBytes (pair geom : Nat) : Nat := 32 * rowBytes pair geom
/-- Least ITEMLOG2 of an operand (R156). -/
def minItem (pair : Nat) : Nat := if pair = 7 then 12 else 11
/-- Bytes of a row that one chunk uses (R58). -/
def chunkBytes (pair geom : Nat) : Nat := if pair = 7 then geomBytes geom else 16

/-- The datum of one element of a format. -/
def elemVal (f : Fmt) (l : List Byte) : FVal :=
  let x := leNat l
  match f with
  | .bf16 => bf16.decode x
  | .fp16 => fp16.decode x
  | .fp32 => fp32.decode x
  | .e4m3 => e4m3.decode x
  | .e5m2 => e5m2.decode x
  | _ => let v := toS x 8; .fin (decide (v < 0)) v.natAbs 0

/-- A list cut into pieces of n. -/
def pieces {α : Type} (n : Nat) : Nat → List α → List (List α)
  | 0, _ => []
  | k + 1, l => l.take n :: pieces n k (l.drop n)

/-- The values of one chunk of a row; none if it is a NaN chunk: an invalid scale or a poisoned line (R53, R58, R59). A value of a
block is its code value times the scale, exactly. -/
def chunkVals (f : Fmt) (geom : Nat) (l : List (Byte × Bool)) : Option (List FVal) :=
  if l.any (·.2) then none
  else
    let b := l.map (·.1)
    match f with
    | .b4 =>
      let w := leNat (b.take 4)
      if scaleBad w then none
      else some ((List.range (geomCodes geom)).map fun k =>
        let c := codeVal (bits w 31 30) (blockCode b k)
        .fin c.1 (c.2 * (scaleVal w).1) ((scaleVal w).2 - 3))
    | .bf16 => some ((pieces 2 8 b).map (elemVal f))
    | .fp16 => some ((pieces 2 8 b).map (elemVal f))
    | f => some ((pieces 1 16 b).map (elemVal f))

/-- The chunks of the 32 rows of a tile. -/
def tileChunks (pair geom : Nat) (sideB : Bool) (l : List (Byte × Bool)) : List (List (Option (List FVal))) :=
  let n := rowBytes pair geom
  let c := chunkBytes pair geom
  (pieces n 32 l).map fun r => (pieces c (n / c) r).map (chunkVals (pairFmt pair sideB) geom)

/-- Sums in a chunk: an exact finite sum, an infinity, or NaN (R59). -/
def addExact (x y : FVal) : FVal :=
  match x, y with
  | .nan b, _ => .nan b
  | _, .nan b => .nan b
  | .inf a, .inf b => if a = b then .inf a else .nan false
  | .inf a, _ => .inf a
  | _, .inf b => .inf b
  | .fin n1 m1 e1, .fin n2 m2 e2 =>
    let e := min e1 e2
    let t : Int := (if n1 then -1 else 1) * (m1 * 2 ^ (e1 - e).toNat : Nat) + (if n2 then -1 else 1) * (m2 * 2 ^ (e2 - e).toNat : Nat)
    .fin (decide (t < 0)) t.natAbs e

/-- The exact sum of products of a chunk (R58, R59). -/
def chunkDot : List FVal → List FVal → FVal
  | x :: s, y :: t => addExact ((fProd x y).getD (.nan false)) (chunkDot s t)
  | _, _ => .fin false 0 0

/-- A chunk as FP32 bits, rounded once to nearest-even; an exact zero contributes +0 (R58, R59). -/
def chunkBits (a b : Option (List FVal)) : Nat :=
  match a, b with
  | some x, some y =>
    match chunkDot x y with
    | .nan _ => fp32.nan
    | .inf n => fp32.signed n fp32.infBits
    | .fin n m e => if m = 0 then 0 else (fp32.round 0 false n m e).1
  | _, _ => fp32.nan

/-- An accumulator element with the chunks of its row and column added in ascending order (R58). -/
def addChunks (acc : Nat) : List (Option (List FVal)) → List (Option (List FVal)) → Nat
  | a :: s, b :: t => addChunks (fAdd fp32 0 (fp32.decode acc) (fp32.decode (chunkBits a b))).1 s t
  | _, _ => acc

/-- Element n of the accumulator, numbered 32 × row + column (R20). -/
def accElem (x : Acc) (n : Nat) : Nat := x.toNat / 2 ^ (32 * n) % 2 ^ 32
/-- The accumulator whose elements are f 0 to f 1023. -/
def buildAcc (f : Nat → Nat) : Acc := BitVec.ofNat 32768 (digits (2 ^ 32) (fun j => f j % 2 ^ 32) 1024 0)

/-- One step: the accumulator plus the product of two tiles (R58). -/
def matStep (pair geom : Nat) (acc : Acc) (t : Tiles) : Acc :=
  let a := tileChunks pair geom false t.a
  let b := tileChunks pair geom true t.b
  buildAcc fun n => addChunks (accElem acc n) (a.getD (n / 32) []) (b.getD (n % 32) [])

/-- The VA of the lowest invalid scale word of a tile at a VA (R53); a word of a line that is poisoned, or whose tag failed, is none
(R157). -/
def tileBadScale (pair geom at_ : Nat) (l : List (Byte × Bool)) : Option Nat :=
  if pair ≠ 7 then none
  else
    let c := chunkBytes pair geom
    ((pieces c (32 * (rowBytes pair geom / c)) l).zipIdx.find? fun q =>
      scaleBad (leNat ((q.1.take 4).map (·.1))) && !(q.1.take 4).any (·.2)).map fun q => at_ + c * q.2

/-- The lowest of two addresses, if there are any. -/
def lowest (a b : Option Nat) : Option Nat :=
  match a, b with
  | some x, some y => some (min x y)
  | some x, none => some x
  | none, y => y

/-- The lowest address that f gives on the tiles of a firing. -/
def lowestOf (f : Tiles → Option Nat) : List Tiles → Option Nat
  | [] => none
  | t :: r => lowest (f t) (lowestOf f r)

/-- A VA of a tile's invalid scale word (R53). -/
def Tiles.badScale (pair geom : Nat) (t : Tiles) : Option Nat :=
  lowest (tileBadScale pair geom t.aAt t.a) (tileBadScale pair geom t.bAt t.b)

/-- Every element is the canonical NaN (R159). -/
def accNan : Acc := buildAcc fun _ => fp32.nan

/-- The accumulator that acc.ld loads: elements of a poisoned line are the canonical NaN (R157, R165). -/
def accLoad (l : List (Byte × Bool)) : Acc :=
  let es := pieces 4 1024 l
  buildAcc fun n => let e := es.getD n []; if e.any (·.2) then fp32.nan else leNat (e.map (·.1))

end Sys2Proof.Machine
end

