-- ==== Sys2Proof/Machine/Matrix.lean ====
section
/-! DEFINITION. Matrix, accumulator, capability and buffer instructions (R22, R153 to R167, R175) and the matrix unit's steps. -/

namespace Sys2Proof.Machine

/-! Touching the accumulator (R22, R242). -/

/-- A matrix instruction touches the accumulator: a free one becomes the context's, in a step of its own that also brings back a
displaced image (execAccownWrite); another owner's traps (R22, R242). -/
def touch (s : State) : Except Stop Unit :=
  let x := s.me
  let y := s.here
  if y.ownsAcc x.space x.ctxid then .ok ()
  else if y.accown.getLsbD 63 then .error (.trap .accNotOwner)
  else if y.ownPending.isSome then .error (.wait s)
  else .error (.wait (s.modHere fun y => { y with ownPending := some (x.ownWrite s.cur.2 (ownWord x.space x.ctxid) true) }))

/-! Issue-time checks (R156, R159). -/

/-- Parts that a buffer plays in a command (R159). -/
inductive Role where
  | opA | opB | out | load
deriving DecidableEq, Repr

/-- What an operand's mapping is refused for (R156, R159). -/
def operandFault (pair geom : Nat) (sideB : Bool) (a : Attr) : Option Code :=
  if !a.rights.getLsbD 0 then some .rights
  else if a.fmt ≠ .raw ∧ (a.fmt ≠ pairFmt pair sideB ∨ (a.fmt = .b4 ∧ a.geom.toNat ≠ geom)) then some .formatMismatch
  else none

/-- What a buffer's mapping is refused for in a role (R159, R168, R264). -/
def roleFault (pair geom : Nat) (r : Role) (p : Place) : Option Code :=
  let a := p.attr
  if paClass p.pa = 4 ∧ p.pa < 2 ^ 52 then some .rights
  else match r with
  | .opA => operandFault pair geom false a
  | .opB => operandFault pair geom true a
  | .out => (needMatrix false true .sealedStore).fault a
  | .load => (needMatrix true false .sealedLoad).fault a

/-- A pointer word in memory is checked for both rights, and lies in no aperture (R159, R168). -/
def ptrCheck (s : State) (b space : Nat) (inMem : Bool) (va : Word) : Except (Code × Nat) State :=
  if !inMem then .ok s
  else match s.check b space va.toNat (needMatrix true true .sealedStore) with
    | .ok (p, t) => if paClass p.pa = 4 ∧ p.pa < 2 ^ 52 then .error (.rights, va.toNat) else .ok t
    | .error c => .error (c, va.toNat)

/-- The checks of one descriptor: the whole buffer and its pointer words (R159). -/
def descCheck (s : State) (b space pair geom : Nat) (q : Desc × Role) : Except (Code × Nat) State := do
  let s ← s.extent b space q.1.base.toNat (2 ^ q.1.log2) (q.2 ≠ .out) (roleFault pair geom q.2)
  let s ← ptrCheck s b space q.1.ppmem q.1.prod
  ptrCheck s b space q.1.cpmem q.1.cons

/-- The checks of every descriptor of a command (R159). -/
def descChecks (s : State) (b space pair geom : Nat) : List (Desc × Role) → Except (Code × Nat) State
  | [] => .ok s
  | q :: t => do
    let s ← descCheck s b space pair geom q
    descChecks s b space pair geom t

/-- The roles of a command's descriptors. -/
def MatKind.roles : MatKind → List Role
  | .mma _ _ _ => [.opA, .opB, .out]
  | .panel _ _ _ => [.out]
  | .zero => []
  | .ld => [.load]
  | .st => [.out]

/-- PAIR and GEOM of a command. -/
def MatKind.pairGeom : MatKind → Nat × Nat
  | .mma p g _ => (p, g)
  | .panel p g _ => (p, g)
  | _ => (0, 0)

/-- The accumulator image is stored after the firing. -/
def MatKind.stores : MatKind → Bool
  | .mma _ _ e => e
  | .panel _ _ e => e
  | .st => true
  | _ => false

/-! Issue (R157, R158, R165). -/

/-- Places in a brick's matrix queue (R158). -/
def matQueue : Nat := 128

/-- Commands that wait in a brick's queue; one that has fired holds no place (R158; log 110). -/
def Brick.queued (y : Brick) : Nat := (y.matq.filter fun m => !m.fired).length

/-- The instruction's reply discards its command (R159). -/
def State.skipped (s : State) (ord : Nat) : Bool := s.me.answers.any fun a => a.1 = ord && a.2 = .skip

/-- A command enters the queue of the issuing brick, with its ring entry of KIND 1 (R157, R158, R165). -/
def issueCmd (s : State) (i : Instr) (kind : MatKind) (ds : List Desc) (args : BitVec 32) : Except Stop State := do
  let x := s.me
  if s.skipped 0 then .ok s
  else match descChecks s s.cur.1 x.space kind.pairGeom.1 kind.pairGeom.2 (ds.zip kind.roles) with
    | .error (c, a) => .error (.post { code := c, access := .matrix, addr := BitVec.ofNat 64 a, ord := 0 })
    | .ok s =>
      if matQueue ≤ s.here.queued then .error (.wait s)
      else
        let (s, q) ← ringTake s i 1 args 0
        let m : MatCmd := ⟨s.nextId, kind, x.ctxKey, x.space, s.cur.2, q, x.pc, ds, none, false, [], none, [], none⟩
        .ok (s.bumpId.modHere fun y => { y with matq := y.matq ++ [m] })

/-- Descriptors by number in the strand's array, or BUF_DESC_INVALID (R30). -/
def myDescs (s : State) : List Nat → Except Stop (List Desc)
  | [] => .ok []
  | n :: t => do
    match s.desc? s.cur.1 s.me.bufbase n true with
    | none => .error (.trap .bufDescInvalid)
    | some d =>
      let r ← myDescs s t
      .ok (d :: r)

/-- What R156 demands of the descriptors of an mma beyond R30. -/
def mmaDescs (pair : Nat) (ds : List Desc) : Bool :=
  match ds with
  | a :: b :: o => decide (minItem pair ≤ a.item) && decide (minItem pair ≤ b.item) && a.count == b.count &&
      o.all fun d => d.item == 12 && d.count == 1
  | _ => false

/-- mma (R155 to R158). -/
def execMma (a b o : BitVec 4) (m : BitVec 6) (l : BitVec 4) (s : State) : Host.Outcome State Fault Refusal :=
  run (.mma a b o m l) s fun s => do
    gate s 2
    touch s
    if s.ownBusy then .error (.wait s)
    else
      let pair := (m.extractLsb' 0 3).toNat
      let emit := m.getLsbD 5
      let ds ← myDescs s ([a.toNat, b.toNat] ++ if emit then [o.toNat] else [])
      if !mmaDescs pair ds then .error (.trap .bufDescInvalid)
      else
        issueCmd s (.mma a b o m l) (.mma pair (m.extractLsb' 3 2).toNat emit) ds
          (BitVec.ofNat 32 (a.toNat + 256 * b.toNat + 65536 * (if emit then o.toNat else 255) + 2 ^ 24 * m.toNat))

/-- An accumulator instruction (R165): ARGS bytes 1 to 3 of its ring entry, for which R165 names no descriptor, are 0, and so is byte 0 of
acc.zero (log 56). -/
def accBody (i : Instr) (kind : MatKind) (n : Option Nat) (s : State) : Except Stop State := do
  gate s 2
  touch s
  if s.ownBusy then .error (.wait s)
  else
    let ds ← myDescs s n.toList
    if ds.any (fun d => d.item ≠ 12 || d.count ≠ 1) then .error (.trap .bufDescInvalid)
    else issueCmd s i kind ds (BitVec.ofNat 32 (n.getD 0))

/-- acc.zero (R165). -/
def execAccZero (l : BitVec 4) (s : State) : Host.Outcome State Fault Refusal :=
  run (.accZero l) s (accBody (.accZero l) .zero none)
/-- acc.ld (R165). -/
def execAccLd (n l : BitVec 4) (s : State) : Host.Outcome State Fault Refusal :=
  run (.accLd n l) s (accBody (.accLd n l) .ld (some n.toNat))
/-- acc.st (R165). -/
def execAccSt (n l : BitVec 4) (s : State) : Host.Outcome State Fault Refusal :=
  run (.accSt n l) s (accBody (.accSt n l) .st (some n.toNat))

/-! Remote and panel commands at their issuer (R162 to R164). -/

/-- The brick of a VA of brick SRAM, or what stands against it: a mapping of another class is BUF_DESC_INVALID (R162). -/
def targetBrick (s : State) (va : Word) (ord : Nat) : Except Stop (Nat × State) :=
  if va.toNat < Config.sramBytes then .ok (s.cur.1, s)
  else match s.translate s.cur.1 s.me.space va.toNat true with
    | .ok (p, t) => if paClass p.pa = 0 then .ok (paBrick p.pa, t) else .error (.trap .bufDescInvalid)
    | .error c => .error (.post { code := c, access := .matrix, addr := va, ord := ord })

/-- Bytes of a command record that have to be zero or descriptor numbers (R162). -/
def recordOk (l : List Byte) (zeros descs : List Nat) : Bool :=
  zeros.all (fun i => l.getD i 0 = 0) && descs.all fun i => decide ((l.getD i 0).toNat < 16)

/-- The operation of a remote or panel command that waits for n answers (R163, R164). -/
def remoteOp (s : State) (l d : BitVec 4) (n : Nat) (q : BitVec 32) : Op := newOp s l (.remote d n []) (some q)

/-- mma.r (R162, R163). -/
def execMmaR (a d : BitVec 4) (m : BitVec 6) (l : BitVec 4) (s : State) : Host.Outcome State Fault Refusal :=
  run (.mmaR a d m l) s fun s => do
    gate s 2
    touch s
    let at_ := s.me.sreg a
    if at_.toNat % 8 ≠ 0 then .error (.trap .misaligned)
    else if s.skipped 20 then .ok s
    else
      let (r, s) ← readRec s 10 at_ 8 32 needLoad 0
      if !recordOk r (15 :: (List.range 16).map (· + 16)) [12, 13, 14] then .error (.trap .bufDescInvalid)
      else
        let (t, s) ← targetBrick s (doubleAt r 0) 20
        let (s, q) ← ringTake s (.mmaR a d m l) 1
          (BitVec.ofNat 32 (numAt r 12 1 + 256 * numAt r 13 1 + 65536 * (if m.getLsbD 5 then numAt r 14 1 else 255) + 2 ^ 24 * m.toNat)) 0
        let op := remoteOp s l d 1 q
        let s := s.addOp op
        .ok { s.bumpId with rcmds := s.rcmds ++ [⟨s.nextId, s.cur.1, s.cur.2, op.id, t, s.me.space, numAt r 8 4,
          BitVec.ofNat 32 (encode (.mmaR a d m l)), m, [numAt r 12 1, numAt r 13 1, numAt r 14 1], false, 0, none, none, []⟩] }

/-- Column of the course window in which a VA lies (R35). -/
def windowCol (s : State) (va : Word) : Nat := (va - BitVec.ofNat 64 (s.here.coursewin.toNat * 2 ^ 30)).toNat / 0x20000 % 64

/-- The panel's bricks in ascending panel index, through the course window; one past its last column is outside the course (R164). -/
def panelBricks (s : State) (org : Word) (cols : Nat) : List Nat → Except Stop (List (Nat × Nat) × State)
  | [] => .ok ([], s)
  | i :: t => do
    let va := org + BitVec.ofNat 64 ((i / cols * 64 + i % cols) * 0x20000)
    let (b, s) ← if 64 ≤ windowCol s org + i % cols then .error (.post { code := .notMapped, access := .matrix, addr := va, ord := 20 })
      else targetBrick s va 20
    let (r, s) ← panelBricks s org cols t
    .ok ((i / cols * 32 + i % cols, b) :: r, s)

/-- What R164 demands of the issuer's descriptors. -/
def panelDescs (pair rows cols : Nat) (a b : Desc) : Bool :=
  a.mcrow && b.mccol && a.count == b.count && decide (minItem pair ≤ a.item) && decide (minItem pair ≤ b.item) &&
  decide (rows * 2 ^ minItem pair ≤ 2 ^ a.item) && decide (cols * 2 ^ minItem pair ≤ 2 ^ b.item)

/-- mma.p (R162, R164). -/
def execMmaP (a d : BitVec 4) (m : BitVec 6) (l : BitVec 4) (s : State) : Host.Outcome State Fault Refusal :=
  run (.mmaP a d m l) s fun s => do
    gate s 2
    touch s
    let at_ := s.me.sreg a
    if at_.toNat % 8 ≠ 0 then .error (.trap .misaligned)
    else if s.skipped 20 ∨ s.skipped 0 then .ok s
    else if s.ownBusy then .error (.wait s)
    else
      let (r, s) ← readRec s 10 at_ 8 32 needLoad 0
      let rows := numAt r 8 1 + 1
      let cols := numAt r 9 1 + 1
      let pair := (m.extractLsb' 0 3).toNat
      let geom := (m.extractLsb' 3 2).toNat
      if !recordOk r ([10, 11] ++ (List.range 13).map (· + 19)) [16, 17, 18] ∨ 16 < rows ∨ 32 < cols then .error (.trap .bufDescInvalid)
      else
        let ds ← myDescs s [numAt r 16 1, numAt r 17 1]
        match ds with
        | [da, db] =>
          if !panelDescs pair rows cols da db then .error (.trap .bufDescInvalid)
          else
            match descChecks s s.cur.1 s.me.space pair geom [(da, .opA), (db, .opB)] with
            | .error (c, x) => .error (.post { code := c, access := .matrix, addr := BitVec.ofNat 64 x, ord := 0 })
            | .ok s =>
              let (bs, s) ← panelBricks s (doubleAt r 0) cols (List.range (rows * cols))
              let (s, q) ← ringTake s (.mmaP a d m l) 1
                (BitVec.ofNat 32 (numAt r 16 1 + 256 * numAt r 17 1 + 65536 * (if m.getLsbD 5 then numAt r 18 1 else 255) + 2 ^ 24 * m.toNat)) 0
              let op := remoteOp s l d bs.length q
              let s := s.addOp op
              let job : PanelJob := ⟨s.nextId, op.id, s.cur.2, s.me.space, s.me.ctxKey, q, s.me.pc, da, db, rows, cols, pair, geom, []⟩
              let cmds := bs.zipIdx.map fun p => (⟨s.nextId + 1 + p.2, s.cur.1, s.cur.2, op.id, p.1.2, s.me.space, numAt r 12 4,
                BitVec.ofNat 32 (encode (.mmaP a d m l)), m, [numAt r 18 1], true, p.1.1, none, none, []⟩ : RemoteCmd)
              .ok (({ s with nextId := s.nextId + 1 + cmds.length, rcmds := s.rcmds ++ cmds }).modHere fun y =>
                { y with panels := y.panels ++ [job] })
        | _ => .error (.trap .bufDescInvalid)

/-! Remote and panel commands at their target (R163, R164). -/

/-- The slot of a brick that matches a command, with its number (R161, R163). -/
def Brick.slotFor (y : Brick) (key nonce : Nat) : Option (Nat × Slot) :=
  (y.slots.toList.zipIdx.filterMap fun q => q.1.map fun t => (q.2, t)).find? fun q => q.2.key = key && q.2.nonce = nonce

/-- Where a context of a brick is: the strand that runs it or holds its entries, its space and its save area. -/
def Brick.whereIs (y : Brick) (ctx strand : Nat) : Option (Fin 5 × Nat × Nat × BitVec 32) :=
  match (List.finRange 5).find? (fun k => (y.strand k).task.isSome && (y.strand k).ctxKey = ctx) with
  | some k => let x := y.strand k; some (k, x.space, x.saveBase, x.ctxid)
  | none =>
    ((y.ready ++ y.away ++ y.kept).find? fun c => c.space + 2 ^ 20 * c.ctxid.toNat = ctx).map fun c =>
      (Fin.ofNat 5 (c.strand.getD strand), c.space, c.savearea.toNat, c.ctxid)

/-- A brick's ring on strand k takes an entry for a context; none while the place is in use (R23, R163). -/
def ringFor (s : State) (b : Nat) (k : Fin 5) (ctx : Nat) (pc : Word) (insn : IWord) (args : BitVec 32) :
    Option (State × BitVec 32) :=
  let x := s.strand b k
  let q := x.seqNext
  if x.ring.any fun e => e.seq.toNat % 64 = q.toNat % 64 then none
  else
    let hold (c : Ctx) : Ctx := if c.space + 2 ^ 20 * c.ctxid.toNat = ctx then { c with strand := some k } else c
    some ((s.modStrand b k fun x =>
      { x with seqNext := q + 1, ring := x.ring ++ [⟨q, 1, none, pc, insn, args, 0, ctx, false⟩] }).modBrick b fun y =>
        { y with ready := y.ready.map hold, away := y.away.map hold, kept := y.kept.map hold }, q)

/-- The n-th remote command with its answer. -/
def answerCmd (s : State) (n : Nat) (ok : Bool) : State :=
  { s with rcmds := s.rcmds.modify n fun c => { c with answered := some ok } }

/-- The opener's command as it comes from the slot's array (R163): descriptors, or none if R30, R156 or R164 refuses them. -/
def slotDescs (s : State) (b : Nat) (t : Slot) (c : RemoteCmd) : Option (List Desc) :=
  let emit := c.mode.getLsbD 5
  let pair := (c.mode.extractLsb' 0 3).toNat
  let nums := if c.panel then (if emit then c.descs else []) else if emit then c.descs else c.descs.take 2
  let ds := nums.map fun n => s.desc? b t.bufbase n true
  if ds.all Option.isSome then
    let ds := ds.filterMap id
    if c.panel then (if ds.all (fun d => d.item == 12 && d.count == 1) then some ds else none)
    else if mmaDescs pair ds then some ds else none
  else none

/-- A fault that a target meets before it queues a command goes to the fault service as the opening task's, and the command waits for
the reply (R159, R163; log 111). -/
def postCmd (s : State) (n : Nat) (c : RemoteCmd) (t : Slot) (st : Fin 5) (space : Nat) (p : Post) : State :=
  let tok := s.nextId % 2 ^ 32
  (({ s with rcmds := s.rcmds.modify n fun c => { c with tok := some (tok, p.ord, p.code) } }.bumpId).trace c.dst st 4 0
    (BitVec.ofNat 64 p.code.num)).sendFault ⟨space, p.code, c.dst, st, p.access, false, t.pc, p.addr, p.seq, tok⟩

/-- A command that finds the accumulator free touches it for the opener of its slot: the change of ACCOWN begins, and the command is queued
after it (R22, R163, R242). -/
def touchFor (s : State) (b k space save : Nat) (ctxid : BitVec 32) : State :=
  s.modBrick b fun y => { y with ownPending := some ⟨ownWord space ctxid, k, none, [], false, space, save, none, true⟩ }

/-- KIND and ARGS of an accepted command (R157, R163). -/
def RemoteCmd.kind (c : RemoteCmd) : MatKind × BitVec 32 :=
  let pair := (c.mode.extractLsb' 0 3).toNat
  let geom := (c.mode.extractLsb' 3 2).toNat
  let emit := c.mode.getLsbD 5
  (if c.panel then .panel pair geom emit else .mma pair geom emit,
    BitVec.ofNat 32 ((if c.panel then 255 + 256 * 255 else c.descs.getD 0 0 + 256 * c.descs.getD 1 0) +
      65536 * (if emit then c.descs.getLastD 0 else 255) + 2 ^ 24 * c.mode.toNat))

/-- A command under slot k is checked as an mma of the opening task, takes an entry of its ring and is queued; a descriptor that R30
refuses is a late fault of that entry (R163, R164; log 111). -/
def queueCmd (s : State) (n : Nat) (c : RemoteCmd) (k : Nat) (t : Slot) (st : Fin 5) (space : Nat) : State :=
  let (kind, args) := c.kind
  let take (s : State) := ringFor s c.dst st t.ctx t.pc c.insn args
  match slotDescs s c.dst t c with
  | none => match take s with
    | some (s, q) => answerCmd (lateFaultAt s c.dst st q .bufDescInvalid 0) n true
    | none => s
  | some ds => match descChecks s c.dst space kind.pairGeom.1 kind.pairGeom.2 (ds.zip (if c.panel then [.out] else [.opA, .opB, .out])) with
    | .error (code, a) => postCmd s n c t st space { code := code, access := .matrix, addr := BitVec.ofNat 64 a, ord := 0 }
    | .ok s =>
      if matQueue ≤ (s.brick c.dst).queued then s
      else match take s with
        | none => s
        | some (s, q) =>
          let m : MatCmd := ⟨c.id, kind, t.ctx, space, st, q, t.pc, ds, some k, false, [], none, [], some (c.src, c.by_, c.id)⟩
          answerCmd (s.modBrick c.dst fun y => { y with matq := y.matq ++ [m] }) n true

/-- A target accepts a command against its slots, or refuses it (R163, R164). An accepted command touches a free accumulator for
its opener, is checked and is queued; SKIP discards it (R159). -/
def acceptCmd (s : State) (n : Nat) (c : RemoteCmd) : State :=
  let y := s.brick c.dst
  if c.tok.isSome then s
  else match y.slotFor c.key c.nonce with
  | none => answerCmd s n false
  | some (k, t) =>
    match y.whereIs t.ctx t.strand with
    | none => answerCmd s n false
    | some (st, space, save, ctxid) =>
      if c.answers.any fun a => a.1 = 0 && a.2 = .skip then answerCmd s n true
      else if !y.accown.getLsbD 63 && y.ownPending.isNone then touchFor s c.dst st space save ctxid
      else queueCmd s n c k t st space

/-- MMA_R_REQUEST: the n-th remote command reaches its target (R163). -/
def execMmaRRequest (n : Nat) (s : State) : Host.Outcome State Fault Refusal :=
  .next (match s.rcmds[n]? with
  | some c => if c.panel ∨ c.answered.isSome then s else acceptCmd s n c
  | none => s)

/-- MMA_P_REQUEST: a panel command reaches one panel brick (R164). -/
def execMmaPRequest (n : Nat) (s : State) : Host.Outcome State Fault Refusal :=
  .next (match s.rcmds[n]? with
  | some c => if !c.panel ∨ c.answered.isSome then s else acceptCmd s n c
  | none => s)

/-- The status of mma.r and mma.p (R164): refusals counted, and the lowest panel index that refused. -/
def remoteStatus (refused : List Nat) : Word :=
  match refused.min? with
  | none => 0
  | some i => BitVec.ofNat 64 (0x63 + refused.length % 65536 * 65536 + i % 512 * 2 ^ 32)

/-- CAPABILITY_ANSWER: the answers of an operation's targets arrive; with the last, the status is known (R163, R164). The entry
of mma.r frees; that of mma.p, once its panel has fired or no brick accepted. -/
def execCapabilityAnswer (b op : Nat) (s : State) : Host.Outcome State Fault Refusal :=
  .next (
    let (mine, rest) := s.rcmds.partition fun c => c.src = b && c.op = op && c.answered.isSome
    match (s.brick b).anyOp op with
    | none => s
    | some o =>
      match o.kind with
      | .remote d left refused =>
        if mine.isEmpty then s
        else
          let refused := refused ++ (mine.filter fun c => c.answered = some false).map (·.idx)
          let took := (mine.filter fun c => c.panel && c.answered = some true).map fun c => (c.dst, c.id, c.idx)
          let left := left - mine.length
          let f (o : Op) : Op := { o with
            kind := .remote d left refused
            done := decide (left = 0)
            commit := ⟨some (d, remoteStatus refused), [], false⟩ }
          let s := ({ s with rcmds := rest }).modBrick b fun y =>
            { (y.modOp op f) with panels := y.panels.map fun (p : PanelJob) => if p.op = op then { p with accepted := p.accepted ++ took } else p }
          if left ≠ 0 then s
          else
            let ctx := (((s.brick b).panels.find? fun (p : PanelJob) => p.op = op).map PanelJob.ctx).getD (ctxOf s op)
            if (s.brick b).panels.any (fun (p : PanelJob) => p.op = op && p.accepted ≠ []) then s
            else s.modBrick b fun y => { (y.freeSeq ctx o.seq) with panels := y.panels.filter fun (p : PanelJob) => p.op ≠ op }
      | _ => s)
where
  /-- The context that runs an operation. -/
  ctxOf (s : State) (op : Nat) : Nat :=
    match (s.brick b).findOp op with
    | some (k, _) => (s.strand b k).ctxKey
    | none => (((s.brick b).findAwayOp op).map fun q => q.1.space + 2 ^ 20 * q.1.ctxid.toNat).getD 0

/-! Firing (R153, R157, R158, R160). -/

/-- Whether the buffers of a command are ready (R153); a panel step also needs its tiles (R164). A command with an output waits until the
one that fired before it has advanced its pointer (R154, R158). -/
def MatCmd.ready (m : MatCmd) (s : State) (b : Nat) : Bool :=
  !(m.kind.stores && (s.brick b).matq.any fun q => q.fired && q.kind.stores) &&
  match m.kind, m.descs with
  | .mma _ _ _, a :: c :: o => a.ready s b m.space true && c.ready s b m.space true && o.all fun d => d.ready s b m.space false
  | .panel _ _ _, o => m.tiles ≠ [] && o.all fun d => d.ready s b m.space false
  | .zero, _ => true
  | .ld, d :: _ => d.ready s b m.space true
  | .st, d :: _ => d.ready s b m.space false
  | _, _ => false

/-- The command with number id leaves the queue and its ring entry frees; its pins end with it, also when a late fault keeps the entry
(R157, R160; log 110). -/
def dropCmd (s : State) (b : Nat) (m : MatCmd) : State :=
  s.modBrick b fun y => { (y.freeSeq m.ctx (some m.seq)) with matq := y.matq.filter fun q => q.id ≠ m.id }

/-- The pieces of an item's tile. -/
def tileLines (va n : Nat) : List (Nat × Nat) := linePieces (n / 64 + 2) va n

/-- A tile of item k of an operand buffer, off bytes into the item (R156, R164). -/
def fetchTile (s : State) (b space : Nat) (d : Desc) (k off n : Nat) : Except (Code × Nat) (Nat × Fetched) := do
  let va := d.itemAt k + off
  let f ← operandLines s b space (tileLines va n)
  .ok (va, f)

/-- The tiles of step j of a firing: item CONS + j of each operand (R157). -/
def fetchStep (s : State) (b space pair geom : Nat) (a c : Desc) (ka kc oa oc : Nat) : Except (Code × Nat) (Tiles × State) := do
  let (va, fa) ← fetchTile s b space a ka oa (tileBytes pair geom)
  let (vc, fc) ← fetchTile fa.state b space c kc oc (tileBytes pair geom)
  .ok (⟨fa.data, fc.data, va, vc, lowest fa.poison fc.poison, lowest fa.tagBad fc.tagBad⟩, fc.state)

/-- The tiles of n steps. -/
def fetchSteps (s : State) (b space pair geom : Nat) (a c : Desc) (ka kc oa oc : Nat) : Nat → Except (Code × Nat) (List Tiles × State)
  | 0 => .ok ([], s)
  | n + 1 => do
    let (t, s) ← fetchStep s b space pair geom a c ka kc oa oc
    let (r, s) ← fetchSteps s b space pair geom a c (ka + 1) (kc + 1) oa oc n
    .ok (t :: r, s)

/-- The lines of n items of a buffer from item k on have homes that are ready. -/
def itemsReady (s : State) (b space : Nat) (d : Desc) (k n : Nat) : Bool :=
  (List.range n).all fun j => linesReady s b space (tileLines (d.itemAt (k + j)) (2 ^ d.item))

/-- What a firing's fetches raise: a POISON report, SCALE_INVALID and SEALED_INTEGRITY (R53, R157, R159). A firing that raises both late
faults has one ring entry: it shows the later, SEALED_INTEGRITY, and both are delivered (log 110). -/
def fireFaults (s : State) (b : Nat) (m : MatCmd) (pair geom : Nat) (ts : List Tiles) : State :=
  let at_ (a : Nat) : Word := BitVec.ofNat 64 a
  let s := match lowestOf (·.poison) ts with
    | some a => s.report b m.strand m.space .poison .matrix m.pc (at_ a) m.seq
    | none => s
  let k : Fin 5 := Fin.ofNat 5 m.strand
  let late (s : State) (c : Code) (a : Option Nat) : State := match a with
    | some a => lateFaultAt s b k m.seq c (at_ a)
    | none => s
  late (late s .scaleInvalid (lowestOf (Tiles.badScale pair geom) ts)) .sealedIntegrity (lowestOf (·.tagBad) ts)

/-- The accumulator after the steps of a firing (R58, R159). -/
def fireAcc (acc : Acc) (pair geom : Nat) (ts : List Tiles) : Acc :=
  let r := ts.foldl (fun x t => matStep pair geom x t) acc
  if (lowestOf (·.tagBad) ts).isSome then accNan else r

/-- The command's ranges: its buffers, and its pointer words in memory (R160, R267). -/
def MatCmd.ranges (m : MatCmd) : List (Nat × Nat) :=
  m.descs.flatMap fun d => [(d.base.toNat, 2 ^ d.log2)] ++ (if d.ppmem then [(d.prod.toNat, 8)] else []) ++
    if d.cpmem then [(d.cons.toNat, 8)] else []

/-- Two ranges overlap. -/
def overlaps (a n b m : Nat) : Bool := decide (a < b + m) && decide (b < a + n)

/-- The translations that a firing command pins: those its ranges use now (R160, R267). -/
def pinsOf (s : State) (b : Nat) (m : MatCmd) : List XEntry :=
  let on (va len : Nat) : Bool := m.ranges.any fun r => overlaps r.1 r.2 va len
  (s.brick b).entries.filter (fun e => e.space = m.space && on e.va e.len) ++
    (s.nodes.filter fun n => n.space = m.space && !n.withdrawing && n.mixed = [] && on n.va n.len).map fun n => ⟨n.space, n.va, n.len, n⟩

/-- The command as fired, its image kept for the store that follows. -/
def setFired (s : State) (b : Nat) (m : MatCmd) (img : Option Acc) (acc : Acc) : State :=
  s.modBrick b fun y =>
    { y with acc := acc, matq := y.matq.map fun q => if q.id = m.id then { q with fired := true, tiles := [], image := img, pins := pinsOf s b m } else q }

/-- The steps of a firing on its tiles: accumulator, late faults, and the image for EMIT (R157). -/
def fireSteps (s : State) (b : Nat) (m : MatCmd) (pair geom : Nat) (emit : Bool) (ts : List Tiles) : State :=
  let acc := fireAcc (s.brick b).acc pair geom ts
  fireFaults (setFired s b m (if emit then some acc else none) (if emit then 0 else acc)) b m pair geom ts

/-- A command that fails its translation when it is ready is discarded and reported NOT_MAPPED (R160). -/
def discardCmd (s : State) (b : Nat) (m : MatCmd) (a : Nat) : State :=
  dropCmd (s.report b m.strand m.space .notMapped .matrix m.pc (BitVec.ofNat 64 a) m.seq) b m

/-- The matrix unit as it writes for a command (R154). -/
def MatCmd.engine (m : MatCmd) : Engine := ⟨16, m.id, m.ctx, m.space, m.strand, m.pc, m.seq, .matrix⟩
/-- The matrix unit as it advances the pointers of a panel (R164). -/
def PanelJob.engine (p : PanelJob) : Engine := ⟨16, p.id, p.ctx, p.space, p.strand, p.pc, p.seq, .matrix⟩

/-- A ready command fires (R157, R158, R160, R165). -/
def fireCmd (s : State) (b : Nat) (m : MatCmd) : State :=
  match descChecks s b m.space m.kind.pairGeom.1 m.kind.pairGeom.2 (m.descs.zip m.kind.roles) with
  | .error (_, a) => discardCmd s b m a
  | .ok s =>
    match m.kind, m.descs with
    | .mma pair geom emit, a :: c :: _ =>
      let ka := (a.live s b m.space false).toOption.getD 0
      let kc := (c.live s b m.space false).toOption.getD 0
      if !itemsReady s b m.space a ka a.count ∨ !itemsReady s b m.space c kc c.count then s
      else match fetchSteps s b m.space pair geom a c ka kc 0 0 a.count with
        | .error (_, x) => discardCmd s b m x
        | .ok (ts, s) =>
          let s := fireSteps s b m pair geom emit ts
          c.bump (a.bump s b m.engine false a.count) b m.engine false c.count
    | .panel pair geom emit, _ => fireSteps s b m pair geom emit m.tiles
    | .zero, _ => setFired s b m none 0
    | .ld, d :: _ =>
      let k := (d.live s b m.space false).toOption.getD 0
      if !itemsReady s b m.space d k 1 then s
      else match homeLines s b m.space (fun _ => none) (tileLines (d.itemAt k) 4096) with
        | .error (_, x) => discardCmd s b m x
        | .ok (l, s) =>
          let s := setFired s b m none (accLoad l)
          let s := match l.findIdx? (·.2) with
            | some i => s.report b m.strand m.space .poison .matrix m.pc (BitVec.ofNat 64 ((d.itemAt k + i) / 64 * 64)) m.seq
            | none => s
          d.bump s b m.engine false 1
    | .st, _ :: _ => setFired s b m (some (s.brick b).acc) (s.brick b).acc
    | _, _ => s

/-- The tiles of a panel for brick (i, j): tile i of each A item and tile j of each B item (R164). -/
def panelTiles (s : State) (b : Nat) (p : PanelJob) (ka kc : Nat) (idx : Nat) : Except (Code × Nat) (List Tiles × State) :=
  fetchSteps s b p.space p.pair p.geom p.a p.b ka kc (idx / 32 * 2 ^ minItem p.pair) (idx % 32 * 2 ^ minItem p.pair) p.a.count

/-- Every accepting brick's command receives its tiles (R164). -/
def multicast (s : State) (b : Nat) (p : PanelJob) (ka kc : Nat) : List (Nat × Nat × Nat) → Except (Code × Nat) State
  | [] => .ok s
  | (dst, id, idx) :: t => do
    let (ts, s) ← panelTiles s b p ka kc idx
    multicast (s.modBrick dst fun y => { y with matq := y.matq.map fun m => if m.id = id then { m with tiles := ts } else m }) b p ka kc t

/-- A panel job ends: its ring entry frees (R164). -/
def dropPanel (s : State) (b : Nat) (p : PanelJob) : State :=
  s.modBrick b fun y => { (y.freeSeq p.ctx (some p.seq)) with panels := y.panels.filter fun q => q.id ≠ p.id }

/-- A panel whose buffers are ready, and whose bricks have all answered, is multicast (R164). One whose checks or fetches fail at its firing is
dropped and reported, and the steps that its bricks have queued stay without tiles (log 54). -/
def firePanel (s : State) (b : Nat) (p : PanelJob) : State :=
  match descChecks s b p.space p.pair p.geom [(p.a, .opA), (p.b, .opB)] with
  | .error (_, a) => dropPanel (s.report b p.strand p.space .notMapped .matrix p.pc (BitVec.ofNat 64 a) p.seq) b p
  | .ok s =>
    let ka := (p.a.live s b p.space false).toOption.getD 0
    let kc := (p.b.live s b p.space false).toOption.getD 0
    if !itemsReady s b p.space p.a ka p.a.count ∨ !itemsReady s b p.space p.b kc p.b.count then s
    else match multicast s b p ka kc p.accepted with
      | .error (_, a) => dropPanel (s.report b p.strand p.space .notMapped .matrix p.pc (BitVec.ofNat 64 a) p.seq) b p
      | .ok s => dropPanel (p.b.bump (p.a.bump s b p.engine false p.a.count) b p.engine false p.b.count) b p

/-- The context with a key owns the accumulator, and no change of ACCOWN is under way (R22). -/
def Brick.ownedBy (y : Brick) (ctx : Nat) : Bool :=
  y.ownPending.isNone && y.ownsAcc (ctx % 2 ^ 20) (BitVec.ofNat 32 (ctx / 2 ^ 20))

/-- The panel jobs whose bricks have all answered, of the accumulator's owner (R22, R164). -/
def panelsDue (s : State) (b : Nat) : List PanelJob :=
  (s.brick b).panels.filter fun p => (s.brick b).ownedBy p.ctx && p.accepted ≠ [] && !(s.rcmds.any fun c => c.src = b && c.op = p.op)

/-- The panel job that may fire. -/
def panelReady (s : State) (b : Nat) : Option PanelJob :=
  (panelsDue s b).find? fun p => p.a.ready s b p.space true && p.b.ready s b p.space true

/-- The oldest command whose context owns the accumulator (R158); none while a change of ACCOWN is under way (R22). -/
def Brick.head (y : Brick) : Option MatCmd := y.matq.find? fun m => !m.fired && y.ownedBy m.ctx

/-- The state after the tests of readiness that a firing makes: the pages of pointer words in memory are in the interface (R153, R262). -/
def probed (s : State) (b : Nat) : State :=
  let s := ((s.brick b).head.map (·.descs)).getD [] |>.foldl (fun s d => d.fill s b (((s.brick b).head.map (·.space)).getD 0)) s
  (panelsDue s b).foldl (fun s p => p.b.fill (p.a.fill s b p.space) b p.space) s

/-- MATRIX_COMMAND_FIRE: the owner's oldest command fires if its buffers are ready; else a panel of the owner that is ready is multicast
(R22, R153, R158, R164). -/
def execMatrixCommandFire (b : Nat) (s : State) : Host.Outcome State Fault Refusal :=
  let s := probed s b
  .next (match (s.brick b).head with
  | some m => if m.ready s b then fireCmd s b m else panel s
  | none => panel s)
where
  /-- The panel that is ready, if any. -/
  panel (s : State) : State := match panelReady s b with
    | some p => firePanel s b p
    | none => s

/-- The item's bytes are acknowledged at home: PROD advances, and the command ends (R154, R157). -/
def endStore (s : State) (b : Nat) (m : MatCmd) (d : Desc) : State :=
  let p := s.modBrick b fun y => { y.engineDone 16 m.id with entries := m.pins ++ y.entries }
  if !d.homes p b m.space then s
  else dropCmd ((d.bump p b m.engine true 1).modBrick b fun y => { y with entries := (s.brick b).entries }) b m

/-- MATRIX_COMMAND_COMPLETE: the oldest fired command's image is stored and acknowledged, PROD advances, and its ring entry and
pin free (R154, R157, R160). -/
def execMatrixCommandComplete (b : Nat) (s : State) : Host.Outcome State Fault Refusal :=
  .next (match (s.brick b).matq.find? (·.fired) with
  | none => s
  | some m =>
    match m.image, m.descs.getLast? with
    | some img, some d =>
      let p := s.modBrick b fun y => { y with entries := m.pins ++ y.entries }
      let k := (d.live p b m.space true).toOption.getD 0
      let va := d.itemAt k
      if !linesReady (p.openFor m.id) b m.space (tileLines va 4096) ∨ !d.homes p b m.space then s
      else match engineWrite p b m.engine va (leBytes 4096 img.toNat) with
        | none => s
        | some (.error (_, a)) => discardCmd s b m a
        | some (.ok p) =>
          let p := p.modBrick b fun y => { y with entries := (s.brick b).entries }
          if (p.brick b).enginePosted 16 m.id then p.modBrick b fun y => { y with
              matq := y.matq.map fun q => if q.id = m.id then { q with image := none } else q }
          else endStore p b m d
    | none, some d =>
      if !m.kind.stores then dropCmd s b m
      else if (s.brick b).engineBusy 16 m.id then s
      else endStore s b m d
    | _, none => dropCmd s b m)

/-! Capability slots (R161). -/

/-- The number that mx.open gives, and the slots after it (R161). -/
def openSlot (y : Brick) (w : Nat) (t : Slot) : Word × Option Nat :=
  if bits w 31 20 ≠ 0 then (-3, none)
  else if (y.slotFor t.key t.nonce).isSome then (-2, none)
  else match y.slots.toList.findIdx? Option.isNone with
    | none => (-1, none)
    | some k => (BitVec.ofNat 64 k, some k)

/-- A result that is known at issue, of an instruction of major 0x28: in task mode with a ring entry of KIND 6 (R23, R161, R175). -/
def mxResult (s : State) (i : Instr) (l d : BitVec 4) (fn k : Nat) (v : Word) : Except Stop State := do
  let (s, q) ← if s.me.mode = .task then (ringTake s i 6 (BitVec.ofNat 32 (fn + 256 * k)) 0).map fun r => (r.1, some r.2) else .ok (s, none)
  .ok (s.addOp { (newOp s l .plain q) with done := true, commit := ⟨some (d, v), [], false⟩ })

/-- mx.open (R161). -/
def execMxOpen (d : BitVec 4) (a : Src) (l : BitVec 4) (s : State) : Host.Outcome State Fault Refusal :=
  run (.mxOpen d a l) s fun s => do
    let w := (s.scalar a false).toNat
    let x := s.me
    let t : Slot := ⟨bits w 19 0, bits w 63 32, x.ctxKey, s.cur.2, x.pc, x.bufbase⟩
    let (v, k) := openSlot s.here w t
    let s ← mxResult s (.mxOpen d a l) l d 0 (k.getD 255) v
    .ok (match k with
      | some k => s.modHere fun y => { y with slots := y.slots.mapFinIdx fun i o _ => if i = k then some t else o }
      | none => s)

/-- mx.close: fired commands of the slot complete, queued ones are discarded (R161). -/
def execMxClose (d : BitVec 4) (a : Src) (l : BitVec 4) (s : State) : Host.Outcome State Fault Refusal :=
  run (.mxClose d a l) s fun s => do
    let k := (s.scalar a false).toNat
    let mine := (s.here.slots.toList)[k]?.any fun o => o.any fun t => t.ctx = s.me.ctxKey
    if !mine then mxResult s (.mxClose d a l) l d 1 (if k < 8 then k else 255) (-1)
    else if s.here.matq.any (fun m => m.slot = some k && m.fired) then .error (.wait s)
    else
      let gone := s.here.matq.filter fun m => m.slot = some k
      let s ← mxResult s (.mxClose d a l) l d 1 k 0
      .ok (s.modHere fun y => gone.foldl (fun y m => y.freeSeq m.ctx (some m.seq))
        { y with
          matq := y.matq.filter fun m => m.slot ≠ some k
          slots := y.slots.mapFinIdx fun i o _ => if i = k then none else o })

/-- A double of a ring entry (R24). -/
def RingEntry.double (e : RingEntry) (n : Nat) : Word :=
  if n = 0 then BitVec.ofNat 64 (e.seq.toNat + e.kind * 2 ^ 32 + (if e.fault.isSome then 2 else 1) * 2 ^ 40)
  else if n = 1 then e.pc
  else if n = 2 then BitVec.ofNat 64 (e.insn.toNat + e.args.toNat * 2 ^ 32)
  else e.addr

/-- What mx.ring reads (R175). -/
def Strand.ringRead (x : Strand) (a b : Word) : Word :=
  match x.ring.find? (fun e => e.seq.toNat % 64 = a.toNat % 64) with
  | some e => if e.seq ≠ a.truncate 32 ∨ e.tag ≠ x.ctxKey then 0 else e.double (b.toNat % 4)
  | none => 0

/-- mx.ring (R175). -/
def execMxRing (d : BitVec 4) (a b : Src) (l : BitVec 4) (s : State) : Host.Outcome State Fault Refusal :=
  run (.mxRing d a b l) s fun s =>
    mxResult s (.mxRing d a b l) l d 2 255 (s.me.ringRead (s.srcA a b) (s.srcB b))

/-! Buffer instructions (R166, R167). -/

/-- buf.set (R167): a descriptor whose place lies past the local window is stored as any store to its VA is (log 57). -/
def execBufSet (n d : BitVec 4) (s : State) : Host.Outcome State Fault Refusal :=
  run (.bufSet n d) s fun s =>
    let at_ := s.me.sreg d
    if at_.toNat % 8 ≠ 0 then .error (.trap .misaligned)
    else do
      let (l, t) ← readRec s 0 at_ 8 32 needLoad 0
      if descBad l true then .error (.trap .bufDescInvalid)
      else whole s (storeAccess t 40 (BitVec.ofNat 64 (descAt s.me.bufbase n.toNat)) 8 32 (.write (l.map some)) .store)

/-- buf.adv: n is added to a pointer of a descriptor at the pointer's home (R167). -/
def bufAdv (s : State) (n d : BitVec 4) (prod : Bool) : Except Stop State :=
  if s.ownBusy then .error (.wait s)
  else match s.desc? s.cur.1 s.me.bufbase n.toNat false with
    | none => .error (.trap .bufDescInvalid)
    | some q =>
      let ea : Word := if (if prod then q.ppmem else q.cpmem) then (if prod then q.prod else q.cons)
        else BitVec.ofNat 64 (q.at_ + if prod then 16 else 24)
      storeAccess s 0 ea 8 8 (.bufAdv ((s.me.sreg d).truncate 32)) .store

/-- buf.adv.p (R167). -/
def execBufAdvP (n d : BitVec 4) (s : State) : Host.Outcome State Fault Refusal :=
  run (.bufAdvP n d) s fun s => if s.me.unacked ≠ 0 then .error (.wait s) else bufAdv s n d true

/-- buf.adv.c (R167). -/
def execBufAdvC (n d : BitVec 4) (s : State) : Host.Outcome State Fault Refusal :=
  run (.bufAdvC n d) s fun s => if loadBusy s.me.ops s.nextId then .error (.wait s) else bufAdv s n d false

/-- A pointer of a descriptor as buf.q reads it at its home; a sealed pointer word posts SEALED_STORE with ACCESS 5 (R167, R264). -/
def readPtr (s : State) (ord : Nat) (q : Desc) (prod : Bool) : Except Stop (Nat × State) := do
  let ea : Word := if (if prod then q.ppmem else q.cpmem) then (if prod then q.prod else q.cons)
    else BitVec.ofNat 64 (q.at_ + if prod then 16 else 24)
  match readHome s ord ea 8 needLoad 0 with
  | .ok (l, s) => .ok (leNat (l.take 4), s)
  | .error (.post p) => .error (.post (if p.code = .sealedLoad then { p with code := .sealedStore, access := .matrix } else p))
  | .error e => .error e

/-- buf.q (R167). -/
def execBufQ (d n : BitVec 4) (s : State) : Host.Outcome State Fault Refusal :=
  run (.bufQ d n) s fun s =>
    if s.ownBusy then .error (.wait s)
    else match s.desc? s.cur.1 s.me.bufbase n.toNat false with
      | none => .error (.trap .bufDescInvalid)
      | some q => do
        gate s 0
        let (p, s) ← readPtr s 0 q true
        let (c, s) ← readPtr s 1 q false
        .ok (s.setS d (BitVec.ofNat 64 ((p + 2 ^ 32 - c) % 2 ^ 32 + q.cap * 2 ^ 32)))

end Sys2Proof.Machine
end

