-- ==== Sys2Proof/Machine/Sync.lean ====
section
/-! DEFINITION. Binding, acquire and release, fences and landing words (R122 to R130). -/

namespace Sys2Proof.Machine

/-! Binding (R124, R125). -/

/-- A bind record that R124 refuses. -/
def bindBad (sync base len : Nat) : Bool :=
  sync % 8 ≠ 0 || base % 64 ≠ 0 || len % 64 ≠ 0 || len = 0 || decide (2 ^ 57 < base + len)

/-- The strand with bind entry n replaced and valid (R124). -/
def Strand.putBind (x : Strand) (n : Nat) (e : BindEntry) : Strand :=
  { x with
    binds := x.binds.mapFinIdx fun i o _ => if i = n then e else o
    bindtab := x.bindtab ||| BitVec.ofNat 8 (2 ^ n) }

/-- bind (R124). -/
def execBind (a b : Src) (s : State) : Host.Outcome State Fault Refusal :=
  run (.bind a b) s fun s =>
    let at_ := s.srcA a b
    let n := (s.srcB b).toNat
    if 7 < n then .error (.trap .reservedField)
    else if at_.toNat % 8 ≠ 0 then .error (.trap .misaligned)
    else if s.me.unacked ≠ 0 then .error (.wait s)
    else do
      let (l, s) ← readRec s 0 at_ 8 24 needLoad 0
      if bindBad (numAt l 0 8) (numAt l 8 8) (numAt l 16 8) then .error (.trap .misaligned)
      else .ok (s.modMe fun x => x.putBind n ⟨doubleAt l 0, doubleAt l 8, doubleAt l 16, 0⟩)

/-- The entries that unbind keeps: mask a, object b (R125). -/
def Strand.unbindBits (x : Strand) (a b : Word) : BitVec 8 :=
  BitVec.ofNat 8 ((List.range 8).foldl (fun t n =>
    if x.bindtab.getLsbD n && !(a.getLsbD n && (b == 0 || ((x.binds.toList)[n]?.map (·.sync)).getD 0 == b)) then t + 2 ^ n else t) 0)

/-- unbind (R125). -/
def execUnbind (a b : Src) (s : State) : Host.Outcome State Fault Refusal :=
  run (.unbind a b) s fun s =>
    let m := s.srcA a b
    let o := s.srcB b
    .ok (s.modMe fun x => { x with bindtab := x.unbindBits m o })

/-! Acquire and release (R126 to R128). -/

/-- An acquire of kind b succeeds on the value w (R126). -/
def acqOk (w : Nat) (b : Word) : Bool :=
  if b = 0 then w = 0
  else if b = BitVec.allOnes 64 then bits w 63 62 = 2 || bits w 63 62 = 3
  else decide (b.toNat ≤ w)

/-- The brick without the RRB lines in ranges bound to an object by the strand's valid entries (R126). -/
def Brick.rrbRelease (y : Brick) (x : Strand) (obj : Word) : Brick :=
  (List.range 8).foldl (fun y n =>
    let e := (x.binds.toList)[n]?.getD ⟨0, 0, 0, 0⟩
    if x.bindtab.getLsbD n && e.sync == obj then y.rrbDrop x.space e.base.toNat e.len.toNat else y) y

/-- One attempt of an acquire of the word at pa (R126). -/
def acqTry (s : State) (d : BitVec 4) (ea b : Word) (pa : Nat) : Except Stop State :=
  let w := s.num pa 8
  if acqOk w b then
    let t := if b = 0 then (noteCode s s.cur.1 s.cur.2 pa 8).softNum pa 8 1 else s
    let t := if b = 0 ∧ paClass pa = 0 ∧ paBrick pa ≠ s.cur.1 then wakeBrick t (paBrick pa) else t
    .ok ((t.modHere fun y => y.rrbRelease s.me ea).setS d (BitVec.ofNat 64 w))
  else .error (.block s (.acq ea b))

/-- acq (R126). -/
def execAcq (d : BitVec 4) (a b : Src) (s : State) : Host.Outcome State Fault Refusal :=
  run (.acq d a b) s fun s => do
    gate s 0
    let v := s.srcB b
    match ← reach s 0 (s.srcA a b) 8 needAcq 0 with
    | .skip => .ok (s.setS d 0)
    | .at ea p s =>
      if paClass p.pa = 4 ∧ p.pa < 2 ^ 52 then .error (.post ⟨.rights, .load, ea, 0, 0, []⟩)
      else if s.lineBusy s.cur.1 s.cur.2 s.nextId s.me.space ea.toNat (some p.pa) ∨ (homeHere s.cur.1 p.pa ∧ s.ownBusy)
        then .error (.wait s)
      else do
        homeWait s p.pa 0 .load ea
        if s.atomHeld s.me.space p.pa then .error (.wait s)
        else if s.readBad s.cur.1 s.me.space ea.toNat p.pa 8 then .error (.post ⟨.poison, .load, ea, 0, 0, []⟩)
        else if s.inDeque p.pa ∧ v = 0 then .error (.post ⟨.rights, .load, ea, 0, 0, []⟩)
        else acqTry (s.traceMe 3 0 ea) d ea v p.pa

/-- acq.all: the brick's RRB empties, and fetch sees other strands' stores to code (R91, R128). -/
def execAcqAll (s : State) : Host.Outcome State Fault Refusal :=
  run .acqAll s fun s =>
    .ok ((s.modHere Brick.rrbClear).modMe fun x => { x with fetchAll := s.codeLog.length })

/-- Valid bind entries of an object still count stores (R127). -/
def Strand.bindBusy (x : Strand) (obj : Word) : Bool :=
  (List.range 8).any fun n =>
    let e := (x.binds.toList)[n]?.getD ⟨0, 0, 0, 0⟩
    x.bindtab.getLsbD n && e.sync == obj && e.count ≠ 0

/-- rel (R127). -/
def execRel (a b : Src) (s : State) : Host.Outcome State Fault Refusal :=
  run (.rel a b) s fun s =>
    let ea := s.srcA a b
    if ea.toNat % 8 ≠ 0 then .error (.trap .misaligned)
    else if s.me.bindBusy ea then .error (.wait s)
    else storeAccess s 0 ea 8 8 (.rel (s.srcB b)) .store

/-- land.set (R122, R123). -/
def execLandSet (a b : Src) (s : State) : Host.Outcome State Fault Refusal :=
  run (.landSet a b) s fun s => storeAccess s 0 (s.srcA a b) 8 8 (.landSet (bits (s.srcB b).toNat 47 0)) .store

/-! Fences (R129, R130). -/

/-- fence.s: the strand waits for its retired accesses; fetch then sees its own stores to code (R91, R129). -/
def execFenceS (s : State) : Host.Outcome State Fault Refusal :=
  run .fenceS s fun s =>
    if s.me.unacked ≠ 0 then .error (.wait s)
    else .ok (s.modMe fun x => { x with fetchOwn := s.codeLog.length })

/-- fence.x (R130). -/
def execFenceX (a b : Src) (s : State) : Host.Outcome State Fault Refusal :=
  run (.fenceX a b) s fun s =>
    let m : BitVec 5 := (s.srcA a b).truncate 5
    let h : BitVec 5 := (s.srcB b).truncate 5
    if m = 0 then .ok s
    else if h = 0 then
      if s.drainedFor s.cur.1 s.cur.2 s.nextId m then
        .ok (if m.getLsbD 1 then s.modHere fun y => { y with tcache := [] } else s)
      else .error (.wait s)
    else if 4 ≤ s.me.fx.length then .error (.wait s)
    else
      let f : FxHold := ⟨m, h, s.nextId, s.cur.1, s.cur.2, s.me.ctxKey⟩
      let t := s.modMe fun x => { x with fx := x.fx ++ [f] }
      .ok (if m.getLsbD 1 || h.getLsbD 1 then t.modHere fun y => { y with fences := y.fences ++ [f] } else t)

end Sys2Proof.Machine
end

