-- ==== Sys2Proof/Machine/VectorMem.lean ====
section
/-! DEFINITION. Vector loads and stores (R135 to R138), gather and scatter (R139 to R141). -/

namespace Sys2Proof.Machine

/-! Vector loads (R135 to R137). -/

/-- The format of the mapping at an address, if translation finds one (R136). -/
def formOf (s : State) (ea : Word) : Option Attr :=
  if ea.toNat < Config.sramBytes then some (Attr.clear 7)
  else match s.translate s.cur.1 s.me.space ea.toNat true with
    | .ok (p, _) => some p.attr
    | .error _ => none

/-- A load of the decoding form: RAWF is 0, the address lies above the local window, and the format is B4 (R136). -/
def decodes (rawf : Bool) (ea : Word) (a : Attr) : Bool := !rawf && decide (Config.sramBytes ≤ ea.toNat) && a.fmt = .b4

/-- The offsets of bytes that active lane k of a decoding load needs: its scale word and its code (R137). -/
def laneBytes (geom k : Nat) : List Nat :=
  let o := k / geomCodes geom * geomBytes geom
  [o, o + 1, o + 2, o + 3, o + 4 + k % geomCodes geom / 2]

/-- The accesses of a load: number, address offset and length of each line that it touches (R137, R132). -/
def loadLines (ea : Word) (dec : Option Nat) (pair : Bool) (mask : PReg) : List (Nat × Nat × Nat) :=
  match dec with
  | none => if pair then [(0, 0, 64), (1, 64, 64)] else [(0, 0, 64)]
  | some geom =>
    let offs := ((List.range (if pair then 64 else 32)).filter fun k => activeLane mask k).flatMap fun k => laneBytes geom k
    [0, 1].filterMap fun i =>
      let l := offs.filter fun o => decide ((ea.toNat + o) / 64 = ea.toNat / 64 + i)
      match l.min?, l.max? with
      | some lo, some hi => some (i, lo, hi + 1 - lo)
      | _, _ => none

/-- The lines of a load in turn, each one access (R111, R137): the operation gathers their bytes, and skips holds the lines that a
reply skipped. -/
def loadLinesGo (s : State) (ea : Word) (al : Nat) (o : Op) (skips : List Nat) : List (Nat × Nat × Nat) →
    Except Stop (Op × List Nat × State)
  | [] => .ok (o, skips, s)
  | (ord, off, n) :: t => do
    let a := ea + BitVec.ofNat 64 off
    match ← reach s ord a al needLoad 0 with
    | .skip => loadLinesGo s ea al o (lineOf a.toNat :: skips) t
    | .at a' p s =>
      match ← loadAt s ord a' p n off s.me.home .load 0 with
      | .now l s =>
        loadLinesGo s ea al { o with buf := putBytes o.buf off l, accs := o.accs ++ [⟨a', p.pa, n, off, none, true, 0, 0, .done⟩] } skips t
      | .later acc s => loadLinesGo s ea al { o with accs := o.accs ++ [acc] } skips t

/-- An operation of which no access is left: its result is known, or waits for a ring entry (R137). -/
def addLoad (s : State) (o : Op) : State := finishOp (s.addOp o) s.cur.1 s.cur.2 o.id

/-- vld and vldp (R136, R137). A load with no active element still chooses its form by the mapping at ea and may raise MISALIGNED, and a
translation that fails is then no access (DEDUCED, log 102). A fault met on ea is posted although the active lanes of a decoding load may need
no byte of its line (DEDUCED, log 103). After SKIP of a translation that failed the form is raw, and lanes are zero where ea is not a
multiple of m (DEDUCED, log 104). -/
def vloadBody (d : BitVec 5) (b : BitVec 4) (o : BitVec 11) (L : BitVec 4) (pair : Bool) (s : State) : Except Stop State := do
  gate s 0
  let m := if pair then 128 else 64
  let ea := s.me.sreg b + s.imm 11 o.toNat * BitVec.ofNat 64 m
  let mask := s.me.pred
  let nothing : Op := { (newOp s L .plain none) with done := true, commit := pairCommit d pair (0, 0) mask s.me.zeroing }
  if ea.toNat % 4 ≠ 0 then .error (.trap .misaligned)
  else
    let go (form : Option Attr) : Except Stop State :=
      match form.orElse fun _ => if mask = 0 ∨ ea.toNat % m ≠ 0 then none else some (Attr.clear 7) with
      | none => .ok (s.addOp nothing)
      | some f =>
        let dec := if decodes s.me.rawf ea f then some f.geom.toNat else none
        if dec.isNone ∧ ea.toNat % m ≠ 0 then .error (.trap .misaligned)
        else if mask = 0 then .ok (s.addOp nothing)
        else do
          let (op, skips, s) ← loadLinesGo (s.traceMe 3 0 ea) ea (if dec.isNone then 64 else 1)
            { (newOp s L .plain none) with commit := ⟨none, [], s.me.zeroing⟩ } [] (loadLines ea dec pair mask)
          let kind := match dec with
            | none => .vload d pair mask
            | some g => .vdecode d pair g mask ea skips
          .ok (addLoad s { op with kind := kind })
    if mask = 0 then go (formOf s ea)
    else match ← reach s 0 ea 1 needLoad 0 with
      | .skip => go (formOf s ea)
      | .at _ p _ => go (some p.attr)

/-- vld (R135 to R137). -/
def execVld (d : BitVec 5) (b : BitVec 4) (o : BitVec 11) (l : BitVec 4) (s : State) : Host.Outcome State Fault Refusal :=
  run (.vld d b o l) s (vloadBody d b o l false)

/-- vldp (R135 to R137). -/
def execVldp (d : BitVec 4) (b : BitVec 4) (o : BitVec 11) (l : BitVec 4) (s : State) : Host.Outcome State Fault Refusal :=
  run (.vldp d b o l) s (vloadBody (d ++ 0#1) b o l true)

/-! Vector stores (R138). -/

/-- The bytes of a register that a predicate lets through (R138). -/
def maskedBytes (v : VReg) (p : PReg) : List (Option Byte) :=
  (toBytes v).zipIdx.map fun q => if p.getLsbD q.2 then some q.1 else none

/-- vst and vstp: one store per line, of the active bytes; the checks come in the order of R136 (R138). -/
def vstoreBody (d : BitVec 5) (b : BitVec 4) (o : BitVec 11) (pair : Bool) (s : State) : Except Stop State := do
  gate s 0
  let m := if pair then 128 else 64
  let ea := s.me.sreg b + s.imm 11 o.toNat * BitVec.ofNat 64 m
  let p := s.me.pred
  let fresh := (s.me.answers.find? fun q => q.1 = 0).isNone
  if ea.toNat % 4 ≠ 0 then .error (.trap .misaligned)
  else if fresh ∧ p ≠ 0 ∧ 2 ^ 57 ≤ ea.toNat then .error (.post ⟨.notMapped, .store, ea, 0, 0, []⟩)
  else if fresh ∧ ea.toNat % m ≠ 0 then .error (.trap .misaligned)
  else if p = 0 then .ok s
  else
    whole s (do
      let t ← storeAccess s 0 ea 64 64 (.write (maskedBytes (s.me.vreg d) p)) .store
      if pair then storeAccess t 1 (ea + 64) 64 64 (.write (maskedBytes (s.me.vreg (d + 1)) p)) .store else .ok t)

/-- vst (R135, R138). -/
def execVst (d : BitVec 5) (b : BitVec 4) (o : BitVec 11) (s : State) : Host.Outcome State Fault Refusal :=
  run (.vst d b o) s (vstoreBody d b o false)

/-- vstp (R135, R138). -/
def execVstp (d : BitVec 4) (b : BitVec 4) (o : BitVec 11) (s : State) : Host.Outcome State Fault Refusal :=
  run (.vstp d b o) s (vstoreBody (d ++ 0#1) b o true)

/-! Gather and scatter (R139 to R141). -/

/-- The address of element j (R140). -/
def elemEa (base : Word) (idx : VReg) (w j : Nat) : Word :=
  base + BitVec.ofInt 64 (toS (elem idx w j) (8 * w)) * BitVec.ofNat 64 w

/-- The number under which an element's checks that have passed are kept while a reply to a later element is awaited (R140). -/
def placedOrd (j : Nat) : Nat := 1000 + j

/-- An element whose checks have passed before, in the epoch that the interface is still in (R140, R266). -/
def State.placed (s : State) (j : Nat) : Option (Word × Nat) :=
  s.me.answers.findSome? fun q => match q.2 with
    | .placed ea pa e => if q.1 = placedOrd j ∧ e = s.here.epoch then some (ea, pa) else none
    | _ => none

/-- The checks of one element (R140): none after SKIP, else its address and place. -/
def gsCheck (s : State) (base : Word) (idx : VReg) (w : Nat) (wr : Bool) (j : Nat) : Except Stop (Option (Word × Nat) × State) :=
  match s.placed j with
  | some q => .ok (some q, s)
  | none => do
    match ← reach s j (elemEa base idx w j) w (needGather wr) 0 with
    | .skip => .ok (none, s)
    | .at ea p s =>
      if p.attr.fmt = .b4 then .error (.post { code := .formatMismatch, access := .gather, addr := ea, ord := j })
      else if paClass p.pa = 4 ∧ p.pa < 2 ^ 52 then .error (.post { code := .rights, access := .gather, addr := ea, ord := j })
      else .ok (some (ea, p.pa), s)

/-- The checks of every active element at issue, in ascending order (R140): the elements that are made, with their places. l: those that
have passed; a fault keeps them, so that the checks resume after the element that it names (log 95). -/
def gsChecks (s : State) (base : Word) (idx : VReg) (w : Nat) (wr : Bool) (l : List (Nat × Word × Nat)) :
    List Nat → Except Stop (List (Nat × Word × Nat) × State)
  | [] => .ok (l, s)
  | j :: t =>
    match gsCheck s base idx w wr j with
    | .ok (none, s) => gsChecks s base idx w wr l t
    | .ok (some q, s) => gsChecks s base idx w wr (l ++ [(j, q)]) t
    | .error (.post p) => .error (.post { p with keep := kept s l })
    | .error e => .error e
where
  /-- The elements that have passed, as they are kept. -/
  kept (s : State) (l : List (Nat × Word × Nat)) : List (Nat × Answer) := l.map fun q => (placedOrd q.1, .placed q.2.1 q.2.2 s.here.epoch)

/-- Elements of a scatter on their way to the places that the checks at issue gave (R140, R141). -/
def scatterGo (s : State) (v : VReg) (w op : Nat) : List (Nat × Word × Nat) → Except Stop State
  | [] => .ok s
  | (j, ea, pa) :: t => do
    let s ← retireRemote s ea w (.write ((leBytes w (elem v w j)).map some)) .gather (some op) (some pa) false
    scatterGo s v w op t

/-- What a gather or a scatter does before its elements: the hold on the G path and every check, whose outcome is kept while the dispatch
waits for its ring entry (R130, R140). -/
def gsBegin (s : State) (a : Src) (b : BitVec 5) (w : Nat) (wr : Bool) : Except Stop (List (Nat × Word × Nat) × State) := do
  gate s 3
  let base := s.scalar a false
  let idx := s.me.vreg b
  let js := actives s w
  if js.any (fun j => (elemEa base idx w j).toNat % w ≠ 0) then .error (.trap .misaligned)
  else
    let (l, s) ← gsChecks s base idx w wr [] js
    .ok (l, s.modMe fun x => { x with answers := x.answers.filter (fun q => decide (q.1 < 1000 ∨ 2000 ≤ q.1)) ++ gsChecks.kept s l })
where
  /-- The active elements. -/
  actives (s : State) (w : Nat) : List Nat := (List.range (elems w)).filter fun j => active s.me.pred w j

/-- The access of one element of a gather, from the RRB at once or on its way (R112, R140). -/
def gatherAcc (s : State) (w : Nat) (q : Nat × Word × Nat) : PAcc × Nat :=
  let home := homeHere s.cur.1 q.2.2
  let acc : PAcc := ⟨q.2.1, q.2.2, w, w * q.1, none, home || s.me.home || s.me.noAlloc || !rrbClass q.2.2, s.here.epoch, s.here.rrbCuts.length, .pending⟩
  match (if home || s.me.home then none else s.here.rrbHit s.me.space q.2.1.toNat w) with
  | some l => ({ acc with st := .done }, putBytes 0 acc.off l)
  | none => (acc, 0)

/-- The elements that a gather or scatter makes are recorded in the trace buffer (R344). -/
def gsTrace (s : State) (l : List (Nat × Word × Nat)) : State := l.foldl (fun s q => s.traceMe 3 Access.gather.num q.2.1) s

/-- vgather (R139, R140). -/
def execVgather (w : BitVec 2) (d : BitVec 5) (a : Src) (b : BitVec 5) (l : BitVec 4) (s : State) : Host.Outcome State Fault Refusal :=
  run (.vgather w d a b l) s fun s => do
    let n := widthOf w
    let (els, s) ← gsBegin s a b n false
    let (s, q) ← ringTake s (.vgather w d a b l) 2 0 0
    let accs := els.map (gatherAcc s n)
    let s := gsTrace s els
    .ok (addLoad s { (newOp s l (.gather d n (activeLanes s.me.pred n)) (some q)) with
      accs := accs.map (·.1)
      buf := (accs.map (·.2)).sum
      commit := ⟨none, [], s.me.zeroing⟩ })

/-- vscatter (R139 to R141). -/
def execVscatter (w : BitVec 2) (d : BitVec 5) (a : Src) (b : BitVec 5) (l : BitVec 4) (s : State) : Host.Outcome State Fault Refusal :=
  run (.vscatter w d a b l) s fun s => do
    let n := widthOf w
    let (els, s) ← gsBegin s a b n true
    let (s, q) ← ringTake s (.vscatter w d a b l) 2 0 0
    let s := gsTrace s els
    let op := newOp s l (.scatter els.length) (some q)
    scatterGo (s.addOp { op with done := els.isEmpty }) (s.me.vreg d) n op.id els

end Sys2Proof.Machine
end

