-- ==== Sys2Proof/Machine/Launch.lean ====
section
/-! DEFINITION. The LAUNCH command (R307), accesses of the distributors, the map units and the other units that are no brick
(R305, R308, R309, R203), and the device-launch queues (R182, R312). -/

namespace Sys2Proof.Machine

/-! The LAUNCH command (R307). -/

/-- A reserved bit or byte of the 64 bytes is not zero, or TYPE is not 1 (R306, R307). -/
def launchMalformed (l : List Byte) : Bool :=
  numAt l 0 1 ≠ 1 || bits (numAt l 0 8) 63 30 ≠ 0 || numAt l 60 4 ≠ 0 || bits (numAt l 58 1) 6 6 ≠ 0 || bits (numAt l 59 1) 6 4 ≠ 0

/-- The fields of the LAUNCH command (R307). -/
def parseLaunch (l : List Byte) : LaunchCmd :=
  let h := numAt l 0 8
  { gang := h.testBit 8, steal4 := h.testBit 9, nochsw := h.testBit 10, wdret := h.testBit 11, barrier := h.testBit 12
    prio := bits h 15 13, colour := bits h 19 16, nfd := bits h 25 20, nfv := bits h 29 26
    code := doubleAt l 8, cbank := doubleAt l 16, pool := doubleAt l 24, compl := doubleAt l 32
    ctxcount := numAt l 40 4, deadline := BitVec.ofNat 32 (numAt l 44 4)
    rows := numAt l 48 1, cols := numAt l 49 1, ctxlog2 := numAt l 50 1, descbase := BitVec.ofNat 8 (numAt l 51 1)
    fplo := numAt l 52 1, fphi := numAt l 53 1, fcount := numAt l 54 2, origin := numAt l 56 2
    fdbase := numAt l 58 1, fvbase := numAt l 59 1 }

/-- A field is out of range (R307, R308 reason 01); channel numbers past the device answer with reason 03 (R276, log 39). -/
def LaunchCmd.outOfRange (c : LaunchCmd) : Bool :=
  c.rows = 0 || decide (112 < c.rows) || c.cols = 0 || decide (64 < c.cols) || decide (c.ctxlog2 < 14) || decide (20 < c.ctxlog2) ||
  decide (0xBC < c.fphi) || c.pool.toNat % 4096 ≠ 0 || c.compl.toNat % 32 ≠ 0 ||
  decide (12 < bits c.fvbase 3 0)

/-- The footprint: first byte, and the byte after its last (R231, R307). -/
def LaunchCmd.footprint (c : LaunchCmd) : Nat × Nat :=
  if c.fplo = 0 ∧ c.fphi = 0 then (0, Config.dequeBase) else (512 * c.fplo, 512 * c.fphi)

/-- Roots of the launch (R233). -/
def LaunchCmd.roots (c : LaunchCmd) : Nat := if c.gang then c.rows * c.cols else 1

/-- Bytes of the pool, deque images included (R232). -/
def LaunchCmd.poolBytes (c : LaunchCmd) : Nat := c.ctxcount * 2 ^ c.ctxlog2 + 2048 * (c.rows * c.cols)

/-- A launch that waits for its placement (R306, R312). -/
def Launch.waiting (id space : Nat) (c : LaunchCmd) (die : Nat) (queue : Option Nat) (after : List Nat) (child : Bool)
    (cycle : Nat) : Launch where
  id := id
  space := space
  cmd := c
  st := .waiting
  org := 0
  tag := 0
  win := 0
  tmask := 0
  die := die
  queue := queue
  after := after
  blocks := []
  live := 0
  roots := []
  forced := 0
  start := cycle
  waited := 0
  image := []
  child := child
  consts := Vector.replicate 32 0
  started := false
  deques := []
  raises := []
  freed := []
  refused := none
  entry := none
  recd := none

/-- The state that an event leads to. -/
def after (o : Host.Outcome State Fault Refusal) (s : State) : State :=
  match o with
  | .next t => t
  | .fault _ => s
  | .refused _ => s

/-! Accesses of units that are no brick. -/

/-- R109 steps 2 to 6 for a unit of die d: there is no local window, and no interface's entry (R203, R308). -/
def State.placeHw (s : State) (d space va : Nat) (n : Need) : Except Code Place := do
  if 2 ^ 57 ≤ va then .error .notMapped
  else
    let q ← s.walk space va
    let pa ← q.placeOn d va
    match s.paFault (pairKey d) q.port pa with
    | some c => .error c
    | none =>
      if paClass pa = 4 ∧ (doorbellOf pa).isNone then .error .rights
      else match n.fault q.attr with
        | some c => .error c
        | none => .ok ⟨pa, q.attr⟩

/-- A store to doorbell page d: a double written at offset 0 rings (R305, R309). -/
def hwRing (s : State) (d off : Nat) (act : FAct) : Except Code State :=
  match s.queues.find? fun q => q.door = d with
  | none => .error .notMapped
  | some x => if off ≠ 0 ∨ act.size ≠ 8 ∨ !act.isWrite then .error .rights else .ok (ringDoorbell s x act.value)

/-- A store-like access of a unit of die d: the code that it is dropped with, or none while its home is not ready (R203, R305, R308, R309,
R318, R323). -/
def hwTry (s : State) (d space va : Nat) (act : FAct) : Option (Except Code State) :=
  match s.placeHw d space va act.need with
  | .error c => some (.error c)
  | .ok p => match doorbellOf p.pa with
    | some q => some (hwRing s q (bits p.pa 11 0) act)
    | none => homeAct s (pairKey d) space va p.pa act

/-- A store-like access of a unit of die d; a fault drops and reports it with RETIRED 1 (R203, R308). -/
def hwStore (s : State) (d space va : Nat) (act : FAct) (cls : Access) (pc : Word) : Option State :=
  match hwTry s d space va act with
  | none => none
  | some (.ok t) => some t
  | some (.error c) => some (s.report (pairKey d) 0 space c cls pc (BitVec.ofNat 64 va) 0)

/-- Bytes that a unit of die d reads at home; none while the home is not ready (R305, R308). -/
def hwRead (s : State) (d space : Nat) : List (Nat × Nat) → Option (Except Code (List Byte))
  | [] => some (.ok [])
  | (va, n) :: t =>
    match s.placeHw d space va needLoad with
    | .error c => some (.error c)
    | .ok p =>
      if !s.homeReady p.pa then none
      else if s.readBad (pairKey d) space va p.pa n then some (.error .poison)
      else match hwRead s d space t with
        | none => none
        | some (.error c) => some (.error c)
        | some (.ok r) => some (.ok (s.bytes p.pa n ++ r))

/-- n bytes at a VA (R305). -/
def State.hwBytes (s : State) (d space va n : Nat) : Option (Except Code (List Byte)) :=
  hwRead s d space (linePieces (n / 64 + 2) va n)

/-- Lines that hardware writes into a launch's pool for brick b: a line that fails is dropped and reported (R232, R240). -/
def poolWrite (s : State) (b space : Nat) : List (Nat × List Byte) → State
  | [] => s
  | (va, l) :: t =>
    let drop (c : Code) : State := s.report b 0 space c .store 0 (BitVec.ofNat 64 va) 0
    poolWrite (match s.check b space va needStore with
      | .error c => drop c
      | .ok (p, s') => match homeAct s' b space va p.pa (.write (l.map some)) with
        | some (.ok u) => u
        | some (.error c) => drop c
        | none => s) b space t

/-- What hardware writes in a launch's pool has homes that take it now. -/
def State.poolReady (s : State) (b space va n : Nat) : Bool := s.homesReady b space va n true

/-! Device-launch queues (R182, R312). -/

/-- Launches of a space that wait in a die's device-launch queue. -/
def State.deviceQueue (s : State) (d space : Nat) : List Launch :=
  s.launches.filter fun l => l.child && l.st = .waiting && l.die = d && l.space = space

end Sys2Proof.Machine
end

