-- ==== Sys2Proof/Machine/Task.lean ====
section
/-! DEFINITION. Tasks: fork, join, migrate, texit and spawn.g (R176 to R182), and how strands take work: dispatch, migration
and stealing (R233, R235 to R238). -/

namespace Sys2Proof.Machine

/-! Instructions. -/

/-- The strand's stores are acknowledged, and its copy chunks and gather or scatter elements are performed (R177). -/
def State.creatorDrained (s : State) : Bool :=
  s.me.unacked = 0 && !s.copyBusy s.cur.1 s.cur.2 s.me.ctxKey s.nextId && !gatherBusy s.me.ops s.nextId

/-- The brick with a record at the bottom of its deque (R31). -/
def Brick.pushRec (x : Brick) (r : DeqRec) : Brick := { x with deque := r :: x.deque, deqVer := x.deqVer + 1 }

/-- The record that fork pushes (R177). -/
def forkRec (s : State) (e j : Word) : DeqRec where
  launch := (s.me.task.map (·.launch)).getD (s.here.launch.getD 0)
  entry := e
  nojoin := j = 0
  joinAddr := j
  arg0 := s.me.sreg 0
  arg1 := s.me.sreg 1
  frame := none
  stolen := false

/-- A step of an instruction in several steps: it goes on from the state with the next phase. -/
def stepTo (s : State) (n : Nat) : Except Stop (State × Word) := .error (.wait (s.modMe fun x => { x with phase := n }))

/-- A no-return atomic that adds v to the join counter (R177). -/
def joinAdd (s : State) (ord : Nat) (j : Word) (v : Nat) : Except Stop State :=
  storeAccess s ord j 8 8 (.amo ⟨.add, 8, v, 0⟩) .atomic

/-- fork's push, or the call of an inline child when the deque is full (R177). -/
def forkPush (s : State) (e j : Word) : Except Stop (State × Word) :=
  if !s.creatorDrained then .error (.wait s)
  else if s.here.deque.length < 64 then .ok (s.modHere fun x => x.pushRec (forkRec s e j), s.me.pc + 4)
  else if isMessage s.cur.1 s.cur.2 then .error (.wait s)
  else if j ≠ 0 then do stepTo (← joinAdd s 1 j (2 ^ 64 - 1)) 2
  else .ok ((s.setS 2 j).setS 14 (s.me.pc + 4), e)

/-- fork (R177): phase 1 has counted the child; phase 2 has counted an inline one off again. -/
def execFork (a b : Src) (s : State) : Host.Outcome State Fault Refusal :=
  runJump (.fork a b) s fun s =>
    let e := s.srcA a b
    let j := s.srcB b
    if e.toNat % 4 ≠ 0 ∨ j.toNat % 8 ≠ 0 then .error (.trap .misaligned)
    else if s.me.phase = 2 then
      if s.me.unacked ≠ 0 then .error (.wait s) else .ok ((s.setS 2 j).setS 14 (s.me.pc + 4), e)
    else if j ≠ 0 ∧ s.me.phase = 0 then do stepTo (← joinAdd s 0 j 1) 1
    else forkPush s e j

/-- The counter that join waits for is zero (R179). -/
def joinRead (s : State) (a : Word) : Except Stop State := do
  gate s 0
  match s.answer 0 a with
  | none => .ok s
  | some ea =>
    if ea.toNat % 8 ≠ 0 then .error (.trap .misaligned)
    else do
      let (l, t) ← readHome s 0 a 8 needLoad 0
      if leNat l = 0 then .ok t else .error (.block t (.join ea))

/-- join (R179). DESIGN CHOICE: its operand is read before the windows that it cuts short commit, and again if it runs again after a block
(R73, log 133). -/
def execJoin (a : Src) (s : State) : Host.Outcome State Fault Refusal :=
  run (.join a) s fun s => do
    let v := s.src1 a
    let s ← closing s
    let s ← if v = 0 then .ok s else joinRead s v
    .ok (s.modHere Brick.rrbClear)

/-- texit (R180). DESIGN CHOICE: its operand is read before the windows that it cuts short commit (R73, log 133). -/
def execTexit (a : Src) (s : State) : Host.Outcome State Fault Refusal := runRaw (.texit a) s fun s => endSelf s (s.src1 a)

/-- The task owns the accumulator, holds a ring entry or an open capability slot (R181). -/
def migrateRefused (s : State) : Bool :=
  let x := s.me
  s.here.ownsAcc x.space x.ctxid || x.ring.any (fun e => e.tag = x.ctxKey) ||
  s.here.slots.toList.any fun q => q.any fun t => t.ctx = x.ctxKey

/-- The brick whose SRAM holds an address, for migrate and send (R109 steps 2 to 4, R181, R185): rights: with write right too. -/
def sramHome (s : State) (ord : Nat) (a : Word) (rights : Bool) : Except Stop (Option (Nat × State)) :=
  match s.answer ord a with
  | none => .ok none
  | some ea =>
    if ea.toNat < Config.sramBytes then .ok (some (s.cur.1, s))
    else match s.translate s.cur.1 s.me.space ea.toNat (!rights) with
      | .error c => .error (.post ⟨c, .message, ea, ord, 0, []⟩)
      | .ok (p, s') =>
        if paClass p.pa ≠ 0 then .error (.post ⟨.rights, .message, ea, ord, 0, []⟩)
        else match (if rights then (Need.fault ⟨false, true, false, .sealedStore, .message⟩ p.attr) else none) with
          | some c => .error (.post ⟨c, .message, ea, ord, 0, []⟩)
          | none => .ok (some (paBrick p.pa, s'))

/-- The launch default of BUFBASE for strand k (R231). -/
def State.bufDefault (s : State) (l k : Nat) : BitVec 8 := ((s.launch? l).map fun q => q.bufbase k).getD (BitVec.ofNat 8 (0xB8 + k))

/-- The frame that the moving task leaves in (R33, R181, R238): its holds of fence.x go with it (R130). -/
def frameOf (s : State) (t : Task) (dst : Nat) : Frame :=
  let x := s.me
  ⟨{ t with stages := [] }, x.ctxid, x.space, BitVec.ofNat 64 x.saveBase, x.pc + 4, x.rm, x.fpstat, x.s, dst, x.fx⟩

/-- migrate's departure, which includes a fence.s on the strand that the task leaves (R14, R91, R129, R181, R281). -/
def migrateTo (s : State) (dst : Nat) : Except Stop State := do
  let s ← closing s
  if s.me.unacked ≠ 0 then .error (.wait s)
  else match s.me.task with
    | none => .ok (advance s)
    | some t =>
      if dst = s.cur.1 then
        let s := (advance s).modMe fun x => undefVectors
          { x with bindtab := 0, bufbase := s.bufDefault t.launch s.cur.2, fetchOwn := s.codeLog.length } s.free
        .ok (s.bumpFree.modHere Brick.rrbClear)
      else
        let f := frameOf s t dst
        let b := s.cur.1
        .ok (chainLeft { (s.modMe fun x => { x.vacate s.cycle with fetchOwn := s.codeLog.length }) with frames := s.frames ++ [f] } b t)

/-- migrate (R181). -/
def execMigrate (a : Src) (s : State) : Host.Outcome State Fault Refusal :=
  runRaw (.migrate a) s fun s =>
    if migrateRefused s then .error (.trap .migrateWithAcc)
    else do
      match ← sramHome s 0 (s.src1 a) false with
      | none => .ok (advance s)
      | some (dst, s) => migrateTo s dst

/-- The launch that spawn.g asks for (R182, R312): BARRIER has no earlier launch to wait for. -/
def spawned (s : State) (l : List Byte) : Launch :=
  let bad := launchMalformed l
  let c := parseLaunch l
  Launch.waiting s.nextId s.me.space (if bad then { c with rows := 0 } else c) (dieOf s.cur.1) none [] true s.cycle

/-- spawn.g (R182). -/
def execSpawnG (d : BitVec 4) (a : Src) (s : State) : Host.Outcome State Fault Refusal :=
  run (.spawnG d a) s fun s =>
    let ea := s.src1 a
    if ea.toNat % 64 ≠ 0 then .error (.trap .misaligned)
    else if !s.creatorDrained then .error (.wait s)
    else do
      let (l, s) ← readRec s 0 ea 64 64 needLoad 0
      if 64 ≤ (s.deviceQueue (dieOf s.cur.1) s.me.space).length then .ok (s.setS d (BitVec.allOnes 64))
      else .ok ({ s with launches := s.launches ++ [spawned s l] }.bumpId.setS d 0)

/-! How a strand takes work (R178, R233, R235). -/

/-- Strand k of brick b is a free task strand (R235, R280): a join counter's decrement that the ended task left is at its home (R180). -/
def Brick.strandFree (x : Brick) (k : Fin 5) : Bool :=
  k.val < 4 && (x.strand k).task.isNone && (x.strand k).saveTok.isNone &&
  x.flights.all fun f => f.strand ≠ k.val || !f.counted || f.arrived

/-- The launch that brick b runs, if it is not being pre-empted (R240). -/
def State.runsHere (s : State) (b : Nat) : Option Launch :=
  ((s.brick b).launch.bind s.launch?).bind fun l => if l.st = .running then some l else none

/-- A context's registers at its start: all that R233 and R178 give alike; none of another space stays readable (R16). -/
def Strand.start (x : Strand) (l : Launch) (k blk : Nat) (pc : Word) : Strand :=
  let base := l.blockBase blk
  { x.enter l.space with
    pc := pc
    s := ((Vector.replicate 16 (0 : Word)).set 13 (BitVec.ofNat 64 (base + 2 ^ l.cmd.ctxlog2))).set 15 (BitVec.ofNat 64 (base + 0x2040))
    mode := .task
    rm := 0
    fpstat := 0
    bindtab := 0
    bufbase := l.bufbase k
    yieldPend := false
    yieldLeft := 0
    wdCount := 0
    wdDue := false
    ctxid := BitVec.ofNat 32 (l.tag * 2 ^ 20 + blk)
    savearea := BitVec.ofNat 45 (base / 4096)
    space := l.space
    ops := []
    hints := Hints.none
    block := none
    answers := []
    phase := 0
    lates := []
    fx := []
    issued := 0
    restore := none
    kill := none
    trapDue := none
    steal := .idle }

/-- A context block is taken: ACCIMG and the reserved doubles after it are zeroed (R232). -/
def takeBlock (s : State) (b : Nat) (l : Launch) (blk : Nat) : State :=
  (poolWrite s b l.space [(l.blockBase blk + 0x2000, List.replicate 64 0)]).modLaunch l.id fun l =>
    { l with blocks := l.blocks ++ [blk], live := l.live + 1 }

/-- The line of a context block that a start clears has a home that takes it now (R232, R318). -/
def State.blockReady (s : State) (b : Nat) (l : Launch) (blk : Nat) : Bool := s.poolReady b l.space (l.blockBase blk + 0x2000) 64

/-- Strand k of brick b starts a task from a record in block blk; one that came from another brick empties the RRB (R178, R232, R233). -/
def startRecord (s : State) (b : Nat) (k : Fin 5) (l : Launch) (blk : Nat) (r : DeqRec) : State :=
  let s := takeBlock s b l blk
  let s := s.modStrand b k fun x =>
    let x := x.start l k blk (BitVec.ofNat 64 (bits r.entry.toNat 56 2 * 4))
    undefVectors (((({ x with task := some ⟨l.id, none, r.nojoin, r.joinAddr, blk, []⟩ } : Strand).setS 0 r.arg0).setS 1
      r.arg1).setS 2 (if r.nojoin then 0 else r.joinAddr)) s.free
  (if r.stolen then s.modBrick b Brick.rrbClear else s).bumpFree

/-- Strand k of brick b goes on with a migrated task (R181, R238). -/
def startFrame (s : State) (b : Nat) (k : Fin 5) (f : Frame) : State :=
  let s := s.modStrand b k fun x =>
    undefVectors
      { x.enter f.space with
        task := some f.task, ctxid := f.ctxid, space := f.space, savearea := BitVec.ofNat 45 (f.savearea.toNat / 4096), pc := f.pc
        rm := f.rm, fpstat := f.fpstat, s := f.s, bindtab := 0, bufbase := s.bufDefault f.task.launch k, mode := .task, ops := []
        hints := Hints.none, block := none, answers := [], phase := 0, lates := [], fx := f.fx, wdCount := 0, wdDue := false
        yieldPend := false, yieldLeft := 0, issued := 0, restore := none, kill := none, trapDue := none, steal := .idle } s.free
  (s.modBrick b Brick.rrbClear).bumpFree

/-- The deque record that stands for a migrated task (R31, R238). -/
def Frame.record (f : Frame) : DeqRec := ⟨f.task.launch, f.pc, f.task.nojoin, f.task.joinAddr, 0, 0, some f, false⟩

/-- Frames that wait in the inbox enter the deque as its records free (R181). -/
def admitFrames (s : State) (b : Nat) : State :=
  s.modBrick b fun x =>
    let n := 64 - x.deque.length
    { (x.frames.take n).foldl (fun x f => x.pushRec f.record) x with frames := x.frames.drop n }

/-- Strand k of brick b takes the record at the bottom of the deque, in block blk if it starts a task (R232, R235). -/
def takeBottom (s : State) (b : Nat) (k : Fin 5) (l : Launch) (blk : Nat) : State :=
  match (s.brick b).deque with
  | [] => s
  | r :: t =>
    let s' := s.modBrick b fun x => { x with deque := t, deqVer := x.deqVer + 1 }
    match r.frame with
    | some f => admitFrames (startFrame s' b k f) b
    | none => if l.blockFree blk && s.blockReady b l blk then admitFrames (startRecord s' b k l blk r) b else s

/-- The steal group of a brick in a launch, in ascending course index from its own on, without itself (R237). -/
def stealGroup (l : Launch) (b : Nat) : List Nat :=
  let i := l.index b
  let row := i / l.cmd.cols
  let col := i % l.cmd.cols
  let inGroup (j : Nat) : Bool := !l.cmd.steal4 || (j / l.cmd.cols / 4 = row / 4 && j % l.cmd.cols / 4 = col / 4)
  let all := (List.range (l.cmd.rows * l.cmd.cols)).filter fun j => inGroup j && j != i
  ((all.filter fun j => decide (i < j)) ++ all.filter fun j => decide (j < i)).map fun j => courseBrick l.org (j / l.cmd.cols) (j % l.cmd.cols)

/-- The request of strand k of brick b to victim number idx of its group, or the back-off after a round (R237). -/
def sendSteal (s : State) (b : Nat) (k : Fin 5) (l : Launch) (idx : Nat) : State :=
  match (stealGroup l b)[idx]? with
  | some v =>
    { (s.modStrand b k fun x => { x with steal := .ask idx }) with steals := s.steals ++ [⟨b, k, v, l.id, none⟩] }
  | none => s.modStrand b k fun x => { x with steal := .backoff (s.cycle + 64) }

/-- STRAND_DISPATCH: free task strand k of brick b takes the oldest context that may run on it, else the deque's bottom record,
else begins to steal (R235, R237). -/
def execStrandDispatch (b k blk : Nat) (s : State) : Host.Outcome State Fault Refusal :=
  .next (if h : k < 5 then
    let y := s.brick b
    match s.runsHere b with
    | none => s
    | some l =>
      if !y.strandFree ⟨k, h⟩ then s
      else match y.ready.find? fun c => c.mayRun y k with
        | some c =>
          runStages ((s.modBrick b fun x => { x with ready := x.ready.erase c }).modStrand b ⟨k, h⟩ fun x => c.place { x with steal := .idle }) b k c.task
        | none =>
          if y.deque ≠ [] then takeBottom s b ⟨k, h⟩ l blk
          else if (y.strand ⟨k, h⟩).steal = .idle then sendSteal s b ⟨k, h⟩ l 0 else s
  else s)

/-! Stealing (R237). -/

/-- The deque's top record that may be stolen, and the deque without it: migrated records are passed over (R237). -/
def stealTop (l : List DeqRec) : Option (DeqRec × List DeqRec) :=
  match l.reverse.find? (fun r => r.frame.isNone) with
  | some r => some (r, (l.reverse.erase r).reverse)
  | none => none

/-- STEAL_REQUEST: the request of strand k of brick b reaches its victim, which gives its oldest record with block blk, or
answers empty (R232, R237). -/
def execStealRequest (b k blk : Nat) (s : State) : Host.Outcome State Fault Refusal :=
  .next (match s.steals.find? (fun m => m.thief = b && m.strand = k && m.answer.isNone) with
  | none => s
  | some m =>
    let put (s : State) (a : Option (DeqRec × Nat)) : State :=
      { s with steals := s.steals.map fun q => if q = m then { q with answer := some a } else q }
    match s.launch? m.launch with
    | none => put s none
    | some l =>
      match stealTop (s.brick m.victim).deque with
      | none => put s none
      | some (r, rest) =>
        if (s.runsHere m.victim).map (·.id) ≠ some m.launch ∨ (List.range l.cmd.ctxcount).all (fun i => !l.blockFree i) then put s none
        else if !l.blockFree blk || !s.blockReady b l blk then s
        else
          admitFrames (put ((s.modBrick m.victim fun x => { x with deque := rest, deqVer := x.deqVer + 1 }).modLaunch l.id fun l =>
            { l with blocks := l.blocks ++ [blk] }) (some (r, blk))) m.victim)

/-- STEAL_ANSWER: the record starts on the requesting strand, or the next victim is asked (R237). Under a pre-emption, or on a
strand that a migrated task took meanwhile, the record goes to the thief's own deque (R240), once it has room (R31). -/
def execStealAnswer (b k : Nat) (s : State) : Host.Outcome State Fault Refusal :=
  .next (if h : k < 5 then
    match s.steals.find? (fun m => m.thief = b && m.strand = k && m.answer.isSome) with
    | none => s
    | some m =>
     if 64 ≤ (s.brick b).deque.length || !(m.answer.bind id).all (fun q => (s.launch? m.launch).all fun l => s.blockReady b l q.2) then s
     else
      let s := { s with steals := s.steals.erase m }
      let idx := match (s.strand b ⟨k, h⟩).steal with
        | .ask i => i
        | _ => 0
      let s := s.modStrand b ⟨k, h⟩ fun x => { x with steal := .idle }
      match m.answer, s.launch? m.launch with
      | some (some (r, blk)), some l =>
        let s := s.modLaunch l.id fun l => { l with blocks := l.blocks.filter (· ≠ blk), freed := putKey blk s.cycle l.freed }
        if (s.brick b).strandFree ⟨k, h⟩ ∧ (s.runsHere b).map (·.id) = some l.id then startRecord s b ⟨k, h⟩ l blk { r with stolen := true }
        else s.modBrick b fun x => x.pushRec { r with stolen := true }
      | _, some l =>
        if (s.brick b).strandFree ⟨k, h⟩ ∧ (s.runsHere b).map (·.id) = some l.id ∧ !(s.brick b).hasWork k then
          sendSteal s b ⟨k, h⟩ l (idx + 1)
        else s
      | _, none => s
  else s)

/-- STEAL_BACKOFF_EXPIRY: 64 cycles after an empty round, or when work reaches the brick, the strand looks again (R237). -/
def execStealBackoffExpiry (b k : Nat) (s : State) : Host.Outcome State Fault Refusal :=
  .next (if h : k < 5 then
    match (s.strand b ⟨k, h⟩).steal with
    | .backoff t => if t ≤ s.cycle ∨ (s.brick b).hasWork k then s.modStrand b ⟨k, h⟩ fun x => { x with steal := .idle } else s
    | _ => s
  else s)

/-! Migration arrives (R181, R238, R240). -/

/-- A migrated task ends as by KILL with INBOX_DROPPED at a brick: its space is torn down (R181). -/
def endFrame (s : State) (b : Nat) (f : Frame) (status : Word) : State :=
  let s := if f.task.nojoin then s
    else
      let fl : Flight := ⟨s.nextId, 0, f.space + 2 ^ 20 * f.ctxid.toNat, f.space, f.pc, f.task.joinAddr, 8, .amo ⟨.add, 8, 2 ^ 64 - 1, 0⟩,
        none, [], false, false, false, (s.brick b).epoch, .atomic, none⟩
      s.bumpId.modBrick b fun y => { y with flights := y.flights ++ [fl] }
  launchEnd s f.task status

/-- A space is being torn down, or is no more (R272). -/
def State.tornDown (s : State) (space : Nat) : Bool := ((s.space? space).map (·.teardown)).getD true

/-- Brick b runs a launch of a space (R181, R185): one that is not pre-empted. -/
def State.runsSpace (s : State) (b space : Nat) : Option Launch :=
  ((s.brick b).launch.bind s.launch?).bind fun l => if l.space = space then some l else none

/-- MIGRATE_ARRIVAL: frame n takes free strand k, or some free strand, else enters the deque, waits in the inbox, is parked or ends
(R181, R235, R240). -/
def execMigrateArrival (n k : Nat) (s : State) : Host.Outcome State Fault Refusal :=
  .next (match s.frames[n]? with
  | none => s
  | some f =>
    let b := f.dst
    let s' := { s with frames := s.frames.eraseIdx n }
    if s.tornDown f.space then endFrame s' b f (killStatus 0x66)
    else match s.runsSpace b f.space with
      | none => { s' with parkFrames := s'.parkFrames ++ [f] }
      | some l =>
        let frees := (List.finRange 5).filter fun j => (s.brick b).strandFree j
        let pick := (frees.find? fun j => j.val = k).orElse fun _ => frees.head?
        match (if l.st = .running then pick else none) with
        | some j => startFrame s' b j f
        | none =>
          if (s.brick b).deque.length < 64 ∧ (s.brick b).frames = [] then s'.modBrick b fun x => x.pushRec f.record
          else s'.modBrick b fun x => { x with frames := x.frames ++ [f] })

end Sys2Proof.Machine
end

