-- ==== Sys2Proof/Machine/Message.lean ====
section
/-! DEFINITION. Messages (R183 to R189): send, sendh, mend and wfm, the inbox and the heap, handlers, and the status that
returns to the sender. -/

namespace Sys2Proof.Machine

/-! Sending (R184, R185). -/

/-- A read of a message block (R185, R264). -/
def needBlock : Need := ⟨true, false, false, .sealedLoad, .message⟩
/-- The check of LAND and of the target (R185). -/
def needLand : Need := ⟨false, true, false, .sealedStore, .message⟩

/-- A sealed block read is an access of class 0 (R264); every other fault of send has class 7 (R185). -/
def sealedAsLoad {α : Type} (r : Except Stop α) : Except Stop α :=
  match r with
  | .error (.post p) => .error (.post (if p.code = .sealedLoad then { p with access := .load } else p))
  | r => r

/-- NDATA, NCODE and KIND of a header (R184). -/
def hdrNdata (h : Nat) : Nat := bits h 2 0
/-- Number of handler words. -/
def hdrNcode (h : Nat) : Nat := bits h 12 8
/-- A fault reply. -/
def hdrReply (h : Nat) : Bool := h.testBit 32

/-- A header that R184 refuses. -/
def hdrBad (h : Nat) (handler : Bool) : Bool :=
  bits h 7 3 ≠ 0 || bits h 15 13 ≠ 0 || bits h 63 33 ≠ 0 || decide (6 < hdrNdata h) ||
  (if handler then hdrNcode h = 0 || decide (16 < hdrNcode h) || hdrReply h
    else hdrNcode h ≠ 0 || (hdrReply h && hdrNdata h ≠ 2))

/-- A message's size in bytes (R184). -/
def msgSize (h : Nat) : Nat := 16 + 8 * hdrNdata h + 4 * hdrNcode h

/-- What a send reads of its block: header, landing word, data and handler words. -/
structure Block where
  hdr : Nat
  land : Word
  data : List Word
  code : List IWord
deriving DecidableEq, Repr

/-- The block at b is read and checked (R184): first its head, then the data and the words that it announces. -/
def readBlock (s : State) (b : Word) (handler : Bool) : Except Stop (Block × State) := do
  let (h, s) ← sealedAsLoad (readRec s 0 b 8 16 needBlock 0)
  let hdr := numAt h 0 8
  if hdrBad hdr handler then .error (.trap .reservedField)
  else do
    let (d, s) ← sealedAsLoad (readRec s 10 (b + 16) 8 (8 * hdrNdata hdr) needBlock 0)
    let (c, s) ← sealedAsLoad (readRec s 20 (b + 64) 8 (4 * hdrNcode hdr) needBlock 0)
    .ok (⟨hdr, doubleAt h 8, (List.range (hdrNdata hdr)).map fun i => doubleAt d (8 * i),
      (List.range (hdrNcode hdr)).map fun i => BitVec.ofNat 32 (numAt c (4 * i) 4)⟩, s)

/-- LAND is checked as a write of the sender's space; SKIP sends the message as if it were 0 (R185). -/
def checkLand (s : State) (land : Word) : Except Stop (Word × State) :=
  if land = 0 then .ok (0, s)
  else do
    match ← reach s 30 land 8 needLand 0 with
    | .skip => .ok (0, s)
    | .at ea _ s => .ok (ea, s)

/-- send and sendh (R185): the operation completes with the status. -/
def sendBody (d : BitVec 4) (a b : Word) (l : BitVec 4) (handler : Bool) (s : State) : Except Stop State := do
  gate s 4
  if b.toNat % 8 ≠ 0 then .error (.trap .misaligned)
  else do
    let (m, s) ← readBlock s b handler
    let (land, s) ← checkLand s m.land
    match ← sramHome s 31 a true with
    | none => .ok (s.addOp { (newOp s l (.msg d land (land = 0) (some 0x66)) none) with buf := msgSize m.hdr })
    | some (dst, s) =>
      let o := { (newOp s l (.msg d land (land = 0) none) none) with buf := msgSize m.hdr }
      let q : Msg := ⟨s.nextId, s.cur.1, s.cur.2, s.me.space, BitVec.ofNat 64 m.hdr, if land = 0 then 0 else m.land, m.data, m.code, dst, some s.nextId, false, s.colourAt s.cur.1⟩
      .ok { s.addOp o with net := s.net ++ [q] }

/-- send (R185). -/
def execSend (d : BitVec 4) (a b : Src) (l : BitVec 4) (s : State) : Host.Outcome State Fault Refusal :=
  run (.send d a b l) s fun s => sendBody d (s.srcA a b) (s.srcB b) l false s
/-- sendh (R185). -/
def execSendh (d : BitVec 4) (a b : Src) (l : BitVec 4) (s : State) : Host.Outcome State Fault Refusal :=
  run (.sendh d a b l) s fun s => sendBody d (s.srcA a b) (s.srcB b) l true s

/-! Placing (R185, R186). -/

/-- Size of a message in the inbox. -/
def Msg.size (m : Msg) : Nat := msgSize m.hdr.toNat
/-- Bytes in use of a brick's inbox: the handler's message stays until it ends (R186, R188). -/
def Brick.inboxUsed (x : Brick) : Nat := ((x.inbox ++ x.handler.toList).map Msg.size).sum

/-- A message goes to the inbox, or to the heap when it does not fit or one of its space waits there (R186). -/
def Brick.place (x : Brick) (m : Msg) : Brick :=
  if x.heap.any (fun q => q.space = m.space) || decide (4096 < x.inboxUsed + m.size) then { x with heap := x.heap ++ [m] }
  else { x with inbox := x.inbox ++ [m] }

/-- A message's status is known at its sender's operation (R185). -/
def setStatus (s : State) (m : Msg) (st : Nat) : State :=
  match m.op with
  | none => s
  | some id => s.modBrick m.srcBrick fun x => x.modOp id fun o => match o.kind with
    | .msg d land skip _ => { o with kind := .msg d land skip (some st) }
    | _ => o

/-- A message that is no reply arrives at its target: dropped, parked or placed (R185). -/
def placeMsg (s : State) (m : Msg) : State :=
  if s.tornDown m.space then setStatus s m 0x66
  else match s.runsSpace m.dst m.space with
    | none => setStatus { s with parkq := s.parkq ++ [m] } m 1
    | some _ => wakeBrick (setStatus (s.modBrick m.dst fun x => x.place m) m 0) m.dst

/-- An earlier message of the same strand, or of the same interface for fault messages, to the same brick is still on its way
(R116, R186). -/
def State.msgAfter (s : State) (n : Nat) (m : Msg) : Bool :=
  (s.net.take n).any fun q => q.srcBrick = m.srcBrick && q.dst = m.dst && q.fault = m.fault && (m.fault || q.srcStrand = m.srcStrand)

/-- HEAP_REPLAY: the oldest heap message enters the inbox when it fits (R186), which ends a pause (R95). -/
def execHeapReplay (b : Nat) (s : State) : Host.Outcome State Fault Refusal :=
  .next (match (s.brick b).heap with
  | [] => s
  | m :: t =>
    if 4096 < (s.brick b).inboxUsed + m.size then s
    else wakeBrick (s.modBrick b fun x => { x with heap := t, inbox := x.inbox ++ [m] }) b)

/-- The landing word of a send takes its update at home: a chunk of m bytes, or the mark of a drop (R122, R185). A failing update
is reported. None while its home is not ready, or its host is lost (R323, R336). -/
def landUpdate (s : State) (b : Nat) (k : Nat) (space : Nat) (pc : Word) (land : Word) (m st : Nat) : Option State :=
  match s.check b space land.toNat needLand with
  | .error c => some (s.report b k space c .landing pc land 0)
  | .ok (p, s') =>
    if !s.homeReady p.pa || s.atomHeld space p.pa then none
    else if s.linkDown b space land.toNat p.pa then some (s.report b k space .poison .landing pc land 0)
    else if s.inDeque p.pa ∨ paClass p.pa = 4 then some (s.report b k space .rights .landing pc land 0)
    else if st = 0x66 then some (wakeAt ((noteWrite s' b space p.pa 8).writeNum p.pa 8 0xC000000000000066) p.pa)
    else if s.readBad b space land.toNat p.pa 8 then some (s.report b k space .poison .landing pc land 0)
    else
      let r := landChunk (BitVec.ofNat 64 (s.num p.pa 8)) m
      let t := wakeAt ((noteWrite s' b space p.pa 8).writeNum p.pa 8 r.1.toNat) p.pa
      some (if r.2 then t.report b k space .landingOverrun .landing pc land 0 else t)

/-- The operation of a send completes with its status. -/
def sendDone (d : BitVec 4) (st : Nat) (o : Op) : Op := { o with done := true, commit := ⟨some (d, BitVec.ofNat 64 st), [], false⟩ }

/-- The strand whose send waits, and its operation. -/
def sendOf (s : State) (b op : Nat) : Option (Nat × Op) :=
  match (s.brick b).findOp op with
  | some q => some (q.1, q.2)
  | none => ((s.brick b).findAwayOp op).map fun q => ((q.1.strand).getD 0, q.2)

/-- SEND_STATUS: the status returns, the landing word is updated, and the operation is complete (R185). -/
def execSendStatus (b op : Nat) (s : State) : Host.Outcome State Fault Refusal :=
  .next (match sendOf s b op with
  | none => s
  | some (k, o) =>
    match o.kind with
    | .msg d land _ (some st) =>
      if o.done then s
      else
        let fin (s : State) : State := s.modBrick b fun x => x.modOp op (sendDone d st)
        if land = 0 then fin s
        else match landUpdate s b k o.space o.pc land o.buf st with
          | none => s
          | some t => fin t
    | _ => s)

/-! Handlers (R187, R188). -/

/-- The registers of a handler at its entry (R187; the control registers by log 26); buf: BUFBASE where the handler before was of another
space, none of whose values stays readable (R16). -/
def handlerStrand (m : Msg) (buf : BitVec 8) (x : Strand) : Strand :=
  { x.enter m.space with
    pc := 0
    bufbase := if x.lastSpace = m.space then x.bufbase else buf
    wdLog2 := if x.lastSpace = m.space then x.wdLog2 else 26
    lastSpace := m.space
    s := Vector.ofFn fun (i : Fin 16) =>
      if i.val < 6 then m.data.getD i.val 0
      else if i.val = 6 then BitVec.ofNat 64 (m.srcBrick % 2 ^ 15 + m.srcStrand * 2 ^ 16)
      else if i.val = 7 then m.hdr else x.s.get i
    space := m.space
    ctxid := 0
    rm := 0
    fpstat := 0
    bindtab := 0
    hints := Hints.none
    answers := []
    phase := 0
    handlerCount := 0
    fx := [] }

/-- HANDLER_START: the oldest placed message with handler words starts, once the handler before it has ended (R187). -/
def execHandlerStart (b : Nat) (s : State) : Host.Outcome State Fault Refusal :=
  .next (
    let x := s.brick b
    match x.inbox.find? (fun m => m.code ≠ []) with
    | none => s
    | some m =>
      if x.handler.isSome ∨ isPair b ∨ (s.runsSpace b m.space).isNone then s
      else (s.modBrick b fun x => { x with inbox := x.inbox.erase m, handler := some m }).modStrand b 4
        (handlerStrand m (s.bufDefault ((x.launch).getD 0) 4)))

/-- HANDLER_TRAP: the 257th instruction, or a place outside the handler's words, ends it (R187). -/
def execHandlerTrap (b : Nat) (s : State) : Host.Outcome State Fault Refusal :=
  .next (
    let t := { s with cur := (b, 4) }
    if !isPair b && (s.brick b).handler.isSome && (handlerWord t).isNone then { takeTrap t .illegalOpcode with cur := s.cur } else s)

/-- mend (R188). -/
def execMend (s : State) : Host.Outcome State Fault Refusal :=
  runRaw .mend s fun s => do
    let s ← closing s
    if s.me.unacked ≠ 0 then .error (.wait s) else .ok (endHandler s)

/-! wfm (R189). -/

/-- A data message of a space with a tag (R189). -/
def Msg.matches (m : Msg) (space : Nat) (tag : Option (BitVec 16)) : Bool :=
  m.code = [] && m.space = space && tag.all fun t => m.hdr.extractLsb' 16 16 == t

/-- Number of the answer that holds a message for a resolved wfm. -/
def wfmOrd : Nat := 2 ^ 61

/-- The tag that a blocked wfm waits for, with the cycle of its block, among strands and contexts of the brick: space and tag. -/
def Brick.waiters (x : Brick) : List (Nat × Nat × Nat × Option (BitVec 16)) :=
  let f (key space since : Nat) (r : Option BlockOn) : List (Nat × Nat × Nat × Option (BitVec 16)) := match r with
    | some (.wfm t) => [(key, space, since, t)]
    | _ => []
  (x.strands.toList.flatMap fun t => f t.ctxKey t.space t.since t.block) ++
    (x.ready ++ x.away).flatMap fun c => f (c.space + 2 ^ 20 * c.ctxid.toNat) c.space c.since c.block

/-- Messages that a resolved wfm of the brick is to take. -/
def Brick.reserved (x : Brick) : List Nat :=
  ((x.strands.toList.flatMap fun t => t.answers) ++ (x.ready ++ x.away ++ x.kept).flatMap fun c => c.answers).filterMap fun a =>
    match a with
    | (o, .redirect w) => if o = wfmOrd then some w.toNat else none
    | _ => none

/-- The oldest message that matches and that no resolved wfm is to take (R189). -/
def Brick.dataMsg (x : Brick) (space : Nat) (tag : Option (BitVec 16)) : Option Msg :=
  (x.inbox ++ x.heap).find? fun m => m.matches space tag && !x.reserved.contains m.id

/-- The message that wfm takes: the one kept for it when its block resolved, else the oldest that no earlier wfm waits for
(R189). -/
def wfmPick (s : State) (tag : Option (BitVec 16)) : Option Msg :=
  let x := s.here
  match s.me.answers.find? (fun a => a.1 = wfmOrd) with
  | some (_, .redirect w) => (x.inbox ++ x.heap).find? fun m => m.id = w.toNat
  | _ => (x.inbox ++ x.heap).find? fun m => m.matches s.me.space tag && !x.reserved.contains m.id &&
      !x.waiters.any fun q => m.matches q.2.1 q.2.2.2

/-- The 64 bytes that wfm writes (R189). -/
def Msg.image (m : Msg) : List Byte :=
  leBytes 8 m.hdr.toNat ++ leBytes 8 m.land.toNat ++ (List.range 6).flatMap fun i => leBytes 8 (m.data.getD i 0).toNat

/-- wfm (R189). DESIGN CHOICE: its operands are read before the windows that it cuts short commit, and again if it runs again after a block
(R73, log 133). -/
def execWfm (d : BitVec 4) (a b : Src) (s : State) : Host.Outcome State Fault Refusal :=
  run (.wfm d a b) s fun s => do
    let at_ := s.srcA a b
    let v := s.srcB b
    let tag : Option (BitVec 16) := if v = BitVec.allOnes 64 then none else some (v.truncate 16)
    if at_.toNat % 64 ≠ 0 ∨ Config.sramBytes ≤ at_.toNat then .error (.trap .misaligned)
    else do
      let s ← closing s
      if s.ownBusy then throw (.wait s)
      match wfmPick s tag with
      | none => .error (.block s (.wfm tag))
      | some m =>
        let pa := sramPa s.cur.1 at_.toNat
        let t := (noteCode s s.cur.1 s.cur.2 pa 64).writeOpt pa (s.soft pa (m.image.map some))
        .ok ((t.modHere fun x => { x with inbox := x.inbox.erase m, heap := x.heap.erase m }).setS d m.hdr)

end Sys2Proof.Machine
end

