-- ==== Sys2Proof/Machine/Footing.lean ====
section
/-! DEFINITION. The footing network (R190 to R194, R275 to R279). -/

namespace Sys2Proof.Machine

/-- Key of channel c of a die: die scope below 48, else device scope (R276). -/
def footKey (die c : Nat) : Nat := if c < 48 then 64 * die + c else 512 + c

/-- Cycles from the last arrival to the release (R191, R275). -/
def footLatency (key : Nat) : Nat := if key < 512 then 32 else 96

/-- The channel with a key. -/
def State.foot? (s : State) (key : Nat) : Option Foot := s.foots.find? fun f => f.key = key
/-- The state with a channel changed. -/
def State.modFoot (s : State) (key : Nat) (f : Foot → Foot) : State :=
  { s with foots := s.foots.map fun q => if q.key = key then f q else q }

/-- Two arrivals of one context. -/
def Arrival.same (a q : Arrival) : Bool := q.ctx = a.ctx && q.brick = a.brick

/-- An arrival is counted in the current phase, or held for a later one: its context has one pending, or the phase is full
(R191, R277). -/
def Foot.arrive (f : Foot) (a : Arrival) : Foot :=
  if (f.arrivals ++ f.held).any a.same then { f with held := f.held ++ [{ a with waits := true }] }
  else if f.expected ≤ f.arrivals.length then { f with held := f.held ++ [a] }
  else { f with arrivals := f.arrivals ++ [a] }

/-- The cycle of the last arrival of a phase. -/
def Foot.last (f : Foot) : Nat := f.arrivals.foldl (fun m a => max m a.cycle) 0

/-- The release cycle of a full phase: the last arrival's cycle and the latency (R191, R275). -/
def Foot.release (f : Foot) : Nat := f.last + footLatency f.key

/-- Arrivals go into a phase of e, each context's first one as long as there is room; the others stay held. An arrival that waited for the
release has the release cycle t as its own; every other falls after the last arrival of the phase before (R191, R277, log 105). -/
def takeArrivals (e last t : Nat) : List Arrival → List Arrival → List Arrival → List Arrival × List Arrival
  | taken, kept, [] => (taken, kept)
  | taken, kept, a :: l =>
    if (taken ++ kept).any a.same then takeArrivals e last t taken (kept ++ [{ a with waits := true }]) l
    else
      let a := { a with cycle := if a.waits then t else max a.cycle (last + 1), waits := false }
      if e ≤ taken.length then takeArrivals e last t taken (kept ++ [a]) l
      else takeArrivals e last t (taken ++ [a]) kept l

/-- The arrivals that the next phase takes from those held, and those that stay held: the ones counted before the release cycle come
before the ones that waited for it (R191, R277). -/
def Foot.nextArrivals (f : Foot) : List Arrival × List Arrival :=
  takeArrivals f.expected f.last f.release [] [] (f.held.filter (fun a => !a.waits) ++ f.held.filter (·.waits))

/-- A value of 32 bits as fcomb reads it for an operation (R61). -/
def combStep (op : Nat) (a b : BitVec 32) : BitVec 32 :=
  match op with
  | 0 => a &&& b
  | 1 => a ||| b
  | 2 => if a.toInt ≤ b.toInt then a else b
  | 3 => if a.toInt ≤ b.toInt then b else a
  | 4 => if a.toNat ≤ b.toNat then a else b
  | _ => if a.toNat ≤ b.toNat then b else a

/-- The result of fcomb (R61): the sum exactly, minimum and maximum sign-extended, the rest zero-extended. -/
def combResult (op : Nat) (l : List (BitVec 32)) : Word :=
  if op = 6 then BitVec.ofInt 64 (l.map BitVec.toInt).sum
  else match l with
    | [] => 0
    | a :: t =>
      let r := t.foldl (combStep op) a
      if op = 2 ∨ op = 3 then r.signExtend 64 else r.zeroExtend 64

/-- The value that a phase delivers: none for barriers, all ones where its operations do not agree (R193). -/
def phaseValue (l : List FootOp) : Option Word :=
  if l.all (fun o => o = .bar || o = .barM) then none
  else if l.all (fun o => match o with
      | .bcast _ => true
      | _ => false) then
    some (l.foldl (fun a o => match o with
      | .bcast (some v) => a ||| v
      | _ => a) 0)
  else match l with
    | .comb op _ :: _ =>
      if l.all (fun o => match o with
          | .comb q _ => q = op
          | _ => false) then
        some (combResult op (l.filterMap fun o => match o with
          | .comb _ v => some v
          | _ => none))
      else some (BitVec.allOnes 64)
    | _ => some (BitVec.allOnes 64)

/-- The operation of a member completes with the phase's value (R191). -/
def footDone (v : Option Word) (o : Op) : Op :=
  match o.kind with
  | .foot _ d _ => { o with done := true, commit := ⟨d.bind fun r => v.map fun w => (r, w), [], false⟩ }
  | _ => o

/-- A footing instruction: the channel must be the launch's (R190), it takes a ring entry of KIND 4, and arrives (R191). -/
def footOp (s : State) (i : Instr) (c : BitVec 6) (l : BitVec 4) (d : Option (BitVec 4)) (what : FootOp) (drain : Bool) :
    Except Stop State := do
  if !s.here.footmask.getLsbD c.toNat then .error (.trap .privilege)
  else do
    let (s, q) ← ringTake s i 4 (BitVec.ofNat 32 c.toNat) 0
    let key := footKey (dieOf s.cur.1) c.toNat
    let a : Arrival := ⟨s.cur.1, s.me.ctxKey, s.nextId, what, s.cycle, false⟩
    let drain := drain && s.me.unacked ≠ 0
    let t := s.addOp (newOp s l (.foot key d drain) (some q))
    let t := if what = .barM ∧ !drain then t.modHere Brick.rrbClear else t
    .ok (if drain then t else t.modFoot key fun f => f.arrive a)

/-- fbar (R191, R192). -/
def execFbar (c : BitVec 6) (l : BitVec 4) (s : State) : Host.Outcome State Fault Refusal :=
  run (.fbar c l) s fun s => footOp s (.fbar c l) c l none .bar false
/-- fbar.m: it arrives once UNACKED is zero (R192). -/
def execFbarM (c : BitVec 6) (l : BitVec 4) (s : State) : Host.Outcome State Fault Refusal :=
  run (.fbarM c l) s fun s => footOp s (.fbarM c l) c l none .barM true
/-- fbcast (R193). -/
def execFbcast (c : BitVec 6) (d : BitVec 4) (l : BitVec 4) (s : State) : Host.Outcome State Fault Refusal :=
  run (.fbcast c d l) s fun s => footOp s (.fbcast c d l) c l (some d) (.bcast none) false
/-- fbcast.tx (R193). -/
def execFbcastTx (c : BitVec 6) (x d : BitVec 4) (l : BitVec 4) (s : State) : Host.Outcome State Fault Refusal :=
  run (.fbcastTx c x d l) s fun s => footOp s (.fbcastTx c x d l) c l (some d) (.bcast (some (s.me.sreg x))) false
/-- fcomb (R193). -/
def execFcomb (c : BitVec 6) (x d : BitVec 4) (o : BitVec 5) (l : BitVec 4) (s : State) : Host.Outcome State Fault Refusal :=
  run (.fcomb c x d o l) s fun s =>
    footOp s (.fcomb c x d o l) c l (some d) (.comb o.toNat ((s.me.sreg x).truncate 32)) false

/-- An arrival of the context is pending on the channel, or still drains (R194). -/
def State.arrivalPending (s : State) (key b ctx : Nat) : Bool :=
  ((s.foot? key).map fun f => (f.arrivals ++ f.held).any fun a => a.ctx = ctx && a.brick = b).getD false

/-- fpoll (R194). -/
def execFpoll (c : BitVec 6) (d : BitVec 4) (l : BitVec 4) (s : State) : Host.Outcome State Fault Refusal :=
  run (.fpoll c d l) s fun s => do
    if !s.here.footmask.getLsbD c.toNat then .error (.trap .privilege)
    else do
      let (s, q) ← ringTake s (.fpoll c d l) 4 (BitVec.ofNat 32 c.toNat) 0
      let key := footKey (dieOf s.cur.1) c.toNat
      let v := ((s.foot? key).map fun f => f.phase.toNat).getD 0 + if s.arrivalPending key s.cur.1 s.me.ctxKey then 2 ^ 32 else 0
      .ok (s.addOp { (newOp s l .plain (some q)) with done := true, commit := ⟨some (d, BitVec.ofNat 64 v), [], false⟩ })

/-- The drain of an fbar.m ends: the brick's RRB empties and the arrival is counted (R192). -/
def endDrain (b ctx : Nat) (s : State) (o : Op) : State :=
  match o.kind with
  | .foot key d true =>
    (s.modBrick b fun x => (x.modOp o.id fun o => { o with kind := .foot key d false }).rrbClear).modFoot key fun f =>
      f.arrive ⟨b, ctx, o.id, .barM, s.cycle, false⟩
  | _ => s

/-- FBAR_M_ARRIVAL: the drain of an fbar.m has ended (R192). -/
def execFbarMArrival (b op : Nat) (s : State) : Host.Outcome State Fault Refusal :=
  .next (match (s.brick b).findOp op with
    | some (k, o) => if (s.strand b k).unacked = 0 then endDrain b (s.strand b k).ctxKey s o else s
    | none => match (s.brick b).findAwayOp op with
      | some (c, o) => endDrain b c.key s o
      | none => s)

/-- STORE_ACKNOWLEDGE: the acknowledgement of a retired access returns, once it is performed or dropped; a posted write first
waits for its flushing read (R114, R245). With the strand's last one, the drains of its fbar.m end in the same cycle (R192). -/
def execStoreAcknowledge (b n : Nat) (s : State) : Host.Outcome State Fault Refusal :=
  .next (match (s.brick b).flights.find? (fun f => f.id = n) with
  | none => s
  | some f =>
    if !f.arrived ∨ f.posted then s
    else
      let s := s.modBrick b fun x => { x with flights := x.flights.filter fun q => q.id ≠ n }
      if h : f.strand < 5 then
        let s := s.modStrand b ⟨f.strand, h⟩ fun x => x.acknowledge f
        let x := s.strand b ⟨f.strand, h⟩
        if x.unacked = 0 then x.ops.foldl (endDrain b x.ctxKey) s else s
      else s)

/-- One member's result at its brick: it is available, its ring entry frees, and fbar.m empties the RRB again (R191, R192). -/
def releaseOne (v : Option Word) (s : State) (a : Arrival) : State :=
  s.modBrick a.brick fun x =>
    let q := (x.anyOp a.op).bind (·.seq)
    let y := (x.modOp a.op (footDone v)).freeSeq a.ctx q
    if a.what = .barM then y.rrbClear else y

/-- A wake event reaches every strand of a launch's bricks that executes pause (R95). -/
def wakeLaunch (s : State) (l : Nat) : State :=
  { s with bricks := s.bricks.map fun q => if q.2.launch = some l then
      (q.1, { q.2 with strands := q.2.strands.map fun t => { t with pause := none } }) else q }

/-- A phase is full, and its course is not pre-empted: it releases at its cycle (R191, R279). -/
def State.footDue (s : State) (f : Foot) : Option Nat :=
  if f.arrivals = [] ∨ f.arrivals.length < f.expected ∨ (s.launch? f.launch).any (fun l => l.st = .preempted) then none else some f.release

/-- A phase releases: every member's result is there, the launch's pauses end, and the arrivals held go into the next phase (R95, R191,
R193). -/
def releasePhase (s : State) (f : Foot) : State :=
  let s := f.arrivals.foldl (releaseOne (phaseValue (f.arrivals.map (·.what)))) s
  (wakeLaunch s f.launch).modFoot f.key fun f =>
    { f with phase := f.phase + 1, arrivals := f.nextArrivals.1, held := f.nextArrivals.2 }

/-- FOOTING_RELEASE: the full phase of a channel releases at its cycle (R191, R275). -/
def execFootingRelease (d c : Nat) (s : State) : Host.Outcome State Fault Refusal :=
  .next (match s.foot? (footKey d c) with
  | none => s
  | some f => if (s.footDue f).any fun t => decide (t ≤ s.cycle) then releasePhase s f else s)

end Sys2Proof.Machine
end

