-- ==== Sys2Proof/Machine/Chain.lean ====
section
/-! DEFINITION. Stage chains (R195 to R200, R280 to R287, R298): get, put, equiv, chsw, and the switch of a chain's form. -/

namespace Sys2Proof.Machine

/-! The chain record (R195, R196). -/

/-- LAST of CTRL. -/
def ctrlLast (c : Nat) : Nat := bits c 2 0
/-- RUN. -/
def ctrlRun (c : Nat) : Bool := c.testBit 3
/-- FORM: folded. -/
def ctrlFolded (c : Nat) : Bool := c.testBit 4
/-- PEND. -/
def ctrlPend (c : Nat) : Bool := c.testBit 5
/-- LEFT. -/
def ctrlLeft (c : Nat) : Bool := c.testBit 6
/-- FULL[n]. -/
def ctrlFull (c n : Nat) : Bool := c.testBit (8 + n)
/-- CUR. -/
def ctrlCur (c : Nat) : Nat := bits c 18 16
/-- CTRL with another CUR. -/
def putCur (c n : Nat) : Nat := c - ctrlCur c * 2 ^ 16 + n % 8 * 2 ^ 16
/-- CTRL with no slot full. -/
def clearFull (c : Nat) : Nat := c - bits c 14 8 * 2 ^ 8

/-- The record that an address names (R195, R196; log 30 for a record that does not fit): a reserved bit of CTRL is refused (R7). -/
def chainRec (s : State) (a : Word) : Except Stop Nat :=
  if a.toNat % 64 ≠ 0 ∨ Config.sramBytes < a.toNat + 0x1000 then .error (.trap .bufDescInvalid)
  else
    let c := chainCtrl s s.cur.1 a.toNat
    if bits c 63 19 ≠ 0 ∨ c.testBit 7 then .error (.trap .bufDescInvalid) else .ok a.toNat

/-- Offset of register slot n (R196). -/
def slotAt (r n : Nat) : Nat := r + 0x200 + 64 * n

/-- Bits 1:0 of a frame's STAGE (R196, R298). -/
def setStage (s : State) (b r i code : Nat) : State :=
  let a := frameAt r i + 0x98
  let v := s.num (sramPa b a) 8
  recWrite s b a (leBytes 8 (v - v % 4 + code))

/-- The vector registers that a frame keeps, with the places of their images (R196). -/
def keeps (s : State) (b r i : Nat) : List (BitVec 5 × Nat) :=
  let v := s.num (sramPa b (frameAt r i + 0x90)) 8
  (if v.testBit 7 then [(BitVec.ofNat 5 v, frameAt r i + 0xC0)] else []) ++
    if v.testBit 15 then [(BitVec.ofNat 5 (v / 256), frameAt r i + 0x100)] else []

/-- A strand's registers go into frame i, to resume at pc (R198, R298). -/
def saveFrame (s : State) (b r i : Nat) (x : Strand) (pc : Word) (code : Nat) : State :=
  let s := recWrite s b (frameAt r i) (frameBytes pc (x.rm.toNat + x.fpstat.toNat * 4) x.s)
  let s := (keeps s b r i).foldl (fun s q => recWrite s b q.2 (toBytes (x.vreg q.1))) s
  setStage s b r i code

/-- A strand takes its registers from frame i: other vector and predicate registers are undefined (R198, R297); poison of the frame's units
is not looked at (R349; log 127). -/
def loadFrame (s : State) (b r i : Nat) (x : Strand) : Strand :=
  let l := s.bytes (sramPa b (frameAt r i)) 0x90
  let f := numAt l 8 8
  let x := undefVectors x s.free
  let x := { x with
    pc := BitVec.ofNat 64 (numAt l 0 8 / 4 * 4), rm := BitVec.ofNat 2 f, fpstat := BitVec.ofNat 5 (f / 4)
    s := Vector.ofFn fun (j : Fin 16) => doubleAt l (0x10 + 8 * j) }
  (keeps s b r i).foldl (fun x q => x.setV q.1 (ofBytes (s.bytes (sramPa b q.2) 64))) x

/-! Links (R195, R30). -/

/-- Descriptor of link n with items of 2^item bytes, or BUF_DESC_INVALID (R195). -/
def linkOf (s : State) (b r n item : Nat) : Except Stop Desc :=
  let at_ := r + 0x40 + 32 * n
  let l := s.descBytes b at_
  let d := parseDesc l at_
  if ctrlLast (chainCtrl s b r) ≤ n then .error (.trap .bufDescInvalid)
  else if descBad l true || d.remote || d.mcrow || d.mccol || d.ppmem || d.cpmem || d.item ≠ item then .error (.trap .bufDescInvalid)
  else .ok d

/-- PROD of a link. -/
def Desc.prodNow (d : Desc) (s : State) (b : Nat) : Nat := s.num (sramPa b (d.at_ + 16)) 8 % 2 ^ 32
/-- CONS of a link. -/
def Desc.consNow (d : Desc) (s : State) (b : Nat) : Nat := s.num (sramPa b (d.at_ + 24)) 8 % 2 ^ 32
/-- Items in a link. -/
def Desc.items (d : Desc) (s : State) (b : Nat) : Nat := (d.prodNow s b + 2 ^ 32 - d.consNow s b) % 2 ^ 32

/-- The item at CONS is read at home (R195, R197, R351). -/
def itemRead (s : State) (d : Desc) : Except Stop (List Byte × State) := do
  gate s 0
  readHome s 0 (BitVec.ofNat 64 (d.itemAt (d.consNow s s.cur.1))) (2 ^ d.item) needLoad s.me.seqNext

/-- An item is written at PROD (R195, R197, R351). -/
def itemWrite (s : State) (d : Desc) (l : List Byte) : Except Stop State := do
  gate s 0
  match ← reach s 0 (BitVec.ofNat 64 (d.itemAt (d.prodNow s s.cur.1))) l.length needStore s.me.seqNext with
  | .skip => .ok s
  | .at ea p s' =>
    if s.lineBusy s.cur.1 s.cur.2 s.nextId s.me.space ea.toNat (some p.pa) ∨ (homeHere s.cur.1 p.pa ∧ s.ownBusy)
      then .error (.wait s)
    else if paClass p.pa = 4 ∧ p.pa < 2 ^ 52 then .error (.post ⟨.rights, .store, ea, 0, s.me.seqNext, []⟩)
    else do
      homeWait s p.pa 0 .store ea
      match performAct (noteCode s' s.cur.1 s.cur.2 p.pa l.length) p.pa (.write (l.map some)) with
      | .ok t => .ok (t.modHere fun y => y.rrbDrop s.me.space ea.toNat l.length)
      | .error c => .ok (s.report s.cur.1 s.cur.2 s.me.space c .store s.me.pc ea 0)

/-- A dispatch that finds its ring entry in use stalls before it has any effect (R23). -/
def ringReady (s : State) (i : Instr) : Except Stop Unit := do
  let _ ← ringTake s i 5 0 0
  .ok ()

/-- A chain operation completes with its result: a ring entry of KIND 5 and a window (R195). -/
def chainDone (s : State) (i : Instr) (l : BitVec 4) (c : Commit) : Except Stop State := do
  let (s, q) ← ringTake s i 5 0 0
  .ok (s.addOp { (newOp s l .plain (some q)) with done := true, commit := c })

/-! get and put (R197, R198). -/

/-- What get and put move: the item's size as a power of two, and the result that an item gives. -/
structure Item where
  log2 : Nat
  result : List Byte → Commit

/-- A scalar item for register d. -/
def Item.scalar (d : BitVec 4) : Item := ⟨3, fun l => ⟨some (d, doubleAt l 0), [], false⟩⟩
/-- A vector item for register d. -/
def Item.vector (d : BitVec 5) : Item := ⟨6, fun l => ⟨none, [(d, ofBytes l, BitVec.allOnes 64)], false⟩⟩
/-- No result. -/
def Commit.nothing : Commit := ⟨none, [], false⟩

/-- Control passes to stage t: the current stage resumes at pc (R198). -/
def chainTransfer (s : State) (r t : Nat) (pc : Word) (code : Nat) : State :=
  let b := s.cur.1
  let c := chainCtrl s b r
  let s := saveFrame s b r (ctrlCur c) s.me pc code
  let s := setChainCtrl s b r (putCur c t)
  (s.modMe fun x =>
    { loadFrame s b r t { x with lastSpace := x.space } with
      hints := Hints.none, answers := [], phase := 0, issued := 0 }).bumpFree

/-- put in spread form, or on a chain that does not run (R197). -/
def putSpread (s : State) (i : Instr) (l : BitVec 4) (r n : Nat) (d : Desc) (v : List Byte) : Except Stop State :=
  if s.me.unacked ≠ 0 then .error (.wait s)
  else if d.items s s.cur.1 < d.cap then do
    ringReady s i
    let t ← itemWrite s d v
    let t ← chainDone (setStage (d.bump t s.cur.1 (s.me.mover s.cur.2) true 1) s.cur.1 r n 0) i l .nothing
    .ok (advance t)
  else .error (.block (setStage s s.cur.1 r n 3) (.put r n))

/-- put in folded form (R198). -/
def putFolded (s : State) (i : Instr) (r n : Nat) (d : Desc) (v : List Byte) : Except Stop State :=
  let b := s.cur.1
  let c := chainCtrl s b r
  if ctrlCur c ≠ n then .error (.trap .bufDescInvalid)
  else do
    let pc := s.me.groupPc
    let next := s.me.pc + 4
    let s ← closing s
    if ctrlFull c n || decide (d.cap ≤ d.items s b) then .ok (chainTransfer s r (n + 1) pc 3)
    else do
      let (s, q) ← ringTake s i 5 0 0
      let s := recWrite s b (slotAt r n) v
      let s := setChainCtrl s b r (putBit c (8 + n) true)
      .ok (chainTransfer (s.modMe fun x => { x with ring := ringFree x.ring (some q) }) r (n + 1) next 0)

/-- put and putv (R197, R198). -/
def chainPut (s : State) (i : Instr) (l : BitVec 4) (a n : Word) (m : Nat) (v : List Byte) : Except Stop State := do
  let r ← chainRec s a
  let d ← linkOf s s.cur.1 r n.toNat m
  let c := chainCtrl s s.cur.1 r
  if ctrlRun c && ctrlFolded c then putFolded s i r n.toNat d v else putSpread s i l r n.toNat d v

/-- get in spread form, or on a chain that does not run (R197). -/
def getSpread (s : State) (i : Instr) (l : BitVec 4) (r n : Nat) (d : Desc) (m : Item) : Except Stop State :=
  if d.items s s.cur.1 = 0 then .error (.block (setStage s s.cur.1 r (n + 1) 2) (.get r n))
  else do
    ringReady s i
    let (v, t) ← itemRead s d
    let t ← chainDone (setStage (d.bump t s.cur.1 (s.me.mover s.cur.2) false 1) s.cur.1 r (n + 1) 0) i l (m.result v)
    .ok (advance t)

/-- get in folded form: the backlog first, then the slot (R198). -/
def getFolded (s : State) (i : Instr) (l : BitVec 4) (r n : Nat) (d : Desc) (m : Item) : Except Stop State :=
  let b := s.cur.1
  let c := chainCtrl s b r
  if ctrlCur c ≠ n + 1 then .error (.trap .bufDescInvalid)
  else if d.items s b ≠ 0 then do
    ringReady s i
    let (v, t) ← itemRead s d
    .ok (advance (← chainDone (d.bump t b (s.me.mover s.cur.2) false 1) i l (m.result v)))
  else if ctrlFull c n then do
    ringReady s i
    let v := s.bytes (sramPa b (slotAt r n)) (2 ^ m.log2)
    .ok (advance (← chainDone (setChainCtrl s b r (putBit c (8 + n) false)) i l (m.result v)))
  else do
    let pc := s.me.groupPc
    let s ← closing s
    .ok (chainTransfer s r n pc 2)

/-- get and getv (R197, R198). -/
def chainGet (s : State) (i : Instr) (l : BitVec 4) (a n : Word) (m : Item) : Except Stop State := do
  let r ← chainRec s a
  let d ← linkOf s s.cur.1 r n.toNat m.log2
  let c := chainCtrl s s.cur.1 r
  if ctrlRun c && ctrlFolded c then getFolded s i l r n.toNat d m else getSpread s i l r n.toNat d m

/-- get (R197). -/
def execGet (d : BitVec 4) (a b : Src) (l : BitVec 4) (s : State) : Host.Outcome State Fault Refusal :=
  runRaw (.get d a b l) s fun s => chainGet s (.get d a b l) l (s.srcA a b) (s.srcB b) (.scalar d)
/-- put (R197). -/
def execPut (d : BitVec 4) (a b : Src) (l : BitVec 4) (s : State) : Host.Outcome State Fault Refusal :=
  runRaw (.put d a b l) s fun s => chainPut s (.put d a b l) l (s.srcA a b) (s.srcB b) 3 (leBytes 8 (s.me.sreg d).toNat)
/-- getv (R197). -/
def execGetv (d : BitVec 5) (a b : Src) (l : BitVec 4) (s : State) : Host.Outcome State Fault Refusal :=
  runRaw (.getv d a b l) s fun s => chainGet s (.getv d a b l) l (s.srcA a b) (s.srcB b) (.vector d)
/-- putv (R197). -/
def execPutv (d : BitVec 5) (a b : Src) (l : BitVec 4) (s : State) : Host.Outcome State Fault Refusal :=
  runRaw (.putv d a b l) s fun s => chainPut s (.putv d a b l) l (s.srcA a b) (s.srcB b) 6 (toBytes (s.me.vreg d))

/-! equiv (R199). -/

/-- The stage that the moving task runs of a chain. -/
def stageOf (s : State) (r : Nat) : Option Nat :=
  let c := chainCtrl s s.cur.1 r
  match s.me.task with
  | some t => (t.stageIn r).map fun i => if ctrlFolded c then ctrlCur c else i
  | none => none

/-- STAGE of the moving task's stage of a chain. -/
def markStage (s : State) (r code : Nat) : State :=
  match stageOf s r with
  | some i => setStage s s.cur.1 r i code
  | none => s

/-- equiv (R199). -/
def execEquiv (a : Src) (l : BitVec 4) (s : State) : Host.Outcome State Fault Refusal :=
  run (.equiv a l) s fun s => do
    let r ← chainRec s (s.src1 a)
    let c := chainCtrl s s.cur.1 r
    if ctrlRun c && ctrlPend c then .error (.block (markStage s r 1) (.equiv r (s.me.pc + 4)))
    else chainDone (if ctrlRun c then markStage s r 0 else s) (.equiv a l) l .nothing

/-! Starting and switching (R200, R280 to R286). -/

/-- Choices among the elements of a list, free (R232, R280). -/
def pickFrom (ver n : Nat) (l : List Nat) : List Nat := pickSlots ver n l

/-- The strands that are to run stages 1 to n, with a context block for each, if there are enough (R200, R280). -/
def stageStrands (s : State) (b : Nat) (l : Launch) (n : Nat) : Option (List (Fin 5 × Nat)) :=
  let ks := (List.finRange 5).filter fun k => (s.brick b).strandFree k
  let blks := (List.range l.cmd.ctxcount).filter l.blockFree
  if n ≤ ks.length ∧ n ≤ blks.length then
    some (((pickFrom (2 * s.free) n (ks.map (·.val))).map fun k => Fin.ofNat 5 k).zip (pickFrom (2 * s.free + 1) n blks))
  else none

/-- Every free block of a launch may be taken now (R318). -/
def State.blocksReady (s : State) (b : Nat) (l : Launch) : Bool :=
  (List.range l.cmd.ctxcount).all fun i => !l.blockFree i || s.blockReady b l i

/-- Stage i of a chain starts as a task from its frame on strand k, in block blk (R200, R280, R297). -/
def startStage (s : State) (b r : Nat) (l : Launch) (i : Nat) (q : Fin 5 × Nat) : State :=
  let s := takeBlock s b l q.2
  let s := s.modStrand b q.1 fun x =>
    let y := x.start l q.1 q.2 0
    let z := loadFrame s b r i { y with task := some ⟨l.id, none, true, 0, q.2, [(r, i)]⟩ }
    (z.setS 13 (y.sreg 13)).setS 15 (y.sreg 15)
  setStageStrand s.bumpFree b r i q.1

/-- Stages 1 to LAST start on their strands. -/
def startStages (s : State) (b r : Nat) (l : Launch) (qs : List (Fin 5 × Nat)) : State :=
  qs.zipIdx.foldl (fun s q => startStage s b r l (q.2 + 1) q.1) s

/-- The moving task becomes stage 0 of a chain that starts, and the brick tracks it (R200, R281). -/
def chainStart (s : State) (r c : Nat) : State :=
  (dropSwitch (setChainCtrl s s.cur.1 r c) s.cur.1 r).modBrick s.cur.1 (fun x => { x with chains := x.chains ++ [r] }) |>.modMe fun x =>
    { x with task := x.task.map fun t => { t.leave r with stages := (t.leave r).stages ++ [(r, 0)] } }

/-- CTRL as a start leaves it before it acts (R281). -/
def startCtrl (c : Nat) : Nat := clearFull (putCur (putBit (putBit c 5 false) 6 false) 0)

/-- chsw with RUN = 0 (R200, R281). -/
def chswStart (s : State) (i : Instr) (l d : BitVec 4) (r : Nat) (folded : Bool) : Except Stop State :=
  let b := s.cur.1
  let c := startCtrl (chainCtrl s b r)
  let done (s : State) (v : Word) : Except Stop State := chainDone s i l ⟨some (d, v), [], false⟩
  do
  ringReady s i
  if 4 ≤ s.here.chains.length ∨ (!folded ∧ 3 < ctrlLast c) then done (setChainCtrl s b r c) 3
  else if folded then done (chainStart s r (putBit (putBit c 4 true) 3 true)) 0
  else if !s.creatorDrained then .error (.wait s)
  else match (s.me.task.bind fun t => s.launch? t.launch).bind fun q => (stageStrands s b q (ctrlLast c)).map fun l => (q, l) with
    | none => done (setChainCtrl s b r c) 3
    | some (q, ks) =>
      if !s.blocksReady b q then .error (.wait s)
      else done (startStages (setStageStrand (chainStart s r (putBit (putBit c 4 false) 3 true)) b r 0 s.cur.2).bumpFree b r q ks) 0

/-- Number of the answer that holds the cycle at which a chsw that waits on PEND was issued. -/
def chswOrd : Nat := 2 ^ 61 + 1

/-- The cycle of the issue of the chsw in hand, from which its limit counts (R282): an earlier one where it has waited on PEND. -/
def chswIssue (s : State) : Nat :=
  match s.me.answers.find? fun a => a.1 = chswOrd with
  | some (_, .redirect w) => w.toNat
  | _ => s.cycle

/-- chsw with RUN = 1 (R200, R282). -/
def chswSwitch (s : State) (i : Instr) (l d : BitVec 4) (r : Nat) (folded : Bool) (limit : Nat) : Except Stop State :=
  let b := s.cur.1
  let c := chainCtrl s b r
  let done (v : Word) : Except Stop State := chainDone s i l ⟨some (d, v), [], false⟩
  if ctrlPend c then
    .error (.block (s.modMe fun x => { x with
      answers := (x.answers.filter fun a => a.1 ≠ chswOrd) ++ [(chswOrd, .redirect (BitVec.ofNat 64 (chswIssue s)))] }) (.chsw r))
  else if ctrlFolded c = folded then done 1
  else if ctrlLeft c then done 2
  else if !folded ∧ 3 < ctrlLast c then done 3
  else do
    let (t, q) ← ringTake s i 5 0 0
    let w : Switch := ⟨r, folded, some s.cur.2.val, some t.nextId, if limit = 0 then none else some (chswIssue s + limit)⟩
    let t := (setChainCtrl t b r (putBit c 5 true)).modHere fun x => { x with switches := x.switches ++ [w] }
    .ok (t.addOp (newOp t l (.chsw d) (some q)))

/-- chsw (R200). -/
def execChsw (d : BitVec 4) (a b : Src) (l : BitVec 4) (s : State) : Host.Outcome State Fault Refusal :=
  run (.chsw d a b l) s fun s => do
    let r ← chainRec s (s.srcA a b)
    let v := (s.srcB b).toNat
    if bits v 31 1 ≠ 0 then .error (.trap .reservedField)
    else if ctrlRun (chainCtrl s s.cur.1 r) then chswSwitch s (.chsw d a b l) l d r (v % 2 = 1) (bits v 63 32)
    else chswStart s (.chsw d a b l) l d r (v % 2 = 1)

/-! The switch (R199, R200, R282 to R285). -/

/-- Where a stage's task is: on a strand, or away. -/
inductive Spot where
  | on (k : Fin 5)
  | away (c : Ctx)

/-- A block at which a stage counts as being at an equivalence point (R199). -/
def atPoint (r : Nat) (ops : List Op) (block : Option BlockOn) : Bool :=
  match block with
  | some (.equiv q _) => q = r
  | some (.get q _) => q = r
  | some (.put q _) => q = r
  | some (.chsw q) => q = r
  | some (.op id) => ops.any fun o => o.id = id && match o.kind with
    | .chsw _ => true
    | _ => false
  | _ => false

/-- The task of launch l that runs stage i of a chain (any stage if i is none), at an equivalence point: one on a strand with its registers
loaded (R285). -/
def stageSpot (s : State) (b l r : Nat) (i : Option Nat) : Option Spot :=
  let mine (t : Task) : Bool := t.launch = l && (t.stageIn r).any fun j => i.all (· = j)
  let y := s.brick b
  match (List.finRange 5).find? fun k => (y.strand k).task.any mine with
  | some k =>
    let x := y.strand k
    if atPoint r x.ops x.block && x.halted.isNone && x.restore.isNone then some (.on k) else none
  | none => ((y.away ++ y.ready).find? fun c => mine c.task && atPoint r c.ops c.block && c.kill.isNone).map .away

/-- Bytes of a save area as the switch of a chain finds them; a line that fails reads zero (log 31). -/
def ctxBytes (s : State) (b : Nat) (c : Ctx) (off n : Nat) : List Byte :=
  (List.range (n / 64)).flatMap fun i =>
    match s.check b c.space (c.savearea.toNat + off + 64 * i) needLoad with
    | .ok (p, _) => s.bytes p.pa 64
    | .error _ => List.replicate 64 0

/-- The registers of a context that is away, as a strand holds them. -/
def ctxView (s : State) (b : Nat) (c : Ctx) : Strand :=
  let x := { (Strand.fresh .task) with
    task := some c.task, ctxid := c.ctxid, space := c.space, lastSpace := c.space, savearea := BitVec.ofNat 45 (c.savearea.toNat / 4096)
    ops := c.ops, block := c.block, lates := c.lates, fx := c.fx }
  restoreVectors (restoreCore x (ctxBytes s b c 0 384)) (ctxBytes s b c 0x200 2112)

/-- The stage's registers at the switch: its own windows closed, and the issuer's chsw complete with status 0 (R73, R282). -/
def Spot.view (p : Spot) (s : State) (b : Nat) (w : Switch) : Strand :=
  let x := match p with
    | .on k => s.strand b k
    | .away c => ctxView s b c
  let x := match x.ops.find? (fun o => some o.id = w.op) with
    | some o => match o.kind with
      | .chsw d => { (x.setS d 0) with ops := x.ops.filter (fun q => q.id ≠ o.id), ring := ringFree x.ring o.seq }
      | _ => x
    | none => x
  x.closeWindows

/-- Where a stage resumes, and its STAGE code (R199, R200, R298). -/
def resumeAt (x : Strand) : Word × Nat :=
  match x.block with
  | some (.equiv _ n) => (n, 0)
  | some (.get _ _) => (x.pc, 2)
  | some (.put _ _) => (x.pc, 3)
  | _ => (x.pc, 0)

/-- Copies, retired accesses or fired commands of a context are under way (R180). -/
def Brick.keyBusy (y : Brick) (key : Nat) : Bool :=
  y.chans.toList.any (fun c => (c.job.any fun j => j.ctx = key) || (c.latched.any fun j => j.ctx = key)) ||
  y.held.any (fun h => h.2.1.ctx = key) || y.flights.any (fun f => f.ctx = key && !f.arrived) || y.firedOf key

/-- The key of the context at a spot, and its operations. -/
def Spot.ctx (p : Spot) (s : State) (b : Nat) : Nat × List Op :=
  match p with
  | .on k => ((s.strand b k).ctxKey, (s.strand b k).ops)
  | .away c => (c.key, c.ops)

/-- The writes of a stage, or its operations but for the pending chsw, are under way: a switch waits for them (R283). -/
def Spot.draining (p : Spot) (s : State) (b : Nat) (w : Switch) : Bool :=
  let q := p.ctx s b
  (match p with
  | .on k => (s.strand b k).unacked ≠ 0 || gatherBusy (s.strand b k).ops s.nextId
  | .away c => !s.homesReady b c.space c.savearea.toNat 0x1000 false) || (s.brick b).keyBusy q.1 || q.2.any fun o => some o.id ≠ w.op && o.holds

/-- A departing stage task has something under way that its end waits for: its ring entries too (R180, R283). -/
def Spot.busy (p : Spot) (s : State) (b : Nat) (w : Switch) : Bool :=
  let q := p.ctx s b
  let own := (q.2.find? fun o => some o.id = w.op).bind (·.seq)
  p.draining s b w || (s.brick b).strands.toList.any fun x => x.ring.any fun e => e.tag = q.1 && e.fault.isNone && some e.seq ≠ own

/-- A departing stage task has a late fault still to be trapped (R243, R283). -/
def Spot.lateDue (p : Spot) (s : State) (b : Nat) (w : Switch) : Bool :=
  let x := p.view s b w
  x.lates ≠ [] && x.mode = .task

/-- A departing stage task is ended as by texit, which lets it take its late fault first, with TRAPPC at the instruction in hand (R180, R283;
log 128): its block ends for the trap, and after the handler it comes to its point again. The issuer, whose chsw cannot complete before, is
answered 2. -/
def Spot.deliver (p : Spot) (s : State) (b : Nat) (w : Switch) : State :=
  if (p.ctx s b).2.any fun o => some o.id = w.op then refuseSwitch s b w 2
  else match p with
  | .on k =>
    match (s.strand b k).firstLate with
    | some l => (s.modStrand b k fun x => lateEntry l x.groupPc { x with block := none }).trace b k 4 0 (BitVec.ofNat 64 l.code.num)
    | none => s
  | .away c =>
    let c' := { c with block := none, since := s.cycle }
    s.modBrick b fun y =>
      if y.ready.contains c then { y with ready := y.ready.map fun q => if q = c then c' else q }
      else { y with away := y.away.filter (· ≠ c), ready := y.ready ++ [c'] }

/-- A chsw of a task that runs no stage of the chain completes with status 0 when the switch does (R200). -/
def finishSwitch (s : State) (b : Nat) (w : Switch) : State :=
  match w.op with
  | none => s
  | some id => s.modBrick b fun x => x.modOp id fun o => match o.kind with
    | .chsw d => { o with done := true, commit := ⟨some (d, 0), [], false⟩ }
    | _ => o

/-- A context that is off its strand ends with a status (R117, R180). -/
def endCtx (s : State) (b : Nat) (c : Ctx) (status : Word) (join : Bool) : State :=
  let key := c.space + 2 ^ 20 * c.ctxid.toNat
  let s := s.modBrick b fun y => (({ y with
    ready := y.ready.filter (· ≠ c), away := y.away.filter (· ≠ c), kept := y.kept.filter (· ≠ c)
    strands := y.strands.map fun t => { t with ring := t.ring.filter fun e => e.tag ≠ key } } : Brick).releaseCtx c.space c.ctxid)
  let s := if c.task.nojoin || !join then s
    else
      let f : Flight := ⟨s.nextId, 0, key, c.space, 0, c.task.joinAddr, 8, .amo ⟨.add, 8, 2 ^ 64 - 1, 0⟩, none, [], false, false, false,
        (s.brick b).epoch, .atomic, none⟩
      s.bumpId.modBrick b fun y => { y with flights := y.flights ++ [f] }
  chainLeft (launchEnd s c.task status) b c.task

/-- A stage's task ends at a switch to folded, without a join update and without LEFT (R200, R284). -/
def Spot.end_ (p : Spot) (s : State) (b r : Nat) : State :=
  match p with
  | .on k =>
    endTask (s.modStrand b k fun x => { x with task := x.task.map fun t => { t.leave r with nojoin := true } }) b k 0
  | .away c =>
    let c' := { c with task := { c.task.leave r with nojoin := true } }
    let f (l : List Ctx) := l.map fun q => if q = c then c' else q
    endCtx (s.modBrick b fun y => { y with away := f y.away, ready := f y.ready }) b c' 0 false

/-- The task at a spot goes on as stage 0 with the registers of x; the ring entry of its pending chsw frees (R23, R200). -/
def Spot.resume (p : Spot) (s : State) (b r : Nat) (w : Switch) (x : Strand) : State :=
  let t : Option Task := x.task.map fun t => { t.leave r with stages := (t.leave r).stages ++ [(r, 0)] }
  match p with
  | .on k =>
    s.modStrand b k fun _ =>
      { x with task := t, block := none, hints := Hints.none, answers := [], phase := 0, wdCount := 0, wdDue := false }
  | .away c =>
    let c' : Ctx :=
      { c with
        task := t.getD c.task, block := none, answers := [], phase := 0, ops := x.ops, full := true, since := s.cycle
        lates := x.lates.filter fun l => some l ≠ x.firstLate }
    (poolWrite s b c.space ((saveLines x true none).map fun q => (x.saveBase + q.1, q.2))).modBrick b fun y =>
      let y := y.freeSeq c.key ((c.ops.find? fun o => some o.id = w.op).bind (·.seq))
      if y.ready.contains c then { y with ready := y.ready.map fun q => if q = c then c' else q }
      else { y with away := y.away.filter (· ≠ c), ready := y.ready ++ [c'] }

/-- Spread to folded: every stage goes into its frame, stages 1 to LAST end, and stage 0's task runs frame 0, once the writes of every
stage are visible and the late faults of those that end are trapped (R200, R243, R283). -/
def foldChain (s : State) (b r : Nat) (w : Switch) (spots : List Spot) : State :=
  if (spots.drop 1).any fun p => p.busy s b w then s
  else if let some p := (spots.drop 1).find? fun p => p.lateDue s b w then p.deliver s b w
  else match spots with
    | [] => s
    | p :: rest =>
      if p.draining s b w then s
      else
        let x0 := p.view s b w
        let s := spots.zipIdx.foldl (fun s q =>
          let x := q.1.view s b w
          saveFrame s b r q.2 x (resumeAt x).1 (resumeAt x).2) s
        let s := rest.foldl (fun s p => p.end_ s b r) s
        let c := chainCtrl s b r
        let s := setChainCtrl s b r (clearFull (putCur (putBit (putBit c 4 true) 5 false) 0))
        finishSwitch (p.resume (dropSwitch s b r) b r w (loadFrame s b r 0 { x0 with lastSpace := x0.space })).bumpFree b w

/-- The descriptor of link n as it stands. -/
def linkNow (s : State) (b r n : Nat) : Desc :=
  let at_ := r + 0x40 + 32 * n
  parseDesc (s.descBytes b at_) at_

/-- The buffers into which the full slots go have homes that take their items now (R200, R318, R323). -/
def slotsReady (s : State) (b r space : Nat) : Bool :=
  (List.range 7).all fun n =>
    let d := linkNow s b r n
    !ctrlFull (chainCtrl s b r) n || s.homesReady b space (d.itemAt (d.prodNow s b)) (2 ^ d.item) true

/-- The item of a full slot goes into its link's buffer (R200). -/
def slotOut (s : State) (b r space n : Nat) : State :=
  let d := linkNow s b r n
  if ctrlFull (chainCtrl s b r) n then
    let l := s.bytes (sramPa b (slotAt r n)) (2 ^ d.item)
    d.bump (poolWrite s b space [(d.itemAt (d.prodNow s b), l)]) b ⟨0, 0, 0, space, 0, 0, 0, .store⟩ true 1
  else s

/-- Folded to spread: the slots go into the buffers, stage 0 goes on at the current spot, the others start (R200, R283). -/
def spreadChain (s : State) (b r : Nat) (w : Switch) (l : Launch) (p : Spot) : State :=
  let c := chainCtrl s b r
  if p.draining s b w || !s.blocksReady b l || !slotsReady s b r l.space then s
  else if 3 < ctrlLast c then refuseSwitch s b w 3
  else match stageStrands s b l (ctrlLast c) with
    | none => refuseSwitch s b w 3
    | some qs =>
      let x := p.view s b w
      let s := saveFrame s b r (ctrlCur c) x (resumeAt x).1 (resumeAt x).2
      let s := (List.range 7).foldl (fun s n => slotOut s b r x.space n) s
      let s := setChainCtrl s b r (clearFull (putBit (putBit (chainCtrl s b r) 4 false) 5 false))
      let s := (p.resume (dropSwitch s b r) b r w (loadFrame s b r 0 { x with lastSpace := x.space })).bumpFree
      let s := match p with
        | .on k => setStageStrand s b r 0 k
        | .away _ => s
      finishSwitch (startStages s b r l qs) b w

/-- Every stage of a chain that is to switch counts as being at an equivalence point, while the chain's own launch runs: the spots, stage 0
first; of a folded chain, the one task (R199, R285). -/
def switchSpots (s : State) (b : Nat) (w : Switch) : Option (Launch × List Spot) :=
  (s.runsHere b).bind fun l =>
    let c := chainCtrl s b w.crec
    let l' := if w.form then (List.range (ctrlLast c + 1)).map fun i => stageSpot s b l.id w.crec (some i)
      else [stageSpot s b l.id w.crec none]
    if l'.any (·.isNone) then none else some (l, l'.filterMap id)

/-- CHAIN_SWITCH_COMPLETE: every stage counts as being at an equivalence point, and the chain changes its form (R199, R200). -/
def execChainSwitchComplete (b r : Nat) (s : State) : Host.Outcome State Fault Refusal :=
  .next (
    let c := chainCtrl s b r
    match (s.brick b).switches.find? (fun w => w.crec = r) with
    | none => s
    | some w =>
      if !ctrlPend c || ctrlLeft c || w.limit.any (fun t => decide (t ≤ s.cycle)) then s
      else match switchSpots s b w with
        | none => s
        | some (l, spots) =>
          if w.form then foldChain s b r w spots
          else match spots with
            | p :: _ => spreadChain s b r w l p
            | [] => s)

/-- The limit of a pending switch passes: it is refused with 2, unless every stage has come to its point, or the chain is folded, whose
chsw waits for none (R200, R282, R285). -/
def limitPasses (s : State) (b : Nat) (w : Switch) : State :=
  if w.form && (switchSpots s b w).isNone then refuseSwitch s b w 2
  else s.modBrick b fun x => { x with switches := x.switches.map fun q => if q = w then { q with limit := none } else q }

/-- CHSW_LIMIT_EXPIRY: the limit passed, or a stage left: the switch is refused with 2 (R200). -/
def execChswLimitExpiry (b r : Nat) (s : State) : Host.Outcome State Fault Refusal :=
  .next (match (s.brick b).switches.find? (fun w => w.crec = r) with
  | some w =>
    if ctrlLeft (chainCtrl s b r) then refuseSwitch s b w 2
    else if w.limit.any (fun t => decide (t ≤ s.cycle)) then limitPasses s b w
    else s
  | none => s)

/-- Cycles of 50 µs (R286). -/
def switchWait : Nat := 105000

/-- A context of the ready queue has waited 50 µs; or LAST strands with a block each have been free for it, and the last request that was
refused lies 50 µs back (R286). -/
def schedulerWants (s : State) (b r : Nat) (l : Launch) (folded : Bool) (last : Nat) : Bool :=
  let y := s.brick b
  let past (t : Nat) : Bool := decide (t + switchWait ≤ s.cycle)
  (findKey r y.switchWait).all past &&
  if folded then y.ready.any fun c => past c.since
  else
    decide (last ≤ 3) && decide (last ≤ ((List.finRange 5).filter fun k => y.strandFree k && past (y.strand k).since).length) &&
      decide (last ≤ ((List.range l.cmd.ctxcount).filter fun i => l.blockFree i && ((findKey i l.freed).all past)).length)

/-- A task of launch l runs a stage of the chain on brick b (R285). -/
def Brick.chainOf (x : Brick) (l r : Nat) : Bool :=
  let f (t : Task) : Bool := t.launch = l && (t.stageIn r).isSome
  x.strands.toList.any (fun t => t.task.any f) || (x.ready ++ x.away).any fun c => f c.task

/-- SCHEDULER_SWITCH_REQUEST: the scheduler asks a chain of brick b for a form, as a chsw with no limit and no d (R200, R282,
R286). -/
def execSchedulerSwitchRequest (b r form : Nat) (s : State) : Host.Outcome State Fault Refusal :=
  .next (match s.runsHere b with
  | none => s
  | some l =>
    let c := chainCtrl s b r
    let folded : Bool := form = 1
    if !(s.brick b).chains.contains r || !(s.brick b).chainOf l.id r || l.cmd.nochsw || ctrlPend c || ctrlLeft c ||
        ctrlFolded c = folded || !schedulerWants s b r l folded (ctrlLast c) then s
    else (setChainCtrl s b r (putBit c 5 true)).modBrick b fun x => { x with switches := x.switches ++ [⟨r, folded, none, none, none⟩] })

end Sys2Proof.Machine
end

