-- ==== Sys2Proof/Machine/Runtime.lean ====
section
/-! DEFINITION. The code of the runtime's trap entry (R242, R352; log 112). -/

namespace Sys2Proof.Machine

/-- A scalar register as a source (R67). -/
def regSrc (n : Nat) : Src := ⟨1, BitVec.ofNat 5 n⟩
/-- A literal as a source (R67). -/
def litSrc (n : Nat) : Src := ⟨3, BitVec.ofNat 5 n⟩

/-- The listing of R242 up to rtcause; offsets of loads and stores count doubles, those of branches words. -/
def runtimeCode : List Instr :=
  [.stD 4 13 0x7FF, .stD 5 13 0x7FE, .csrr 4 0x032, .andI 4 4 255, .addI 4 4 0x3FFF7, .bnz 4 12, .csrr 4 0x050, .shlI 4 4 32, .csrr 5 0x041,
    .or 4 (regSrc 4) (regSrc 5), .add 5 (litSrc 0) (litSrc 1), .shlI 5 5 63, .or 4 (regSrc 4) (regSrc 5), .csrw 4 0x040, .ldD 5 13 0x7FE 0,
    .ldD 4 13 0x7FF 0, .eret, .ldD 5 13 0x7FE 0, .ldD 4 13 0x7FF 0, .jmp 1]

/-- Byte offset of rtcause from the entry. -/
def rtcauseAt : Nat := 4 * runtimeCode.length

/-- The bytes of the listing. -/
def runtimeBytes : List Byte := runtimeCode.flatMap fun i => leBytes 4 (encode i)

/-- The copy of the runtime's code in the HBM of die d: past all that the root's nodes cover, and before what is reserved (R254; log 112). -/
def runtimePa (d : Nat) : Nat := 2 ^ 48 + d * Config.dieHbm + Config.hbmOpen

/-- The VA at which the operating service maps the runtime's code into a space: a page that it chooses (R352). -/
def runtimeVa (space : Nat) : Nat := 0x20000 + 4096 * ((Config.runtimeEntry space).toNat % 2 ^ 40)

/-- The mapping of the runtime's code in a space: execute right alone, onto the copy on the die of the brick that fetches (R352). -/
def runtimeNode (space : Nat) : Node :=
  ⟨0, space, runtimeVa space, 4096, runtimePa 0, Attr.clear 4, none, .runtime, false, [], 0, false, 0⟩

/-- The VA at which the handler of a space's launches begins (R26, R352). -/
def Space.entry (p : Space) : Word := p.trapEntry.getD (BitVec.ofNat 64 (runtimeVa p.id))

end Sys2Proof.Machine
end

