-- ==== Sys2Proof/Machine/Space.lean ====
section
/-! DEFINITION. Address spaces (R201 to R204, R253 to R273): the request instructions, the map unit, withdrawals and
shoot-downs, heat, creating and tearing down spaces, and what the driver sets for one. -/

namespace Sys2Proof.Machine

/-! Requests (R202, R203). -/

/-- A record that R202 refuses; un: it belongs to unmap or unmap.self. -/
def mapRecBad (l : List Byte) (un : Bool) : Bool :=
  let at_ := numAt l 28 4
  numAt l 27 1 ≠ 0 || bits (numAt l 26 1) 7 4 ≠ 0 || bits at_ 31 9 ≠ 0 || at_.testBit 6 || bits at_ 8 7 = 3 ||
  (bits at_ 8 7 ≠ 0 && bits at_ 6 3 ≠ 7) || (un && (numAt l 16 8 ≠ 0 || numAt l 24 8 ≠ 0))

/-- The element format with a number (R48). -/
def elementOf (n : Nat) : Fmt :=
  match n with
  | 1 => .fp32
  | 2 => .fp16
  | 3 => .bf16
  | 4 => .e4m3
  | 5 => .e5m2
  | 6 => .int8
  | 7 => .b4
  | _ => .raw

/-- ATTR of a record, without protection (R202). -/
def attrOf (n : Nat) : Attr := ⟨BitVec.ofNat 3 n, elementOf (bits n 6 3), BitVec.ofNat 2 (bits n 8 7), 0, 0⟩

/-- The die at whose map unit a node is homed: that of its brick, else the space's (R256). -/
def Node.home (n : Node) (va : Nat) : Nat :=
  match n.paOf va with
  | .ok pa => if paClass pa = 0 then paBrick pa / 4096 else n.space % 65536 % 8
  | .error _ => n.space % 65536 % 8

/-- The sender's node over a VA (R203). -/
def State.coverAt (s : State) (space va : Nat) : Option Node :=
  let l := s.nodes.filter fun n => n.holds space va
  (l.find? fun n => !n.withdrawing).orElse fun _ => l.head?

/-- The request that a record asks for, on its way to the home of BASE's node (R202, R256). -/
def mapReqOf (s : State) (fn : MapFn) (l : List Byte) (status : Word) (zero : Option Nat) : MapReq :=
  let base := doubleAt l 0
  { fn := fn, brick := s.cur.1, strand := s.cur.2, space := s.me.space, pc := s.me.pc, base := base, len := doubleAt l 8, dest := doubleAt l 16
    dspace := spaceKey (numAt l 24 2) (bits (numAt l 26 1) 3 0), attr := attrOf (numAt l 28 4), status := status
    home := ((s.coverAt s.me.space base.toNat).map fun n => n.home base.toNat).getD (s.me.space % 65536 % 8), zero := zero }

/-- map, grant, unmap and unmap.self (R203). -/
def mapBody (fn : MapFn) (a b : Word) (l : BitVec 4) (s : State) : Except Stop State :=
  if a.toNat % 8 ≠ 0 ∨ b.toNat % 8 ≠ 0 then .error (.trap .misaligned)
  else do
    let (r, t) ← readRec s 0 a 8 32 needLoad 0
    if mapRecBad r (fn = .unmap ∨ fn = .unmapSelf) then .error (.trap .reservedField)
    else do
      let u ← whole s (storeAccess t 10 b 8 8 (.write ((leBytes 8 0).map some)) .store)
      let zero := if u.here.flights.any fun f => f.id = t.nextId then some t.nextId else none
      let t := { u with mapq := u.mapq ++ [mapReqOf s fn r b zero] }
      .ok (t.addOp { (newOp t l .plain none) with done := true })

/-- map (R203). -/
def execMap (a b : Src) (l : BitVec 4) (s : State) : Host.Outcome State Fault Refusal :=
  run (.map a b l) s fun s => mapBody .map (s.srcA a b) (s.srcB b) l s
/-- grant (R203). -/
def execGrant (a b : Src) (l : BitVec 4) (s : State) : Host.Outcome State Fault Refusal :=
  run (.grant a b l) s fun s => mapBody .grant (s.srcA a b) (s.srcB b) l s
/-- unmap (R203). -/
def execUnmap (a b : Src) (l : BitVec 4) (s : State) : Host.Outcome State Fault Refusal :=
  run (.unmap a b l) s fun s => mapBody .unmap (s.srcA a b) (s.srcB b) l s
/-- unmap.self (R203). -/
def execUnmapSelf (a b : Src) (l : BitVec 4) (s : State) : Host.Outcome State Fault Refusal :=
  run (.unmapSelf a b l) s fun s => mapBody .unmapSelf (s.srcA a b) (s.srcB b) l s

/-- mapw: its operation completes when the word read at home has a non-zero code (R204). -/
def execMapw (d : BitVec 4) (a : Src) (l : BitVec 4) (s : State) : Host.Outcome State Fault Refusal :=
  run (.mapw d a l) s fun s => do
    gate s 0
    let ea := s.src1 a
    if ea.toNat % 8 ≠ 0 then .error (.trap .misaligned)
    else
      let fin (t : State) (v : Word) : Except Stop State :=
        .ok (t.addOp { (newOp t l .plain none) with done := true, commit := ⟨some (d, v), [], false⟩ })
      match s.answer 0 ea with
      | none => fin s 0
      | some q =>
        if q.toNat % 8 ≠ 0 then .error (.trap .misaligned)
        else do
          let (w, t) ← readHome s 0 ea 8 needLoad 0
          if leNat w % 256 ≠ 0 then fin t (doubleAt w 0) else .ok (t.addOp (newOp t l (.mapw d q) none))

/-! The mapping tree (R255). -/

/-- The node with a number. -/
def State.node? (s : State) (id : Nat) : Option Node := s.nodes.find? fun n => n.id = id

/-- Granularity of a node's class (R203). -/
def Node.grain (n : Node) : Nat :=
  match n.kind with
  | .course _ _ => 32
  | .aperture _ _ => 4096
  | _ => if paClass n.pa = 0 then 32 else 4096

/-- A node or one of its ancestors is marked withdrawing (R203). -/
def State.underWithdrawal (s : State) : Nat → Node → Bool
  | 0, n => n.withdrawing
  | fuel + 1, n => n.withdrawing || match n.parent.bind s.node? with
    | some p => s.underWithdrawal fuel p
    | none => false

/-- A rectangle node of a course that holds a brick. -/
def Node.rectOver (n : Node) (b : Nat) : Bool :=
  match n.kind with
  | .course org shape => (courseBricks org (bits shape 6 0) (bits shape 14 8)).contains b
  | .aperture org shape => (courseBricks org (bits shape 6 0) (bits shape 14 8)).contains b
  | _ => false

/-- Node n is derived from node p: its child, or a rectangle node that was derived from the root's node over a brick's SRAM (R255, R257). -/
def derivedFrom (n p : Node) : Bool :=
  n.parent = some p.id || (p.space = 0 && p.parent.isNone && p.kind = .linear && paClass p.pa = 0 && n.rectOver (paBrick p.pa))

/-- The numbers of the nodes below one, nearest first, not descending below nodes that are marked (R265, R268). -/
def State.below (s : State) : Nat → Node → List Nat
  | 0, _ => []
  | fuel + 1, p =>
    let cs := s.nodes.filter fun n => derivedFrom n p && !n.withdrawing
    cs.map (·.id) ++ cs.flatMap fun n => s.below fuel n

/-- Marked nodes of other withdrawals that a marking from the nodes of tops meets, as one of them or below one that it marks (R268). -/
def State.metMarked (s : State) (tops l : List Nat) : List Nat :=
  let ps := s.nodes.filter fun n => tops.contains n.id || l.contains n.id
  (s.nodes.filter fun n => n.withdrawing && (tops.contains n.id || ps.any (derivedFrom n))).map (·.id)

/-- The ranges of a list of nodes: space, VA and length. -/
def State.rangesOf (s : State) (l : List Nat) : List (Nat × Nat × Nat) :=
  (s.nodes.filter fun n => l.contains n.id).map fun n => (n.space, n.va, n.len)

/-- The dies in the masks of the spaces of some ranges (R265). -/
def State.diesOf (s : State) (l : List (Nat × Nat × Nat)) : List Nat :=
  ((s.spaces.filter fun p => l.any fun r => r.1 = p.id).flatMap (·.dies)).eraseDups

/-- Nodes are marked and their withdrawal begins, from the nodes of tops on (R265 phases 1 and 2; all marks in one step, log 33). -/
def withdraw (s : State) (tops l : List Nat) (req : Option MapReq) : State :=
  let r := s.rangesOf l
  { s with
    nodes := s.nodes.map fun n => if l.contains n.id then { n with withdrawing := true } else n
    withdrawals := s.withdrawals ++ [⟨s.nextId, l, r, s.diesOf r, s.metMarked tops l, req, l.length, []⟩]
    nextId := s.nextId + 1 }

/-- The nodes that unmap or unmap.self of a node withdraws (R265). -/
def State.subtree (s : State) (id : Nat) (self : Bool) : List Nat :=
  match s.node? id with
  | some n => (if self ∧ !n.withdrawing then [id] else []) ++ (if self ∧ n.withdrawing then [] else s.below s.nodes.length n).eraseDups
  | none => []

/-- unmap.self of each of a list of nodes, as one withdrawal without a request (R272, R326, R333, R337). -/
def withdrawAll (s : State) (ids : List Nat) : State :=
  withdraw s ids ((ids.flatMap fun i => s.subtree i true).eraseDups) none

/-- Two nodes mix their views of the same bytes (R263). -/
def mixes (a b : Attr) : Bool :=
  a.prot ≠ b.prot || (a.prot ≠ 0 && b.prot ≠ 0 && a.keyslot ≠ b.keyslot) ||
  (a.fmt ≠ .raw && b.fmt ≠ .raw && (a.fmt ≠ b.fmt || a.geom ≠ b.geom))

/-- The live nodes that a new one is an alias mix with (R263). -/
def State.mixedWith (s : State) (n : Node) : List Nat :=
  (s.nodes.filter fun m => m.kind = .linear && n.kind = .linear && overlaps m.pa m.len n.pa n.len && mixes m.attr n.attr).map (·.id)

/-- The tree with a new node, held as a range entry or as pages (R255, R259, R263). -/
def State.addNode (s : State) (n : Node) : State :=
  { s with nodes := { n with id := s.nextId, mixed := s.mixedWith n, range := s.wantsRange n } :: s.nodes, nextId := s.nextId + 1 }

/-! The map unit's decision (R203). -/

/-- The sender's node over BASE (R203). -/
def State.coverOf (s : State) (q : MapReq) : Option Node := s.coverAt q.space q.base.toNat

/-- MAP_NO_NODE for a request whose BASE a node covers (R203, R257, R259). DESIGN CHOICE: a DSPACE that is being torn down still counts as
live, and a node that it gains keeps it from being released (R272; log 129). -/
def noNode (s : State) (q : MapReq) (n : Node) : Bool :=
  let b := q.base.toNat
  let whole : Bool := b = n.va ∧ q.len.toNat = n.len
  decide (n.va + n.len < b + q.len.toNat) || decide (b < Config.sramBytes) ||
  ((q.fn = .map || q.fn = .grant) && (s.space? q.dspace).isNone) || (q.fn ≠ .map && !whole) ||
  (match n.kind with
  | .course _ _ => (b - n.va) / 0x20000 ≠ (b - n.va + q.len.toNat - 1) / 0x20000 ||
      decide (Config.sramBytes < (b - n.va) % 0x20000 + q.len.toNat) || (n.paOf b).toOption.isNone
  | .aperture _ _ => true
  | _ => paClass n.pa = 0 && decide (Config.sramBytes < (n.pa + (b - n.va)) % 2 ^ 33 + q.len.toNat)) ||
  (q.fn = .map && ((n.paOf b).toOption.map paClass) = some 0 && decide (1024 ≤ s.rangeEntries q.dspace))

/-- The world that a node's memory belongs to, if any rule ties it to one (R330). -/
def State.memWorld (s : State) (n : Node) (va : Nat) : Option Nat :=
  match n.paOf va with
  | .ok pa =>
    if paClass pa = 0 then some (s.worldOf (paBrick pa / 4096))
    else if paClass pa = 1 then some (s.worldOf (hbmDie (bits pa 47 0)))
    else if n.attr.prot ≠ 0 then some n.world else none
  | .error _ => none

/-- Every die in whose stacks n bytes of HBM at address a lie has a world w (R328, R350). -/
def State.stacksOf (s : State) (w a n : Nat) : Bool :=
  (List.range 8).all fun d => decide (d < hbmDie a) || decide (hbmDie (a + n - 1) < d) || s.worldOf d = w

/-- Part of a range that a node covers is memory that a rule ties to another world than w (R330): brick SRAM, the stacks of every die that it
reaches, and protected memory elsewhere. -/
def State.foreignTo (s : State) (w : Nat) (n : Node) (va len : Nat) : Bool :=
  match n.paOf va with
  | .ok pa => if paClass pa = 1 then !s.stacksOf w (bits pa 47 0) (max len 1) else (s.memWorld n va).any (· ≠ w)
  | .error _ => false

/-- MAP_RIGHTS: rights beyond the node's, or another world's space (R203, R330). -/
def mapRights (s : State) (q : MapReq) (n : Node) : Bool :=
  (q.fn = .map || q.fn = .grant) &&
  ((q.attr.rights &&& ~~~n.attr.rights) ≠ 0 || s.foreignTo (s.spaceWorld q.dspace) n q.base.toNat q.len.toNat)

/-- The outcome's code (R203): the first row of the table that holds. -/
def mapCode (s : State) (q : MapReq) : Nat :=
  match s.coverOf q with
  | none => if q.len = 0 then 6 else 5
  | some n =>
    if q.len = 0 ∨ q.base.toNat % n.grain ≠ 0 ∨ q.len.toNat % n.grain ≠ 0 ∨ q.dest.toNat % n.grain ≠ 0 then 6
    else if noNode s q n then 5
    else if s.underWithdrawal s.nodes.length n then 2
    else if mapRights s q n then 3
    else if (q.fn = .map ∨ q.fn = .grant) ∧
        s.nodes.any (fun m => m.space = q.dspace && overlaps m.va m.len q.dest.toNat q.len.toNat) then 4
    else 1

/-- The node that map or grant creates: below a closed node it is closed too (R202, R255, R326). -/
def derived (q : MapReq) (n : Node) (parent : Option Nat) : Node :=
  let b := q.base.toNat
  ⟨0, q.dspace, q.dest.toNat, q.len.toNat, (n.paOf b).toOption.getD (n.pa + (b - n.va)),
    { q.attr with prot := n.attr.prot, keyslot := n.attr.keyslot }, parent, if n.kind = .closed then .closed else .linear, false, [], n.world,
    false, n.port⟩

/-- What MAP_OK does at once: map adds its node; grant puts its node in the place of the sender's and withdraws that; unmap
withdraws (R203, R265, R269). -/
def mapDo (s : State) (q : MapReq) (n : Node) : State :=
  match q.fn with
  | .map => s.addNode (derived q n (some n.id))
  | .grant =>
    let id := s.nextId
    let s := s.addNode (derived q n n.parent)
    withdraw { s with nodes := s.nodes.map fun m => if m.parent = some n.id then { m with parent := some id } else m } [n.id] [n.id] (some q)
  | .unmap => withdraw s [n.id] (s.subtree n.id false) (some q)
  | .unmapSelf => withdraw s [n.id] (s.subtree n.id true) (some q)

/-- The outcome is written to the status word, translated in the requesting space as it is written (R203): below 0x1_8000 it
names the requesting brick's SRAM. None while its home is not ready. -/
def writeOutcome (s : State) (q : MapReq) (v : Nat) : Option State :=
  let a := q.status.toNat
  let act : FAct := .write ((leBytes 8 v).map some)
  if a < Config.sramBytes then
    (homeAct s q.brick q.space a (sramPa q.brick a) act).map fun r => match r with
    | .ok t => t
    | .error c => s.report q.brick q.strand q.space c .store q.pc q.status 0
  else match s.placeHw (dieOf q.brick) q.space a needStore with
    | .error c => some (s.report q.brick q.strand q.space c .store q.pc q.status 0)
    | .ok _ => hwStore s (dieOf q.brick) q.space a act .store q.pc

/-- The store of 0 to a request's status word is still on its way (R203, R295; log 113). -/
def State.zeroBusy (s : State) (q : MapReq) : Bool := (s.brick q.brick).flights.any fun f => some f.id = q.zero && !f.arrived

/-- MAP_REQUEST: the map unit decides request n, in issue order for each strand, once the store of 0 to its status word is performed;
grant and the unmaps write MAP_OK at their withdrawal point (R203, R265, R269). -/
def execMapRequest (n : Nat) (s : State) : Host.Outcome State Fault Refusal :=
  .next (match s.mapq[n]? with
  | none => s
  | some q =>
    if ((s.mapq.take n).any fun r => r.brick = q.brick && r.strand = q.strand) || s.zeroBusy q then s
    else
      let t := { s with mapq := s.mapq.eraseIdx n }
      match mapCode s q, s.coverOf q with
      | 1, some m =>
        if q.fn = .map then (writeOutcome (mapDo t q m) q 1).getD s else mapDo t q m
      | c, _ => (writeOutcome t q c).getD s)

/-! Shoot-downs (R265 to R267, R271). -/

/-- A range of a withdrawal covers part of a range of a space. -/
def Withdrawal.hits (w : Withdrawal) (space va len : Nat) : Bool := w.ranges.any fun r => r.1 = space && overlaps r.2.1 r.2.2 va len

/-- SHOOTDOWN_INVALIDATE: brick b's interface drops its entries and RRB lines in the ranges and closes its epoch (R271). -/
def execShootdownInvalidate (b w : Nat) (s : State) : Host.Outcome State Fault Refusal :=
  .next (match s.withdrawals.find? (fun q => q.id = w) with
  | none => s
  | some q =>
    let y := s.brick b
    if y.taken.any (fun t => t.1 = w) ∨ y.disabled ∨ !q.dies.contains (dieOf b) then s
    else s.modBrick b fun y =>
      { q.ranges.foldl (fun y r => y.rrbDrop r.1 r.2.1 r.2.2) y with
        entries := y.entries.filter fun e => !q.hits e.space e.va e.len
        taken := y.taken ++ [(w, y.epoch)]
        epoch := y.epoch + 1 })

/-- An access that brick b's interface translated in epoch e or before is in flight: it waits for its home, for the host, or for a
flushing read (R271). -/
def Brick.inFlight (y : Brick) (e : Nat) : Bool :=
  let f (l : List Op) : Bool := l.any fun o => o.accs.any fun a => (a.st = .pending || a.st = .host) && decide (a.epoch ≤ e)
  y.strands.toList.any (fun t => f t.ops) || (y.ready ++ y.away ++ y.kept).any (fun c => f c.ops) ||
    y.flights.any fun f => f.pa.isSome && decide (f.epoch ≤ e) && (!f.arrived || f.posted)

/-- A fired command pins part of the invalidated ranges (R160, R267). -/
def Brick.pinned (y : Brick) (w : Withdrawal) : Bool :=
  y.matq.any fun m => m.fired && m.ranges.any fun r => w.hits m.space r.1 r.2

/-- SHOOTDOWN_ACKNOWLEDGE: the closed epoch is empty and no pin is held (R267, R271). -/
def execShootdownAcknowledge (b w : Nat) (s : State) : Host.Outcome State Fault Refusal :=
  .next (
    let y := s.brick b
    match s.withdrawals.find? (fun q => q.id = w), y.taken.find? (fun t => t.1 = w) with
    | some q, some t =>
      if y.acked.contains w ∨ y.inFlight t.2 ∨ y.pinned q then s else s.modBrick b fun y => { y with acked := y.acked ++ [w] }
    | _, _ => s)

/-- Every enabled brick that has ever been touched on the dies of the masks has acknowledged; one that has not holds nothing
(R265). -/
def State.allAcked (s : State) (w : Withdrawal) : Bool :=
  s.bricks.all fun q => !w.dies.contains (dieOf q.1) || q.2.disabled || q.2.acked.contains w.id

/-- The tree without a withdrawal's nodes: their pages' heat goes, and alias marks that they caused (R263, R265). -/
def removeNodes (s : State) (w : Withdrawal) : State :=
  { s with
    nodes := (s.nodes.filter fun n => !w.nodes.contains n.id).map fun n => { n with mixed := n.mixed.filter fun i => !w.nodes.contains i }
    heat := s.heat.filter fun h => !w.hits (h.1 % 2 ^ 20) (h.1 / 2 ^ 20) 1
    withdrawals := s.withdrawals.filter fun q => q.id ≠ w.id
    bricks := s.bricks.map fun q => (q.1, { q.2 with taken := q.2.taken.filter (fun t => t.1 ≠ w.id), acked := q.2.acked.filter (· ≠ w.id) }) }

/-- A space that is torn down is released with its last node (R272). -/
def releaseSpaces (s : State) : State :=
  { s with spaces := s.spaces.filter fun p => !(p.teardown && !s.nodes.any fun n => n.space = p.id) }

/-- WITHDRAWAL_POINT: the last acknowledgement has arrived; the nodes are removed, and MAP_OK is written with their number, once the store of
0 to the status word is performed (R265, R268, R269, R295). -/
def execWithdrawalPoint (w : Nat) (s : State) : Host.Outcome State Fault Refusal :=
  .next (match s.withdrawals.find? (fun q => q.id = w) with
  | none => s
  | some q =>
    if !s.allAcked q ∨ q.waits.any (fun i => (s.node? i).isSome) ∨ q.req.any s.zeroBusy then s
    else
      let t := q.make.foldl State.addNode (releaseSpaces (removeNodes s q))
      match q.req with
      | none => t
      | some r => (writeOutcome t r (1 + if r.fn = .grant then 0 else q.count * 2 ^ 32)).getD s)

/-! Requests to the operating service (R254, R272, R273, R334, R352). -/

/-- A token is valid for a request (R334): its sequence number, bits 63:0, is out, and its MAC, bits 191:64, is that of the number and the
request under the session's key. -/
def World.takes (w : World) (tok : Nat) (req : List Nat) : Bool :=
  w.tokens.contains (tok % 2 ^ 64) &&
    decide (tok / 2 ^ 64 = Config.tokenMac (Config.sessionKey w.id w.sessionNo) (tok % 2 ^ 64) req % 2 ^ 128)

/-- A world whose locked interface has taken a request: the token is spent, and the generation steps (R334). -/
def World.spend (w : World) (tok : Nat) : World := { w with tokens := w.tokens.erase (tok % 2 ^ 64), generation := w.generation + 1 }

/-- The outcome of a request on an interface of a world (R331, R334): a locked one takes it only with a valid token, which is spent; one
without is answered 3. req: the request that the MAC covers. -/
def lockedRequest (s : State) (world bit tok : Nat) (req : List Nat) : Bool × State :=
  match s.worlds.find? fun w => w.id = world with
  | none => (true, s)
  | some w =>
    let put (f : World → World) : State := { s with worlds := s.worlds.map fun v => if v.id = world then f v else v }
    if !w.locked.testBit bit then (true, s)
    else if w.takes tok req then (true, put fun v => v.spend tok)
    else
      let t := put fun v => { v with refusals := v.refusals + 1 }
      (false, { t with replies := t.replies ++ [.status world 3] })

/-- Every entry and RRB line of a space number, whatever the generation, goes (R272). -/
def flushNumber (s : State) (num : Nat) : State :=
  { s with bricks := s.bricks.map fun q => (q.1, { q.2 with
      entries := q.2.entries.filter fun e => e.space % 65536 ≠ num
      rrbCuts := (q.2.rrbCut none).rrbCuts
      rrb := q.2.rrb.filter fun l => l.space % 65536 ≠ num }) }

/-- The runtime's code stands in the HBM of a die (R352; log 112). -/
def putRuntime (s : State) (d : Nat) : State := s.write (runtimePa d) runtimeBytes

/-- The runtime's code is there, on every die, and mapped into a space (R352; log 112). -/
def mapRuntime (s : State) (space : Nat) : State :=
  let t := (List.range 8).foldl putRuntime s
  { t with
    nodes := t.nodes ++ [{ runtimeNode space with id := t.nextId }]
    nextId := t.nextId + 1
    replies := t.replies ++ [.entry space (runtimeVa space)] }

/-- SPACE_CREATE: a space of a world takes a number that is free, with the next generation; it holds the runtime's code and nothing else
(R254, R272, R328, R352). -/
def execSpaceCreate (num world tmpl tok : Nat) (s : State) : Host.Outcome State Fault Refusal :=
  .next (
    if num = 0 ∨ 65536 ≤ num ∨ s.spaces.any (fun p => p.id % 65536 = num) then s
    else
      let r := lockedRequest s world 0 tok [0, num, world, tmpl]
      if !r.1 then r.2
      else
        let s := r.2
        let used := findKey num s.gens
        let gen := (used.map fun g => (g + 1) % 16).getD 0
        let s := if used.isSome ∧ gen = 0 then flushNumber s num else s
        mapRuntime { s with
          gens := putKey num gen s.gens
          spaces := s.spaces ++ [⟨spaceKey num gen, world, templFields (BitVec.ofNat 64 tmpl), .unset, .kill, none, false, [], Config.trustList (spaceKey num gen), []⟩] } (spaceKey num gen))

/-- SPACE_TEARDOWN: every node of the space is withdrawn, and messages to it are dropped from now on (R272). -/
def execSpaceTeardown (sp tok : Nat) (s : State) : Host.Outcome State Fault Refusal :=
  .next (match s.space? sp with
  | none => s
  | some p =>
    if sp = 0 ∨ p.teardown then s
    else
      let r := lockedRequest s p.world 0 tok [1, sp]
      if !r.1 then r.2
      else
        let s := { r.2 with spaces := r.2.spaces.map fun q => if q.id = sp then { q with teardown := true } else q }
        withdrawAll s ((s.nodes.filter fun n => n.space = sp).map (·.id)))

/-- HEAT_SWEEP: every millisecond each non-zero heat field goes down by one (R262). -/
def execHeatSweep (s : State) : Host.Outcome State Fault Refusal :=
  .next (
    if s.cycle < s.lastSweep + Config.msCycles then s
    else
      let down (h : BitVec 2) : BitVec 2 := if h = 0 then 0 else h - 1
      { s with lastSweep := s.lastSweep + Config.msCycles, heat := s.heat.map fun h => (h.1, down h.2.1, down h.2.2) })

/-- The policy with a number: that of the reply (R117, R273). -/
def policyOf (n : Nat) : Policy :=
  match n with
  | 0 => .retry
  | 1 => .skip
  | _ => .kill

/-- FAULT_SERVICE_TARGET_SET: a strand by a VA of its brick's SRAM (kind 1), the pair of die a (kind 2), no target (kind 0), or the
pair's policy (kind 3) (R273). -/
def execFaultServiceTargetSet (sp kind a tsp k policy tok : Nat) (s : State) : Host.Outcome State Fault Refusal :=
  .next (match s.space? sp with
  | none => s
  | some p =>
    let r := lockedRequest s p.world 3 tok [4, sp, kind, a, tsp, k, policy]
    if !r.1 then r.2
    else { r.2 with spaces := r.2.spaces.map fun q => if q.id ≠ sp then q
      else match kind with
        | 0 => { q with target := .unset }
        | 1 => { q with target := .strand (BitVec.ofNat 64 a) tsp k }
        | 2 => { q with target := .pair (a % 8) }
        | _ => { q with policy := policyOf policy } })

/-- RUNTIME_ENTRY_SET: later launches of the space set TRAPVEC to this entry (R352). -/
def execRuntimeEntrySet (sp : Nat) (va : Word) (s : State) : Host.Outcome State Fault Refusal :=
  .next { s with spaces := s.spaces.map fun q => if q.id = sp then { q with trapEntry := some va } else q }

/-- CLOSED_NODE_REMOVAL: the driver removes the closed node of an extent that is gone (R326). -/
def execClosedNodeRemoval (n : Nat) (s : State) : Host.Outcome State Fault Refusal :=
  .next (match s.node? n with
  | some m => if m.space = 0 ∧ m.kind = .closed ∧ !m.withdrawing then withdrawAll s [n] else s
  | none => s)

end Sys2Proof.Machine
end

