-- ==== Sys2Proof/Machine/Queue.lean ====
section
/-! DEFINITION. User queues, slots and launches (R230 to R234, R240, R276, R304 to R315). -/

namespace Sys2Proof.Machine

/-! Queues (R304, R305, R306, R309). -/

/-- The world of a space has lost its session, or is being moved (R336, R338). -/
def State.worldHeld (s : State) (space : Nat) : Bool :=
  s.worlds.any fun w => w.id = s.spaceWorld space && (w.grace.isSome || w.move ≠ .none)
/-- The world of a space is being moved (R338). -/
def State.worldMoves (s : State) (space : Nat) : Bool := s.worlds.any fun w => w.id = s.spaceWorld space && w.move ≠ .none

/-- A LAUNCH of the queue that has been read and is not placed (R306, R310). -/
def State.unplaced (s : State) (q : Nat) : Bool := s.launches.any fun l => l.queue = some q && l.st = .waiting

/-- The die whose distributor reads for a queue: that of its slot, and the first of its world's dies while it is unmapped (R310, R328; log
106). -/
def State.queueDie (s : State) (q : Queue) : Nat :=
  match q.slot with
  | some i => i / 64
  | none => ((List.range 8).find? fun d => s.worldOf d = s.spaceWorld q.space).getD 0

/-- The ring lies in host memory while the host is lost (R323). -/
def State.ringLost (s : State) (q : Queue) : Bool :=
  !s.hostUp && match s.placeHw (s.queueDie q) q.space q.ring needLoad with
    | .ok p => paClass p.pa = 3
    | .error _ => false

/-- A queue has work: TAIL is not HEAD, or a LAUNCH has been read and not placed, and no WAIT holds it (R310); so does one with a command
that has been read and not carried out; none while its ring or its world is lost (R323, R336; log 106). -/
def State.queueWork (s : State) (q : Queue) : Bool :=
  (q.tail ≠ q.head || s.unplaced q.id || q.cmd.isSome) && q.wait.isNone && !s.ringLost q && !s.worldHeld q.space

/-- A fault on a command's address: QERR 2 and a report (R309). -/
def faultQueue (s : State) (q : Queue) (c : Code) (cls : Access) (a : Nat) : State :=
  stopQueue (s.report (pairKey q.die) 0 q.space c cls 0 (BitVec.ofNat 64 a) 0) q.id 2

/-- A command is read: HEAD advances before it is carried out (R305). -/
def takeCommand (s : State) (q : Nat) (l : List Byte) : State :=
  writeHead (s.modQueue q fun x => { x with head := x.head + 1, cmd := some l }) q

/-- A command that R306 refuses. -/
def commandBad (l : List Byte) : Bool :=
  let h := numAt l 0 8
  match numAt l 0 1 with
  | 1 => launchMalformed l
  | 2 => bits h 11 8 ≠ 0 || bits h 15 13 ≠ 0 || bits h 63 18 ≠ 0 || bits h 17 16 = 3 || (l.drop 24).any (· ≠ 0)
  | 3 => bits h 11 8 ≠ 0 || bits h 15 13 ≠ 0 || bits h 63 17 ≠ 0 || (l.drop 24).any (· ≠ 0)
  | 4 => bits h 11 8 ≠ 0 || bits h 15 13 ≠ 0 || bits h 63 16 ≠ 0 || (l.drop 16).any (· ≠ 0)
  | _ => true

/-- A command that has been read is carried out by f, unless it waits: BARRIER for every earlier LAUNCH, or f for a home that is not
ready (R306). -/
def runCommand (s : State) (x : Queue) (l : List Byte) (f : State → Queue → List Byte → Option State) : State :=
  if (numAt l 0 8).testBit 12 ∧ numAt l 0 1 ≠ 1 ∧ s.launches.any (fun y => y.queue = some x.id) then s
  else ((f s x l).map fun t => t.modQueue x.id fun y => { y with cmd := none }).getD s

/-- The head word is up to date, and its home or the park buffer takes its next value: else the next command waits (R304, R318, R323). -/
def State.headReady (s : State) (x : Queue) : Bool :=
  !x.stale && (s.homeReady x.headAt || (isHost x.headAt && s.hostHeld x.space && s.parkRoom 8))

/-- The queue's command is read, if none is in hand, and carried out by f, if it is of the kind that f deals with: a stopped, unmapped,
waiting or empty queue takes none, nor one with a LAUNCH to place (R305, R306). -/
def command (s : State) (q : Nat) (kind : List Byte → Bool) (f : State → Queue → List Byte → Option State) : State :=
  match s.queue? q with
  | none => s
  | some x =>
    if x.slot.isNone ∨ !s.queueWork x ∨ s.unplaced q then s
    else match x.cmd with
    | some l => if kind l then runCommand s x l f else s
    | none =>
      if x.tail = x.head ∨ x.err ≠ 0 ∨ !s.headReady x then s
      else
        let at_ := x.ring + 64 * (x.head.toNat % 2 ^ x.log2n)
        match s.hwBytes x.die x.space at_ 64 with
        | none => s
        | some (.error c) => faultQueue s x c .load at_
        | some (.ok l) =>
          if commandBad l then stopQueue s q 1
          else if !kind l then s
          else runCommand (takeCommand s q l) x l f

/-- A SIGNAL or MARK at an address (R309): as a store-like access; a fault stops the queue, and so does a misaligned address
(log 37). -/
def signalAt (a : Nat) (act : FAct) (cls : Access) (s : State) (x : Queue) : Option State :=
  if a % 8 ≠ 0 then some (stopQueue s x.id 2)
  else match hwTry s x.die x.space a act with
    | none => none
    | some (.error c) => some (faultQueue s x c cls a)
    | some (.ok t) => some t

/-- A SIGNAL of a kind (R309). -/
def isSignal (k : Nat) (l : List Byte) : Bool := numAt l 0 1 = 2 && bits (numAt l 0 8) 17 16 = k

/-- SIGNAL_STORE (R309). -/
def execSignalStore (q : Nat) (s : State) : Host.Outcome State Fault Refusal :=
  .next (command s q (isSignal 0) fun s x l =>
    signalAt (numAt l 8 8) (.write ((leBytes 8 (numAt l 16 8)).map some)) .store s x)
/-- SIGNAL_ADD (R309). -/
def execSignalAdd (q : Nat) (s : State) : Host.Outcome State Fault Refusal :=
  .next (command s q (isSignal 1) fun s x l => signalAt (numAt l 8 8) (.amo ⟨.add, 8, numAt l 16 8, 0⟩) .atomic s x)
/-- SIGNAL_LAND_SET (R123, R309). -/
def execSignalLandSet (q : Nat) (s : State) : Host.Outcome State Fault Refusal :=
  .next (command s q (isSignal 2) fun s x l => signalAt (numAt l 8 8) (.landSet (bits (numAt l 16 8) 47 0)) .store s x)
/-- MARK: CYCLE is stored (R309). -/
def execMark (q : Nat) (s : State) : Host.Outcome State Fault Refusal :=
  .next (command s q (fun l => numAt l 0 1 = 4) fun s x l =>
    signalAt (numAt l 8 8) (.write ((leBytes 8 s.cycle).map some)) .store s x)

/-- A WAIT holds its queue (R309). -/
def waitOnQueue (s : State) (x : Queue) (w : QWait) : Option State := some (s.modQueue x.id fun y => { y with wait := some w })

/-- WAIT_COUNTER (R309). -/
def execWaitCounter (q : Nat) (s : State) : Host.Outcome State Fault Refusal :=
  .next (command s q (fun l => numAt l 0 1 = 3 && !(numAt l 0 8).testBit 16) fun s x l =>
    waitOnQueue s x (.counter (doubleAt l 8) (doubleAt l 16)))
/-- WAIT_LANDING (R309). -/
def execWaitLanding (q : Nat) (s : State) : Host.Outcome State Fault Refusal :=
  .next (command s q (fun l => numAt l 0 1 = 3 && (numAt l 0 8).testBit 16) fun s x l => waitOnQueue s x (.landing (doubleAt l 8)))

/-- The condition of a WAIT holds on a word: the counter form never takes the lock form (R126, R309). -/
def QWait.holds (w : QWait) (v : Nat) : Bool :=
  match w with
  | .counter _ b => if b = BitVec.allOnes 64 then bits v 63 62 = 2 || bits v 63 62 = 3 else decide (b.toNat ≤ v)
  | .landing _ => bits v 63 62 = 2 || bits v 63 62 = 3

/-- The address of a WAIT. -/
def QWait.addr (w : QWait) : Nat :=
  match w with
  | .counter a _ => a.toNat
  | .landing a => a.toNat

/-- WAIT_SATISFIED: the word at home meets the condition, and the queue goes on (R309). -/
def execWaitSatisfied (q : Nat) (s : State) : Host.Outcome State Fault Refusal :=
  .next (match s.queue? q with
  | none => s
  | some x =>
    match x.wait with
    | none => s
    | some w =>
      let go (s : State) : State := s.modQueue q fun y => { y with wait := none }
      if w.addr % 8 ≠ 0 then stopQueue (go s) q 2
      else match s.hwBytes (s.queueDie x) x.space w.addr 8 with
        | none => s
        | some (.error c) => faultQueue (go s) x c .load w.addr
        | some (.ok l) => if w.holds (leNat l) then go s else s)

/-- DOORBELL: a store of a double at offset 0 sets TAIL; anything else is dropped and reported with RIGHTS; more than the ring
holds stops the queue (R305). -/
def execDoorbell (q off size : Nat) (v : Word) (s : State) : Host.Outcome State Fault Refusal :=
  .next (match s.queue? q with
  | none => s
  | some x =>
    if off ≠ 0 ∨ size ≠ 8 then s.report (pairKey x.die) 0 x.space .rights .store 0 (BitVec.ofNat 64 off) 0
    else ringDoorbell s x v.toNat)

/-- What a node maps at an address for a need (R232, R304), whichever unit asks: no die boundary stands between. -/
def State.mapsAt (s : State) (space : Nat) (n : Need) (cls : Nat → Bool) (q : Node) (va : Nat) : Bool :=
  match q.placeOn 0 va with
  | .error _ => false
  | .ok pa => cls (paClass pa) && (s.paFault (pairKey (paDie q.port pa)) q.port pa).isNone && !(paClass pa = 4 && (doorbellOf pa).isNone) &&
    (n.fault q.attr).isNone && decide (va < 2 ^ 57) && q.space = space

/-- Every page of a range is mapped with a need, to classes that are asked for (R232, R304): node by node. -/
def coveredFrom (s : State) (space : Nat) (n : Need) (cls : Nat → Bool) (hi : Nat) : Nat → Nat → Bool
  | 0, va => decide (hi ≤ va)
  | fuel + 1, va =>
    if hi ≤ va then true
    else match s.walk space va with
      | .error _ => false
      | .ok q =>
        let e := match q.kind with
          | .course _ _ => va + (if (va - q.va) % 0x20000 < Config.sramBytes then Config.sramBytes - (va - q.va) % 0x20000 else 1)
          | _ => q.va + q.len
        s.mapsAt space n cls q va && coveredFrom s space n cls hi fuel (max e (va + 1))

/-- A range of a space is mapped with a need, to classes that are asked for. -/
def State.covered (s : State) (space va len : Nat) (n : Need) (cls : Nat → Bool) : Bool :=
  coveredFrom s space n cls (va + len) (s.nodes.length + 2) va

/-- Device or host memory, where a queue's ring may lie: brick SRAM, HBM and host memory (R304). -/
def ringClass (c : Nat) : Bool := c = 0 || c = 1 || c = 3

/-- The number of a doorbell page that no queue has. -/
def State.freeDoor (s : State) : Nat := ((List.range (s.queues.length + 1)).find? fun d => !s.queues.any fun q => q.door = d).getD 0

/-- The read-only mapping of the page of a queue's head word, below a node of the root, and the write-only one of its doorbell page
(R304; log 114). -/
def queueNodes (sp head hva dva door : Nat) (root : Node) : List Node :=
  let pg := head / 4096 * 4096
  [⟨0, sp, hva, 4096, pg, ⟨1, .raw, 0, root.attr.prot, root.attr.keyslot⟩, some root.id, .linear, false, [], root.world, false, root.port⟩,
    ⟨0, sp, dva, 4096, doorbellPa door, Attr.clear 2, none, .doorbell door, false, [], 0, false, 0⟩]

/-- A node of the root over a physical page that hardware may write: not a sealed one (R264, R304). -/
def State.rootOver (s : State) (pa : Nat) : Option Node :=
  s.nodes.find? fun n => n.space = 0 && n.kind = .linear && !n.withdrawing && n.attr.rights.getLsbD 0 && n.attr.rights.getLsbD 1 && n.attr.prot ≠ 3 && decide (n.pa ≤ pa) &&
    decide (pa + 4096 ≤ n.pa + n.len)

/-- A page of a space at which nothing is mapped. -/
def State.freePage (s : State) (sp va : Nat) : Bool :=
  va % 4096 = 0 && decide (0x18000 ≤ va) && decide (va + 4096 ≤ 2 ^ 57) && !s.nodes.any fun n => n.space = sp && overlaps n.va n.len va 4096

/-- Two free pages of a space, the one after the other. -/
def State.twoPages (s : State) (sp : Nat) : Option Nat :=
  (0x18000 :: s.nodes.map fun n => (n.va + n.len + 4095) / 4096 * 4096).find? fun a => s.freePage sp a && s.freePage sp (a + 4096)

/-- The pages at which the operating service maps a queue's head word and doorbell: any two free ones (R304; log 114). -/
def State.queuePages (s : State) (sp : Nat) : Option (Nat × Nat) :=
  let a := Config.queuePage (2 * s.free)
  let b := Config.queuePage (2 * s.free + 1)
  if s.freePage sp a ∧ s.freePage sp b ∧ a ≠ b then some (a, b) else (s.twoPages sp).map fun a => (a, a + 4096)

/-- QUEUE_CREATE: the operating service creates a queue; its head word lies at a physical address, and the pages of its head word and
doorbell are mapped into the space, the first in memory that the space's world may map (R304, R330, R334). -/
def execQueueCreate (sp ring lg head prio tok : Nat) (s : State) : Host.Outcome State Fault Refusal :=
  .next (match s.space? sp, s.rootOver (head / 4096 * 4096), s.queuePages sp with
  | some p, some root, some (hva, dva) =>
    if lg < 4 ∨ 16 < lg ∨ ring % 4096 ≠ 0 ∨ head % 8 ≠ 0 ∨ 7 < prio ∨ 65536 ≤ s.queues.length ∨ !s.covered sp ring (64 * 2 ^ lg) needLoad ringClass ∨
        (s.memWorld root (root.va + (head / 4096 * 4096 - root.pa))).any (· ≠ p.world) then s
    else
      let r := lockedRequest s p.world 2 tok [3, sp, ring, lg, head, prio]
      if !r.1 then r.2
      else
        let door := s.freeDoor
        let q := s.nextId
        let s := { r.2.bumpId.bumpFree with queues := r.2.queues ++ [⟨q, sp, ring, lg, head, 0, 0, 0, prio, none, 0, 0, none, door, none, none, hva + head % 4096, false⟩] }
        writeHead ((queueNodes sp head hva dva door root).foldl State.addNode s) q
  | _, _, _ => s)

/-- QUEUE_RESET: a stopped queue runs again, empty from HEAD on (R305, log 37). -/
def execQueueReset (q : Nat) (s : State) : Host.Outcome State Fault Refusal :=
  .next (match s.queue? q with
  | some x => if x.err = 0 then s else writeHead (s.modQueue q fun y => { y with err := 0, tail := y.head, wait := none, cmd := none }) q
  | none => s)

/-- LAUNCH: the command is read, and waits for its placement (R306, R307). -/
def execLaunch (q : Nat) (s : State) : Host.Outcome State Fault Refusal :=
  .next (command s q (fun l => numAt l 0 1 = 1) fun s x l =>
    let c := parseLaunch l
    let after := if c.barrier then (s.launches.filter fun y => y.queue = some q).map (·.id) else []
    some { s with launches := s.launches ++ [Launch.waiting s.nextId x.space c x.die (some q) after false s.cycle] }.bumpId)

/-! The slot tick (R310, R314). -/

/-- The effective priority of a queue (R310). -/
def Queue.effective (q : Queue) : Nat := min 7 (q.prio + q.waited)

/-- ORIGIN of the first LAUNCH among the next commands of a queue, from slot k on. -/
def State.nextOrigin (s : State) (q : Queue) : Nat → Nat → Option Nat
  | 0, _ => none
  | n + 1, k =>
    match s.hwBytes (s.queueDie q) q.space (q.ring + 64 * (k % 2 ^ q.log2n)) 64 with
    | some (.ok l) => if numAt l 0 1 = 1 then some (numAt l 56 2) else s.nextOrigin q n (k + 1)
    | _ => none

/-- The die that a queue's next LAUNCH names (R310). -/
def State.wantedDie (s : State) (q : Queue) : Option Nat :=
  let o := match s.launches.find? (fun l => l.queue = some q.id && l.st = .waiting) with
    | some l => some l.cmd.origin
    | none => s.nextOrigin q (min (q.tail - q.head).toNat (2 ^ q.log2n)) q.head.toNat
  o.bind fun o => if o.testBit 15 then some (bits o 14 12) else none

/-- A free slot for a queue: on the die it names, else on the lowest-numbered die (R310). -/
def freeSlotFor (used : List Nat) (die : Option Nat) : Option Nat :=
  let free := (List.range 512).filter fun i => !used.contains i
  (match die with
  | some d => free.find? fun i => i / 64 = d
  | none => none).orElse fun _ => free.head?

/-- A queue before another in the ranking: higher effective priority, then the longer unmapped wait (R310). -/
def rankBefore (a b : Queue) : Bool :=
  decide (b.effective < a.effective) || (a.effective = b.effective && (decide (b.waited < a.waited) ||
    (a.waited = b.waited && match a.begun, b.begun with
      | some x, some y => decide (x ≤ y)
      | none, some _ => false
      | _, none => true)))

/-- The 512 slots go to the queues of highest rank; one that stays mapped keeps its slot (R310). -/
def assignSlots (s : State) (ranked : List Queue) : List (Nat × Nat) :=
  let top := ranked.take 512
  let keep := top.filterMap fun q => q.slot.map fun i => (q.id, i)
  (top.filter fun q => q.slot.isNone).foldl (fun l q =>
    match freeSlotFor (l.map (·.2)) (s.wantedDie q) with
    | some i => l ++ [(q.id, i)]
    | none => l) keep

/-- The launches that hold a brick (R314). -/
def State.holders (s : State) (b : Nat) : List Launch := s.launches.filter fun l => l.st ≠ .waiting && l.bricks.contains b

/-- Holders of equal PRIO take turns: the running one is pre-empted (R314). -/
def holderTurns (s : State) : State :=
  (s.launches.filter fun l => l.st = .running && l.bricks.any fun b =>
    (s.holders b).any fun h => h.st = .preempted && h.cmd.prio = l.cmd.prio).foldl (fun s l => preemptLaunch s l.id) s

/-- The whole ticks that a queue has been unmapped with work by now are counted (R310). -/
def Queue.credit (q : Queue) (now : Nat) : Queue :=
  match q.begun with
  | none => q
  | some t => { q with waited := q.waited + (now - t) / Config.tickCycles, begun := some (t + (now - t) / Config.tickCycles * Config.tickCycles) }

/-- A queue that is unmapped and has work has had it since now, if not before; one whose work has gone no longer waits (R310). -/
def noteWaits (s : State) : State :=
  { s with queues := s.queues.map fun q =>
      if q.slot.isSome then q
      else if s.queueWork q then { q with begun := some (q.begun.getD s.cycle) }
      else { q.credit s.cycle with begun := none } }

/-- Steps 1 and 2 of the tick for one queue: without work it is unmapped; mapped for a tick, its wait count is reset; else that counts the
whole ticks that it has been unmapped with work (R310, R311). -/
def tickQueue (s : State) (q : Queue) : Queue :=
  let slot := if s.queueWork q then q.slot else none
  if q.slot.isSome then { q with slot := slot, mapped := if slot.isSome then q.mapped + 1 else 0, waited := 0, begun := none }
  else { q.credit s.cycle with mapped := 0 }

/-- The firmware's tick (R310, R314, R322). -/
def slotTick (s : State) : State :=
  let s := noteWaits { s with lastTick := s.lastTick + Config.tickCycles }
  if s.takeover then s
  else
    let qs := s.queues.map (tickQueue s)
    let slots := assignSlots s ((qs.filter s.queueWork).mergeSort rankBefore)
    noteWaits (holderTurns { s with queues := qs.map fun q =>
      let n := findKey q.id slots
      { q with slot := n, begun := if n.isSome then none else q.begun } })

/-- SLOT_TICK: the tick that is due (R310). -/
def execSlotTick (s : State) : Host.Outcome State Fault Refusal :=
  .next (if s.cycle < s.lastTick + Config.tickCycles then s else slotTick s)

/-! Placement (R230, R276, R307, R308, R313, R314). -/

/-- The update of DONE: with the host lost it is parked with the record (R308, R323). -/
def bumpDone (s : State) (l : Launch) (a : Nat) : Option State :=
  let act : FAct := .amo ⟨.add, 8, 1, 0⟩
  match s.placeHw l.die l.space a act.need with
  | .ok p => if paClass p.pa = 3 ∧ s.hostHeld l.space then s.parkAct l.space p.pa act else hwStore s l.die l.space a act .store 0
  | .error _ => hwStore s l.die l.space a act .store 0

/-- The first three doubles of a completion record, each as a system-scope store; none while its home is not ready (R308). -/
def writeRecord (s : State) (l : Launch) (status : Word) : Option State := do
  let st (s : State) (off v : Nat) : Option State :=
    hwStore s l.die l.space (l.cmd.compl.toNat + off) (.write ((leBytes 8 v).map some)) .store 0
  let s ← st s 8 status.toNat
  let s ← st s 16 l.forced
  st s 24 (s.cycle - l.start)

/-- Host writes that have been posted since a state was left, and are not known to be visible (R245). -/
def State.postedSince (s : State) (n : Nat) : List Nat :=
  s.ports.flatMap fun p => (p.2.posted.map (·.2)).filter fun i => decide (n ≤ i)

/-- The completion record, DONE last, once the other three are performed (R245, R308); none while its home is not ready, or a flushing read
is still to answer for it. -/
def writeCompl (s : State) (l : Launch) (status : Word) : Option State :=
  if l.cmd.compl.toNat = 0 then some s
  else match l.recd with
    | some ids => if s.ports.any fun p => p.2.posted.any fun f => ids.contains f.2 then none else bumpDone s l l.cmd.compl.toNat
    | none => (writeRecord s l status).bind fun t => if t.postedSince s.nextId = [] then bumpDone t l l.cmd.compl.toNat else none

/-- The first part of a completion record is written, if it can be, and its posted writes are kept (R245, R308). -/
def beginCompl (s : State) (l : Launch) (status : Word) : State :=
  if l.recd.isSome ∨ l.cmd.compl.toNat = 0 then s
  else match writeRecord s l status with
    | some t => t.modLaunch l.id fun l => { l with recd := some (t.postedSince s.nextId) }
    | none => s

/-- The launch is refused with a reason (R308); until its record is written the reason is kept. -/
def refuseLaunch (s : State) (l : Launch) (nn : Nat) : State :=
  let status := BitVec.ofNat 64 (0xC000000000000000 + nn)
  match writeCompl s l status with
  | some t => { t with launches := t.launches.filter fun q => q.id ≠ l.id }
  | none => (beginCompl s l status).modLaunch l.id fun l => { l with refused := some nn }

/-- Global row and column of a course's origin, and whether a shape fits the mesh of 2 × 4 dies from there (R230, R258). -/
def fitsMesh (org rows cols : Nat) : Bool :=
  let die := bits org 14 12
  decide (bits org 11 6 < 56) && decide (bits org 5 0 < 56) && decide (56 * (die / 4) + bits org 11 6 + rows ≤ 112) &&
    decide (56 * (die % 4) + bits org 5 0 + cols ≤ 224)

/-- A rectangle can be formed from enabled bricks at an origin (R230). -/
def State.formable (s : State) (org rows cols : Nat) : Bool :=
  fitsMesh org rows cols && (courseBricks org rows cols).all fun b => !(s.brick b).disabled

/-- A course spans dies (R276). -/
def spansDies (org rows cols : Nat) : Bool := decide (56 < bits org 11 6 + rows) || decide (56 < bits org 5 0 + cols)

/-- The image has a non-zero byte outside the footprint (R231). -/
def imageOutside (c : LaunchCmd) (img : List Byte) : Bool :=
  img.zipIdx.any fun q => q.1 ≠ 0 && (decide (q.2 < c.footprint.1) || decide (c.footprint.2 ≤ q.2))

/-- The .local image of the container one of whose segments holds an address, or, for code in the local window, of the last container that has
one (R208, R231; log 36). -/
def State.imageAt (s : State) (space : Nat) (code : Word) : List Byte :=
  let l := ((s.space? space).map (·.images)).getD []
  ((if code.toNat < Config.sramBytes then l.reverse.find? fun q => q.2.2 ≠ []
    else l.reverse.find? fun q => decide (q.1 ≤ code.toNat) && decide (code.toNat < q.1 + q.2.1)).map (·.2.2)).getD []

/-- More channels than there are, or fixed ones beyond the last (R308 reason 03). -/
def channelsBad (c : LaunchCmd) : Bool :=
  decide (48 < c.nfd) || decide (13 < c.nfv) || (c.nfd ≠ 0 && c.fdbase.testBit 7 && decide (48 < bits c.fdbase 5 0 + c.nfd)) ||
    (c.nfv ≠ 0 && c.fvbase.testBit 7 && decide (13 < bits c.fvbase 3 0 + c.nfv))

/-- The launch's shape must span dies wherever it lies, or does so at its origin (R308 reason 03). -/
def mustSpan (c : LaunchCmd) : Bool :=
  if c.origin.testBit 15 then spansDies (c.origin % 2 ^ 15) c.rows c.cols else decide (56 < c.rows) || decide (56 < c.cols)

/-- Every origin of the device. -/
def allOrigins : List Nat :=
  (List.range 8).flatMap fun d => (List.range 56).flatMap fun r => (List.range 56).map fun c => d * 4096 + r * 64 + c

/-- Why a launch is refused, before its constant bank is read (R308). -/
def State.refusal (s : State) (l : Launch) : Option Nat :=
  let c := l.cmd
  if c.outOfRange || imageOutside c (s.imageAt l.space c.code) then some 1
  else if c.ctxcount < c.roots ∨ !s.covered l.space c.pool.toNat c.poolBytes ⟨true, true, false, .sealedStore, .store⟩ (fun _ => true) then some 2
  else if channelsBad c || (c.nfd ≠ 0 && mustSpan c) then some 3
  else if !(if c.origin.testBit 15 then s.formable (c.origin % 2 ^ 15) c.rows c.cols
      else allOrigins.any fun o => s.formable o c.rows c.cols) then some 4
  else none

/-- A run of free channels: the lowest-numbered, or those from a fixed base (R276). -/
def freeChannels (used : Nat → Bool) (base limit n : Nat) (fixed : Option Nat) : Option (List Nat) :=
  match fixed with
  | some f => if (List.range n).all fun i => !used (base + f + i) then some ((List.range n).map (base + f + ·)) else none
  | none =>
    let l := ((List.range limit).map (base + ·)).filter fun c => !used c
    if n ≤ l.length then some (l.take n) else none

/-- The channels of a launch on a die, if they are free (R276). -/
def State.channels (s : State) (c : LaunchCmd) (die : Nat) : Option (List Nat) := do
  let d ← freeChannels (fun c => (s.foot? (footKey die c)).isSome) 0 48 c.nfd (if c.fdbase.testBit 7 then some (bits c.fdbase 5 0) else none)
  let v ← freeChannels (fun c => (s.foot? (footKey die c)).isSome) 48 13 c.nfv (if c.fvbase.testBit 7 then some (bits c.fvbase 3 0) else none)
  some (d ++ v)

/-- The footprints of two launches overlap (R240, R314). -/
def printsOverlap (a b : LaunchCmd) : Bool := decide (a.footprint.1 < b.footprint.2) && decide (b.footprint.1 < a.footprint.2)

/-- Brick b may be held by launch l too (R313, R314, R328, R339). -/
def State.mayHold (s : State) (l : Launch) (b : Nat) : Bool :=
  let y := s.brick b
  let hs := s.holders b
  let d := (s.dies.toList)[b / 4096]?.getD Die.fresh
  !y.disabled && !y.retiring && !d.quarantined && d.world = s.spaceWorld l.space && decide (hs.length < 4) &&
  hs.all fun h => !printsOverlap h.cmd l.cmd && (h.st = .preempted || decide (h.cmd.prio ≤ l.cmd.prio))

/-- A launch may be placed now: its earlier LAUNCHes are complete where it has to wait for them, its queue is mapped to a slot, and
its world's session stands (R306, R310, R312, R336). -/
def State.placeable (s : State) (l : Launch) : Bool :=
  l.st = .waiting && l.after.all (fun i => (s.launch? i).isNone) && !s.worldHeld l.space &&
  match l.queue with
  | some q => ((s.queue? q).bind (·.slot)).isSome
  | none => true

/-- COURSESHAPE (R27). -/
def LaunchCmd.shape (c : LaunchCmd) : Nat := c.rows + c.cols * 256

/-- The rectangle nodes of a launch (R257). -/
def rectNodes (l : Launch) : List Node :=
  let shape := l.cmd.shape
  [⟨0, l.space, l.win * 2 ^ 30, 0x40000000, 0, Attr.clear 3, none, .course l.org shape, false, [], 0, false, 0⟩,
    ⟨0, l.space, l.win * 2 ^ 30 + 0x40000000, 0x40000000, 0, Attr.clear 3, none, .aperture l.org shape, false, [], 0, false, 0⟩]

/-- The 32 doubles of a constant bank (R18, R307); none while the home is not ready. -/
def constBank (s : State) (l : Launch) : Option (Except Code (Vector Word 32)) :=
  if l.cmd.cbank = 0 then some (.ok (Vector.replicate 32 0))
  else match s.hwBytes l.die l.space l.cmd.cbank.toNat 256 with
    | none => none
    | some (.error c) => some (.error c)
    | some (.ok b) => some (.ok (Vector.ofFn fun (i : Fin 32) => doubleAt b (8 * i)))

/-- The trap entry of a launch: the one its space had when it started (R352). -/
def State.launchEntry (s : State) (l : Launch) : Word :=
  l.entry.getD (match s.space? l.space with
    | some p => p.entry
    | none => BitVec.ofNat 64 (runtimeVa l.space))

/-- What the launch sets on every brick of its course, at its start and whenever it resumes (R26, R231; log 38). -/
def installLaunch (s : State) (l : Launch) : State :=
  let entry := s.launchEntry l
  l.bricks.foldl (fun s b => s.modBrick b fun y =>
    { y with
      launch := some l.id, tasks := true, gated := false, c := l.consts, coursewin := BitVec.ofNat 27 l.win, courseorg := BitVec.ofNat 15 l.org
      courseshape := BitVec.ofNat 15 l.cmd.shape, footmask := l.tmask
      strands := y.strands.mapFinIdx fun i t _ => if i < 4 then
        { t with deadline := if l.cmd.deadline = 0 then 20000 else l.cmd.deadline, trapvec := entry.extractLsb' 2 55, wdLog2 := 26 } else t }) s

/-- The footprint of a launch on brick b: the image at its own offsets, zero elsewhere (R231). -/
def writePrint (s : State) (l : Launch) (b : Nat) : State :=
  let lo := sramPa b l.cmd.footprint.1
  let hi := sramPa b l.cmd.footprint.2
  let inside (pa : Nat) : Bool := decide (lo ≤ pa) && decide (pa < hi)
  let s := { s with
    mem := s.mem.filter fun c => !inside c.1
    poison := s.poison.filter fun u => !inside u
    codeLog := s.codeLog.map fun (e : CodeStore) => if inside e.pa then { e with pa := 2 ^ 60 } else e }
  { s with mem := cellsSet s.mem lo ((l.image.drop l.cmd.footprint.1).take (l.cmd.footprint.2 - l.cmd.footprint.1)) }

/-- Root i of a launch starts on strand 0 of its brick, in block blk (R231, R233). -/
def startRoot (l : Launch) (s : State) (q : Nat × Nat) : State :=
  let (i, blk) := q
  let b := courseBrick l.org (i / l.cmd.cols) (i % l.cmd.cols)
  let s := takeBlock s b l blk
  s.modStrand b 0 fun x =>
    let y := (x.start l 0 blk (BitVec.ofNat 64 (l.cmd.code.toNat / 4 * 4))).setS 3 (BitVec.ofNat 64 l.cmd.shape)
    let y := if l.cmd.gang then (y.setS 1 (BitVec.ofNat 64 (i / l.cmd.cols))).setS 2 (BitVec.ofNat 64 (i % l.cmd.cols)) else y
    { y with v := Vector.replicate 32 0, p := Vector.replicate 8 0, task := some ⟨l.id, some i, true, 0, blk, []⟩ }

/-- R231: the course's bricks take the launch's state and footprint, and its roots start in free blocks. -/
def startLaunch (s : State) (id : Nat) : State :=
  match s.launch? id with
  | none => s
  | some l =>
    let s := installLaunch s l
    let s := l.bricks.foldl (fun s b => (writePrint s l b).modBrick b fun y => { y.rrbClear with deque := [], deqVer := y.deqVer + 1 }) s
    let s := s.modLaunch id fun x => { x with st := .running, started := true, entry := some (s.launchEntry l) }
    let n := l.cmd.roots
    let blks := pickFrom s.free n (List.range l.cmd.ctxcount)
    (((List.range n).zip blks).foldl (startRoot l) s).bumpFree

/-- Messages and frames that were parked for the space's bricks of a course come on their way again (R185, R240). -/
def unpark (s : State) (space : Nat) (bs : List Nat) : State :=
  let m (q : Msg) : Bool := q.space = space && bs.contains q.dst
  let f (q : Frame) : Bool := q.space = space && bs.contains q.dst
  { s with
    net := (s.parkq.filter m).map (fun q => { q with op := none }) ++ s.net
    parkq := s.parkq.filter fun q => !m q
    frames := s.parkFrames.filter f ++ s.frames
    parkFrames := s.parkFrames.filter fun q => !f q }

/-- A context's key belongs to a launch: its space and tag (R232). -/
def Launch.owns (l : Launch) (key : Nat) : Bool := key % 2 ^ 20 = l.space && key / 2 ^ 40 = l.tag

/-- A packet that a launch's bricks have sent is on its way (R315). -/
def State.packets (s : State) (l : Launch) : Bool :=
  let going (x : Option Nat) : Bool := x.all s.homeReady
  let ops (os : List Op) : Bool := os.any fun o => o.accs.any fun a => a.st = .pending && s.homeReady a.pa
  s.bricks.any (fun q =>
    q.2.flights.any (fun f => l.owns f.ctx && !f.arrived && going f.pa) ||
    q.2.strands.toList.any (fun t => (t.task.any fun t => t.launch = l.id) && ops t.ops) ||
    (q.2.ready ++ q.2.away ++ q.2.kept).any fun c => c.task.launch = l.id && ops c.ops) ||
  s.frames.any (fun f => f.task.launch = l.id) || s.steals.any (fun m => m.launch = l.id) ||
  s.rcmds.any (fun c => c.key = l.space && l.bricks.contains c.src && c.answered.isNone && c.tok.isNone) ||
  s.mapq.any fun q => q.space = l.space && l.bricks.contains q.brick

/-- A packet of a colour is on its way (R315; log 115). -/
def State.colourBusy (s : State) (c : Nat) : Bool :=
  s.net.any (fun m => m.colour = c) || s.launches.any fun l => l.cmd.colour = c && l.st ≠ .waiting && s.packets l

/-- No brick of the course runs a launch, and the colour of none that has left it is under way (R233, R314, R315). -/
def State.courseIdle (s : State) (l : Launch) : Bool :=
  (l.bricks.all fun b =>
    let y := s.brick b
    y.launch.isNone && (List.finRange 5).all fun k => (y.strand k).task.isNone) &&
  s.launches.all fun h => h.id = l.id || h.st ≠ .preempted || !h.started || !h.bricks.any l.bricks.contains || !s.colourBusy h.cmd.colour

/-- The context blocks of the roots have homes that take a write now (R232, R318). -/
def State.rootsReady (s : State) (l : Launch) : Bool :=
  let n := l.cmd.roots
  ((List.range n).zip (pickFrom s.free n (List.range l.cmd.ctxcount))).all fun q =>
    s.poolReady (courseBrick l.org (q.1 / l.cmd.cols) (q.1 % l.cmd.cols)) l.space (l.blockBase q.2 + 0x2000) 64

/-- The launch is the one to run next on its course: no holder of its bricks has a higher PRIO, or an equal one and a longer wait
(R314). -/
def State.turnOf (s : State) (l : Launch) : Bool :=
  l.bricks.all fun b => (s.holders b).all fun h => h.id = l.id ||
    decide (h.cmd.prio < l.cmd.prio) || (h.cmd.prio = l.cmd.prio && decide (l.waited ≤ h.waited))

/-- A launch as placed at an origin, with its tag, course window, channels and constant bank (R230 to R232, R276). -/
def placedLaunch (s : State) (l : Launch) (org tag win : Nat) (ch : List Nat) (cs : Vector Word 32) : Launch :=
  { l with
    st := .preempted, org := org, tag := tag, win := win, tmask := BitVec.ofNat 64 (ch.map (2 ^ ·)).sum, consts := cs
    image := s.imageAt l.space l.cmd.code, start := s.cycle, waited := s.cycle, die := bits org 14 12 }

/-- A placed launch becomes a holder of its bricks, with its channels and rectangle nodes (R257, R276, R313). -/
def holdCourse (s : State) (l : Launch) (ch : List Nat) : State :=
  let e := if l.cmd.fcount = 0 then l.cmd.rows * l.cmd.cols else l.cmd.fcount
  let s := s.modLaunch l.id fun _ => l
  (rectNodes l).foldl State.addNode { s with foots := s.foots ++ ch.map fun c => ⟨footKey l.die c, l.id, e, 0, [], []⟩ }

/-- The launch becomes a holder of its bricks; it starts at once on an idle course, and running launches of lower PRIO are pre-empted
for it (R313, R314). -/
def placeLaunch (s : State) (l : Launch) (org tag win : Nat) (ch : List Nat) (cs : Vector Word 32) : State :=
  let l' := placedLaunch s l org tag win ch cs
  let s := holdCourse s l' ch
  if s.courseIdle l' && s.turnOf l' && s.rootsReady l' then unpark (startLaunch s l.id) l.space l'.bricks
  else
    (s.launches.filter fun h => h.st = .running && decide (h.cmd.prio < l.cmd.prio) && h.bricks.any l'.bricks.contains).foldl
      (fun s h => preemptLaunch s h.id) s

/-- The effective priority of a launch's placement: its queue's, or its own PRIO in a device-launch queue (R310, R312). -/
def State.placePrio (s : State) (l : Launch) : Nat :=
  match l.queue.bind s.queue? with
  | some q => q.effective
  | none => l.cmd.prio

/-- A rectangle at an origin, and the channels, are free for a launch (R313, R314). -/
def State.fitsAt (s : State) (l : Launch) (org : Nat) : Bool :=
  let c := l.cmd
  (!(c.origin.testBit 15) || c.origin % 2 ^ 15 = org) && decide (org < 2 ^ 15) && fitsMesh org c.rows c.cols &&
  (courseBricks org c.rows c.cols).all (s.mayHold l) && !(spansDies org c.rows c.cols && c.nfd ≠ 0) &&
  (s.channels c (bits org 14 12)).isSome

/-- The die of the distributor that carries a launch out: that of its queue's slot, or of its device-launch queue (R312). -/
def State.distDie (s : State) (l : Launch) : Nat := ((l.queue.bind s.queue?).map (·.die)).getD l.die

/-- A placement of the same distributor with a higher effective priority would succeed: it is attempted first (R312). -/
def State.outranked (s : State) (l : Launch) : Bool :=
  s.launches.any fun h => s.distDie h = s.distDie l && decide (s.placePrio l < s.placePrio h) && s.placeable h &&
    ((s.refusal h).isSome || allOrigins.any (s.fitsAt h))

/-- LAUNCH_PLACEMENT: the launch is refused, or placed at an origin with a tag and a course window that are free (R230 to R234, R257,
R276, R307, R308, R312 to R314). -/
def execLaunchPlacement (l org tag win : Nat) (s : State) : Host.Outcome State Fault Refusal :=
  .next (match s.launch? l with
  | none => s
  | some q =>
    if !s.placeable q then s
    else match q.refused.orElse fun _ => s.refusal q with
      | some nn => refuseLaunch s q nn
      | none =>
        let c := q.cmd
        let free : Bool := !s.launches.any fun h => h.space = q.space && h.st ≠ .waiting && h.tag = tag
        let room : Bool := !s.nodes.any fun n => n.space = q.space && overlaps n.va n.len (win * 2 ^ 30) 0x80000000
        if !s.fitsAt q org || decide (4096 ≤ tag) || !free || win = 0 || decide (2 ^ 27 - 1 ≤ win) || !room || s.outranked q then s
        else match s.channels c (bits org 14 12), constBank s q with
          | some ch, some (.ok cs) => placeLaunch s q org tag win ch cs
          | _, some (.error code) => refuseLaunch (s.report (pairKey q.die) 0 q.space code .load 0 c.cbank 0) q 5
          | _, _ => s)

/-! Pre-emption and resumption of a course (R240, R285, R315). -/

/-- Base of a launch's deque image for brick number i of its course (R232). -/
def Launch.dequeImage (l : Launch) (i : Nat) : Nat := l.cmd.pool.toNat + l.cmd.ctxcount * 2 ^ l.cmd.ctxlog2 + 2048 * i

/-- A brick of a pre-empted course: its records go to their image, its ready contexts to the scheduler, its waiting frames to the
parking queue (R240). -/
def leaveBrick (l : Launch) (s : State) (q : Nat × Nat) : State :=
  let (b, i) := q
  let y := s.brick b
  let img := y.deque.flatMap fun r => r.bytes s.free
  let s := poolWrite s b l.space (((toLines 32 img).zipIdx).map fun p => (l.dequeImage i + 64 * p.2, p.1))
  let s := s.modLaunch l.id fun l => { l with deques := l.deques ++ [(b, y.deque)] }
  { (s.modBrick b fun y =>
      { y with launch := none, deque := [], deqVer := y.deqVer + 1, ready := [], kept := y.kept ++ y.ready, frames := [] }) with
    parkFrames := s.parkFrames ++ y.frames }

/-- A record of a deque image as memory holds it now; what travels beside a MIGRATED record was kept (R31, R240; log 87). -/
def recordBack (b space : Nat) (q : State × List DeqRec) (a : DeqRec × Nat) : State × List DeqRec :=
  let (s, rs) := q
  let (r, at_) := a
  if r.frame.isSome then (s, rs ++ [r])
  else match s.check b space at_ needLoad with
    | .error _ => (s, rs ++ [r])
    | .ok (p, s') =>
      let l := s'.bytes p.pa 32
      let w := numAt l 0 8
      (s', rs ++ [{ r with entry := BitVec.ofNat 64 (bits w 56 2 * 4), nojoin := w.testBit 57, joinAddr := doubleAt l 8, arg0 := doubleAt l 16, arg1 := doubleAt l 24 }])

/-- The deque of brick number i of a course that resumes (R240). -/
def dequeBack (l : Launch) (s : State) (q : Nat × Nat) : State :=
  let (b, i) := q
  let r := (((findKey b l.deques).getD []).zipIdx.map fun p => (p.1, l.dequeImage i + 32 * p.2)).foldl (recordBack b l.space) (s, [])
  r.1.modBrick b fun y => { y with deque := r.2, deqVer := y.deqVer + 1 }

/-- The deque images of a course have homes that a read reaches now (R240, R318). -/
def State.imagesReady (s : State) (l : Launch) : Bool :=
  l.bricks.zipIdx.all fun p => (findKey p.1 l.deques).getD [] = [] || s.homesReady p.1 l.space (l.dequeImage p.2) 2048 false

/-- Every saved context of the launch enters its brick's ready queue in the order in which it was saved; one that is blocked stays so
(R240). -/
def contextsBack (l : Launch) (s : State) (b : Nat) : State :=
  s.modBrick b fun y =>
    let mine (c : Ctx) : Bool := c.task.launch = l.id && c.kill.isNone
    let cs := ((y.kept ++ y.away).filter mine).mergeSort fun c d => decide (c.order ≤ d.order)
    { y with
      ready := y.ready ++ cs.map fun c => { c with since := s.cycle }
      kept := y.kept.filter fun c => !mine c
      away := y.away.filter fun c => !mine c }

/-- COURSE_PREEMPTED: every task strand of the course is free and no handler runs (R240). -/
def execCoursePreempted (l : Nat) (s : State) : Host.Outcome State Fault Refusal :=
  .next (match s.launch? l with
  | none => s
  | some q =>
    let free (b : Nat) : Bool :=
      let y := s.brick b
      y.handler.isNone && (List.finRange 5).all fun k => k.val = 4 || ((y.strand k).task.isNone && (y.strand k).saveTok.isNone)
    let room : Bool := q.bricks.zipIdx.all fun p => (s.brick p.1).deque = [] || s.poolReady p.1 q.space (q.dequeImage p.2) 2048
    if q.st ≠ .preempting ∨ !q.bricks.all free ∨ !room then s
    else (q.bricks.zipIdx.foldl (leaveBrick q)
      (s.modLaunch l fun q => { q with st := .preempted, waited := s.cycle, raises := [], deques := [] })).bumpFree)

/-- LAUNCH_RESUME: a holder whose turn has come starts, or resumes: deque images are restored, and its contexts enter their bricks'
ready queues in the order in which they were saved (R240, R314). -/
def execLaunchResume (l : Nat) (s : State) : Host.Outcome State Fault Refusal :=
  .next (match s.launch? l with
  | none => s
  | some q =>
    if q.st ≠ .preempted ∨ !s.courseIdle q ∨ !s.turnOf q ∨ s.worldMoves q.space then s
    else if !q.started then (if s.rootsReady q then unpark (startLaunch s l) q.space q.bricks else s)
    else if !s.imagesReady q then s
    else
      let s := q.bricks.zipIdx.foldl (dequeBack q) (installLaunch s q)
      let s := q.bricks.foldl (contextsBack q) s
      unpark (s.modLaunch l fun q => { q with st := .running, deques := [] }) q.space q.bricks)

/-! Completion (R234, R308). -/

/-- Writes of a launch that are not performed (R234). -/
def Brick.writesOf (y : Brick) (l : Launch) : Bool :=
  y.flights.any (fun f => l.owns f.ctx && (!f.arrived || f.posted)) || y.held.any (fun h => l.owns h.2.1.ctx) ||
  y.chans.toList.any (fun c => (c.job.any fun j => l.owns j.ctx) || (c.latched.any fun j => l.owns j.ctx)) ||
  y.matq.any (fun m => l.owns m.ctx) || y.panels.any fun p => l.owns p.ctx

/-- A record, frame or context of a launch is somewhere (R234). -/
def State.traces (s : State) (l : Launch) : Bool :=
  s.bricks.any (fun q => q.2.deque.any (fun r => r.launch = l.id) || q.2.frames.any (fun f => f.task.launch = l.id) || q.2.writesOf l) ||
  (s.frames ++ s.parkFrames).any (fun f => f.task.launch = l.id) || s.steals.any (fun m => m.launch = l.id && m.answer ≠ some none) ||
  l.deques.any fun d => d.2 ≠ []

/-- The launch's status: that of the lowest-indexed root that reported one (R234). -/
def Launch.status (l : Launch) : Word :=
  (l.roots.foldl (fun (o : Option (Nat × Word)) r => match o with
    | none => some r
    | some q => if r.1 < q.1 then some r else o) none).elim 0 (·.2)

/-- The launch leaves its course: channels, rectangle nodes and bricks (R257, R276). -/
def freeCourse (s : State) (l : Launch) : State :=
  let s := { s with foots := s.foots.filter (fun f => f.launch ≠ l.id), launches := s.launches.filter fun q => q.id ≠ l.id }
  let s := withdrawAll s ((s.nodes.filter fun n => n.space = l.space && (n.kind = .course l.org l.cmd.shape || n.kind = .aperture l.org l.cmd.shape) &&
    n.va / 2 ^ 31 * 2 ^ 31 ≤ n.va && (n.va = l.win * 2 ^ 30 || n.va = l.win * 2 ^ 30 + 0x40000000)).map (·.id))
  l.bricks.foldl (fun s b => s.modBrick b fun y =>
    { y with launch := if y.launch = some l.id then none else y.launch, tasks := (s.holders b) ≠ [] }) s

/-- LAUNCH_COMPLETE: every task has ended, no record remains and every write is performed (R234, R308). -/
def execLaunchComplete (l : Nat) (s : State) : Host.Outcome State Fault Refusal :=
  .next (match s.launch? l with
  | none => s
  | some q =>
    if !q.started ∨ q.live ≠ 0 ∨ s.traces q then s
    else match writeCompl s q q.status with
      | none => beginCompl s q q.status
      | some t => freeCourse t q)

end Sys2Proof.Machine
end

