-- ==== Sys2Proof/Machine/Reply.lean ====
section
/-! DEFINITION. Messages that arrive (R116, R185, R273), fault replies (R117, R274, R351), and blocked tasks: departure, resolution
and the retry of an acquire (R118, R126, R235, R236). -/

namespace Sys2Proof.Machine

/-! Fault replies (R117). -/

/-- What a reply comes to. -/
inductive Verdict where
  | retry
  | skip
  | redirect (a : Word)
  | kill
deriving DecidableEq, Repr

/-- The verdict of a reply's two doubles on a fault of code c: reserved bytes and unknown replies are KILL, and a sealed-class fault
takes only SKIP and KILL (R117). -/
def verdictOf (d0 d1 : Word) (c : Code) : Verdict :=
  let r := bits d0.toNat 39 32
  if bits d0.toNat 63 40 ≠ 0 ∨ 2 < r then .kill
  else if r = 1 then .skip
  else if c.sealed then .kill
  else if r = 0 then .retry
  else .redirect d1

/-- The answers with what a verdict leaves for access ord. -/
def addAnswer (l : List (Nat × Answer)) (ord : Nat) (v : Verdict) : List (Nat × Answer) :=
  match v with
  | .skip => l.filter (fun a => a.1 ≠ ord) ++ [(ord, .skip)]
  | .redirect a => l.filter (fun a => a.1 ≠ ord) ++ [(ord, .redirect a)]
  | _ => l

/-- The alignment that an access in flight needs (R109 step 1). -/
def Op.align (o : Op) (a : PAcc) : Nat :=
  match a.amo with
  | some m => m.n
  | none => match o.kind with
    | .vload _ _ _ => 64
    | .vdecode _ _ _ _ _ _ => 1
    | _ => a.len

/-- The access of an operation that waits under a token: its place, and the fault's code. -/
def Op.tokenAcc (o : Op) (tok : Nat) : Option (Nat × PAcc × Code) :=
  o.accs.zipIdx.findSome? fun q => match q.1.st with
    | .faulted t c => if t = tok then some (q.2, q.1, c) else none
    | _ => none

/-- NEWADDR of a reply is not aligned for the access: the instruction traps MISALIGNED (R109 step 1, R117). -/
def Op.misaligned (o : Op) (a : PAcc) (v : Verdict) : Bool :=
  match v with
  | .redirect w => w.toNat % o.align a ≠ 0
  | _ => false

/-- The operation after a verdict on its access i: SKIP gives zero bytes, RETRY and REDIRECT issue it again (R117, R351). -/
def answerAcc (o : Op) (i : Nat) (a : PAcc) (v : Verdict) : Op :=
  let put (f : PAcc → PAcc) : Op := { o with accs := o.accs.zipIdx.map fun q => if q.2 = i then f q.1 else q.1 }
  match o.kind, v with
  | .mapw d _, .skip => { o with done := true, accs := [], commit := ⟨some (d, 0), [], false⟩ }
  | .mapw d _, .redirect w => { o with accs := [], kind := .mapw d w }
  | .mapw _ _, _ => { o with accs := [] }
  | .vdecode d p g m ea l, .skip => { putAcc o i (List.replicate a.len 0) with kind := .vdecode d p g m ea (lineOf (ea.toNat + a.off) :: l) }
  | _, .skip => putAcc o i (List.replicate a.len 0)
  | _, .redirect w => put fun q => { q with ea := w, st := .retry }
  | _, _ => put fun q => { q with st := .retry }

/-- A context in place of another that is off its strand. -/
def putAway (s : State) (b : Nat) (c c' : Ctx) : State :=
  let f (l : List Ctx) : List Ctx := l.map fun q => if q = c then c' else q
  s.modBrick b fun y => { y with away := f y.away, ready := f y.ready, kept := f y.kept }

/-- A blocked context that is off its strand goes on: to its brick's ready queue, where one that has come back already keeps its place, or
to the scheduler while its launch is pre-empted (R235, R240). -/
def wakeCtx (s : State) (b : Nat) (c c' : Ctx) : State :=
  let c' := { c' with block := none, since := s.cycle }
  if !(s.brick b).away.contains c then putAway s b c c'
  else s.modBrick b fun y =>
    if (s.launch? c.task.launch).any (fun l => l.st = .preempted) then { y with away := y.away.filter (· ≠ c), kept := y.kept ++ [c'] }
    else { y with away := y.away.filter (· ≠ c), ready := y.ready ++ [c'] }

/-- KILL of a context that is off its strand: it ends without running again (R117, R242). -/
def killCtx (s : State) (b : Nat) (c : Ctx) (status : Word) : State :=
  s.modBrick b fun y =>
    { y with
      ready := y.ready.filter (· ≠ c)
      kept := y.kept.filter (· ≠ c)
      away := (y.away.filter (· ≠ c)) ++ [{ c with kill := some status, block := none }]
      matq := y.matq.filter fun m => !(m.ctx = c.key && !m.fired && m.issuer.isNone)
      panels := y.panels.filter fun p => p.ctx ≠ c.key }

/-- What a block becomes once its reply has come: none, or one that resolves at once where a save of the blocked task still waits for a reply
of its own (R33). -/
def Strand.unblock (x : Strand) (cycle : Nat) : Strand :=
  if x.saveTok.isSome then { x with block := some (.op 0) } else { x with block := none, since := cycle }

/-- The access and code for which a block waits under a token. -/
def BlockOn.waitsFor (tok : Nat) : BlockOn → Option (Nat × Code)
  | .fault t ord c => if t = tok then some (ord, c) else none
  | _ => none

/-- The operations and block of the task on strand k with operation o replaced by o'. -/
def replyOp (s : State) (b : Nat) (k : Fin 5) (tok : Nat) (o o' : Op) : State :=
  let s := s.modBrick b fun x => x.modOp o.id fun _ => o'
  let s := s.modStrand b k fun x => if x.block = some (.opFault tok o.id) then x.unblock s.cycle else x
  match o.kind with
  | .mapw _ _ => s
  | _ => finishOp s b k o.id

/-- A list of operations without one. -/
def dropOp (o : Op) (l : List Op) : List Op := l.filter fun q => q.id ≠ o.id

/-- A reply redirects an access in flight of the task on strand k to an address that is not aligned: the operation ends without a result, and
its instruction traps (R109, R117; log 116). -/
def misalignedOp (s : State) (b : Nat) (k : Fin 5) (tok : Nat) (o : Op) : State :=
  (s.modStrand b k fun x =>
    let y := if x.block = some (.opFault tok o.id) then x.unblock s.cycle else x
    { y with ops := dropOp o y.ops, trapDue := some (.misaligned, o.gpc) }).modBrick b fun y => y.freeSeq (s.strand b k).ctxKey o.seq

/-- A reply to the task on strand k of brick b, if it waits under the token (R33, R117): for its block, for its save, or for an access in
flight. -/
def replyStrand (s : State) (b : Nat) (tok : Nat) (d0 d1 : Word) (k : Fin 5) : Option State :=
  let x := s.strand b k
  let kill (c : Code) : State := s.modStrand b k fun x => x.beginKill (killStatus c.num)
  let go (ord : Nat) (c : Code) (f : Strand → Strand) : Option State :=
    match verdictOf d0 d1 c with
    | .kill => some (kill c)
    | v => some (s.modStrand b k fun x => f { x with answers := addAnswer x.answers ord v })
  match x.block.bind (BlockOn.waitsFor tok) with
  | some (ord, c) => go ord c fun x => x.unblock s.cycle
  | none =>
    match x.saveTok.bind fun t => if t.1 = tok then some t.2 else none with
    | some (ord, c) => go ord c fun x => { x with saveTok := none }
    | none =>
      match x.ops.findSome? fun o => (o.tokenAcc tok).map fun q => (o, q) with
      | none => none
      | some (o, i, a, c) =>
        let v := verdictOf d0 d1 c
        some (if v = .kill then kill c else if o.misaligned a v then misalignedOp s b k tok o else replyOp s b k tok o (answerAcc o i a v))

/-- The context with operation o answered: it goes on, unless it waits for something else (R118). -/
def answerAway (s : State) (b tok : Nat) (c : Ctx) (o o' : Op) : State :=
  let c' := { c with ops := c.ops.map fun q => if q.id = o.id then o' else q }
  if c.block ≠ some (.opFault tok o.id) then putAway s b c c'
  else match (if o'.done then none else s.blocks o') with
    | some r => putAway s b c { c' with block := some r }
    | none => wakeCtx s b c c'

/-- A misaligned NEWADDR for an access in flight of a context that is off its strand: the context goes on to its trap (R109, log 116). -/
def misalignedAway (s : State) (b tok : Nat) (c : Ctx) (o : Op) : State :=
  let c' := { c with ops := dropOp o c.ops, trapDue := some (.misaligned, o.gpc) }
  (if c.block = some (.opFault tok o.id) then wakeCtx s b c c' else putAway s b c c').modBrick b fun y => y.freeSeq c.key o.seq

/-- A reply to a context that is off its strand, if it waits under the token (R117, R118). -/
def replyAway (s : State) (b : Nat) (tok : Nat) (d0 d1 : Word) (c : Ctx) : Option State :=
  match c.block.bind (BlockOn.waitsFor tok) with
  | some (ord, code) =>
    match verdictOf d0 d1 code with
    | .kill => some (killCtx s b c (killStatus code.num))
    | v => some (wakeCtx s b c { c with answers := addAnswer c.answers ord v })
  | none =>
    match c.ops.findSome? fun o => (o.tokenAcc tok).map fun q => (o, q) with
    | none => none
    | some (o, i, a, code) =>
      let v := verdictOf d0 d1 code
      some (if v = .kill then killCtx s b c (killStatus code.num)
        else if o.misaligned a v then misalignedAway s b tok c o else answerAway s b tok c o (answerAcc o i a v))

/-- KILL of the context of brick b that has a key, on its strand or off it (R117, R242). -/
def killKey (s : State) (b key : Nat) (status : Word) : State :=
  let y := s.brick b
  match (List.finRange 5).find? fun k => (y.strand k).task.isSome && (y.strand k).ctxKey = key with
  | some k => s.modStrand b k fun x => x.beginKill status
  | none =>
    match (y.ready ++ y.away ++ y.kept).find? fun c => c.key = key with
    | some c => killCtx s b c status
    | none => s

/-- The access of a change of ACCOWN belongs to step 2, where the former owner's image goes out (R242). -/
def ownStep2 (ord : Nat) : Bool := decide (3000 ≤ ord ∧ ord < 3100) || ord = 3202

/-- KILL of a change of ACCOWN (R242): in step 2 of the former owner, whose ACCIMG stays, and the step goes on as under SKIP; in step 4 of the
task that the image is for, and VALID becomes 0. -/
def killOwn (s : State) (b : Nat) (w : OwnWrite) (ord : Nat) (status : Word) : State :=
  if ownStep2 ord then
    let s := s.modBrick b fun y => { y with ownPending := some { w with tok := none, lost := true, answers := addAnswer w.answers ord .skip } }
    match w.old with
    | some q => killKey s b q.1 status
    | none => s
  else
    let s := s.modBrick b fun y => { y with ownPending := none, accown := y.accown &&& 0x7FFFFFFFFFFFFFFF }
    if w.touch then killKey s b (bits w.v.toNat 51 32 + 2 ^ 20 * bits w.v.toNat 31 0) status
    else s.modStrand b (Fin.ofNat 5 w.strand) fun x => x.beginKill status

/-- A reply to a remote command that waits at its target (R117, R163): KILL ends the task that opened its slot, and the command is
refused. -/
def replyCmd (s : State) (b : Nat) (tok : Nat) (d0 d1 : Word) : Option State :=
  s.rcmds.zipIdx.findSome? fun (c, n) => match c.tok with
    | none => none
    | some (t, ord, code) =>
      if c.dst ≠ b ∨ t ≠ tok then none
      else match verdictOf d0 d1 code with
        | .kill =>
          some (answerCmd (match (s.brick b).slotFor c.key c.nonce with
            | some (_, q) => killKey s b q.ctx (killStatus code.num)
            | none => s) n false)
        | v => some { s with rcmds := s.rcmds.modify n fun c => { c with tok := none, answers := addAnswer c.answers ord v } }

/-- A reply to the step of a write of ACCOWN (R242). -/
def replyOwn (s : State) (b : Nat) (tok : Nat) (d0 d1 : Word) : Option State :=
  match (s.brick b).ownPending with
  | none => none
  | some w =>
    match w.tok with
    | none => none
    | some (t, ord, c) =>
      if t ≠ tok then none
      else
        some (match verdictOf d0 d1 c with
        | .kill => killOwn s b w ord (killStatus c.num)
        | v => s.modBrick b fun y => { y with ownPending := some { w with tok := none, answers := addAnswer w.answers ord v } })

/-- A reply reaches brick b: one whose MBOX names no blocked task is discarded (R117). -/
def applyReply (s : State) (m : Msg) : State :=
  let d0 := m.data.getD 0 0
  let d1 := m.data.getD 1 0
  let tok := bits d0.toNat 31 0
  match (List.finRange 5).findSome? (replyStrand s m.dst tok d0 d1) with
  | some t => t
  | none =>
    let y := s.brick m.dst
    match (y.away ++ y.ready ++ y.kept).findSome? (replyAway s m.dst tok d0 d1) with
    | some t => t
    | none => ((replyOwn s m.dst tok d0 d1).orElse fun _ => replyCmd s m.dst tok d0 d1).getD s

/-! Arrival (R116, R185, R273). -/

/-- The number of a policy among R117's replies. -/
def Policy.num : Policy → Nat
  | .retry => 0
  | .skip => 1
  | .kill => 3

/-- A service pair answers a fault message by the space's policy, KILL unless another is installed; a report takes no reply (R273,
R274). A message for a pair that has halted goes on to the leader's (R320). -/
def pairAnswer (s : State) (m : Msg) : State :=
  let w := (m.data.getD 0 0).toNat
  let home := pairKey (s.pairOf (m.dst - pairKey 0))
  if home ≠ m.dst then { s with net := s.net ++ [{ m with dst := home }] }
  else if w.testBit 60 then s
  else
    let p := ((s.space? (bits w 19 0)).map Space.policy).getD .kill
    let mbox := bits (m.data.getD 3 0).toNat 63 32
    let r : Msg := ⟨s.nextId, m.dst, 0, m.space, 0x100000002, 0, [BitVec.ofNat 64 (mbox + p.num * 2 ^ 32), 0], [], bits w 46 32, none, false, s.colourAt m.dst⟩
    { s with net := s.net ++ [r] }.bumpId

/-- Message n of the network arrives, once no earlier one of its source is on its way to its target (R116, R185, R186); a fault message to
service pairs none of which answers waits for the next leader (R320, R322). -/
def arriveMsg (s : State) (n : Nat) (f : Msg → Bool) : State :=
  match s.net[n]? with
  | none => s
  | some m =>
    if !f m || s.msgAfter n m then s
    else
      let t := { s with net := s.net.eraseIdx n }
      if hdrReply m.hdr.toNat then setStatus (applyReply t m) m 0
      else if isPair m.dst then
        if ((s.pairs.toList)[s.pairOf (m.dst - pairKey 0)]?.map (·.healthy)).getD true then pairAnswer t m else s
      else placeMsg t m

/-- MESSAGE_ARRIVAL (R185). -/
def execMessageArrival (n : Nat) (s : State) : Host.Outcome State Fault Refusal := .next (arriveMsg s n fun _ => true)

/-- FAULT_REPLY: the message that arrives is a reply (R117). -/
def execFaultReply (n : Nat) (s : State) : Host.Outcome State Fault Refusal := .next (arriveMsg s n fun m => hdrReply m.hdr.toNat)

/-! Blocked tasks (R118, R235, R236). -/

/-- A block that lets its task leave after 256 cycles (R236). -/
def BlockOn.departs (r : BlockOn) (ops : List Op) : Bool :=
  match r with
  | .fault _ _ _ => true
  | .opFault _ _ => true
  | .acq _ _ => true
  | .join _ => true
  | .wfm _ => true
  | .op id => ops.any fun o => o.id = id && match o.kind with
    | .cpWait _ _ _ _ => true
    | .foot _ _ _ => true
    | .mapw _ _ => true
    | _ => false
  | .equiv _ _ => true
  | .get _ _ => false
  | .put _ _ => false
  | .chsw _ => false
  | .ring => true
  | .region _ _ _ _ => false

/-- The operation that a block waits for. -/
def BlockOn.waitsOn : BlockOn → Option Nat
  | .op id => some id
  | .opFault _ id => some id
  | _ => none

/-- Complete operations from a sorted list commit; what is younger than the one that the task is blocked on commits now and, since that one's
window closes before it, again when that is complete (R72, R73, R118). -/
def commitAround : List Op → Strand → Strand
  | [], x => x
  | o :: t, x => commitAround t (if o.done then commit o x else x)

/-- Every window is closed early, and every complete result commits in the order of R72: what precedes the operation that the task is
blocked on leaves, the rest stays to commit after it (R73, R118; log 49). -/
def Strand.closeFor (x : Strand) : Strand :=
  let l := (x.ops.filter fun o => o.left.isSome).foldl (fun l o => insertOp o l) []
  let y := Strand.settle { x with ops := (l.map fun o => { o with left := some 0 }) ++ x.ops.filter fun o => o.left.isNone }
  commitAround (y.ops.filter fun o => o.left.isSome) y

/-- An operation does not keep its blocked task on the strand: it has no window or is complete, or it is the one that the block waits for
(R73, R118; log 49). -/
def BlockOn.still (r : BlockOn) (o : Op) : Bool := o.left.isNone || !o.holds || r.waitsOn = some o.id

/-- The block waits for the reply to a store of the strand's own save, or to a load of a part of it (R33, R241). -/
def Strand.saveFaulted (x : Strand) : Bool :=
  x.restore.isNone && match x.block with
    | some (.fault _ ord _) => decide (2000 ≤ ord ∧ ord < 2 ^ 60)
    | _ => false

/-- A blocked task leaves its strand, its windows closed, saved in full, its accumulator in place (R73, R118); one whose registers are still
to be loaded leaves its save area as it is. -/
def departBlocked (s : State) (b : Nat) (k : Fin 5) (t : Task) : State :=
  let x := s.strand b k
  match x.restore with
  | some full =>
    letGo s b k x { x.toCtx k t full with answers := x.answers }
  | none =>
    let c := s.modStrand b k Strand.closeFor
    match leaveStrand c b k t true none with
    | .ok s' => s'
    | .error none => s
    | .error (some (p, s')) => postSave s' b k p true

/-- BLOCK_DEPARTURE: after 256 cycles of a block while work waits, or at once under a pre-emption request, once what closes its windows is
complete (R73, R118, R236, R240). -/
def execBlockDeparture (b k : Nat) (s : State) : Host.Outcome State Fault Refusal :=
  .next (if h : k < 5 then
    let x := s.strand b ⟨k, h⟩
    match x.task, x.block with
    | some t, some r =>
      let due : Bool := x.yieldPend || (r.departs x.ops && decide (x.since + 256 ≤ s.cycle) && (s.brick b).hasWork k)
      if !due || isPair b || decide (4 ≤ k) || x.mode = .service || x.saveTok.isSome || x.halted.isSome || x.unacked ≠ 0 ||
        !x.ops.all r.still || x.saveFaulted || !x.saveReady s b then s
      else departBlocked s b ⟨k, h⟩ t
    | _, _ => s
  else s)

/-- A double at its home, as a blocked task's wait sees it: a translation that fails, or poison, ends the wait (R179, R202). -/
def State.homeDouble (s : State) (b space : Nat) (ea : Word) : Option (Except Code Nat) :=
  match s.check b space ea.toNat needLoad with
  | .error c => some (.error c)
  | .ok (p, _) =>
    if !s.homeReady p.pa then none else if s.readBad b space ea.toNat p.pa 8 then some (.error .poison) else some (.ok (s.num p.pa 8))

/-- The state once a blocked task's wait has looked at its double: its interface holds the entry that the look filled (R262). -/
def State.homeSeen (s : State) (b space : Nat) (ea : Word) : State :=
  match s.check b space ea.toNat needLoad with
  | .error _ => s
  | .ok (_, t) => t

/-- The double that a block's wait looks at. -/
def State.seenFor (s : State) (b space : Nat) (ops : List Op) (r : BlockOn) : State :=
  match r with
  | .join ea => s.homeSeen b space ea
  | .acq ea _ => s.homeSeen b space ea
  | .op id => match ops.find? (fun o => o.id = id && !o.done) with
    | some o => match o.kind with
      | .mapw _ a => s.homeSeen b space a
      | _ => s
    | none => s
  | _ => s

/-- The message that a blocked wfm takes: no wfm that was issued earlier waits for it (R189). -/
def wfmFor (y : Brick) (key space since : Nat) (tag : Option (BitVec 16)) : Option Msg :=
  (y.dataMsg space tag).bind fun m =>
    if y.waiters.any fun q => q.1 ≠ key && decide (q.2.2.1 < since) && m.matches q.2.1 q.2.2.2 then none else some m

/-- A link has what a blocked get or put waits for, or its chain is folded now (R197, R200). -/
def linkOpen (s : State) (b r n : Nat) (prod : Bool) : Bool :=
  let c := chainCtrl s b r
  let at_ := r + 0x40 + 32 * n
  let d := parseDesc (s.descBytes b at_) at_
  (ctrlRun c && ctrlFolded c) || (if prod then decide (d.items s b < d.cap) else d.items s b ≠ 0)

/-- What a block's resolution leaves: nothing yet, the task free to go on, with an answer, or with its operation changed. -/
inductive Resolved where
  | no
  | go
  | take (m : Nat)
  | op (o : Op)
  | fault (o : Op) (c : Code)

/-- Whether a block of a task resolves (R235): ring and slot: the ring entries and the slot that a dispatch waits for. -/
def resolveBlock (s : State) (b key space since : Nat) (ops : List Op) (r : BlockOn) (ringFree_ : Bool) : Resolved :=
  let y := s.brick b
  let when_ (p : Bool) : Resolved := if p then .go else .no
  match r with
  | .fault _ _ _ => .no
  | .opFault _ _ => .no
  | .acq _ _ => .no
  | .join ea => match s.homeDouble b space ea with
    | some (.ok v) => when_ (v = 0)
    | some (.error _) => .go
    | none => .no
  | .wfm tag => match wfmFor y key space since tag with
    | some m => .take m.id
    | none => .no
  | .op id =>
    match ops.find? (fun o => o.id = id) with
    | none => .go
    | some o =>
      if o.done then .go
      else match o.kind with
        | .mapw d a => match s.homeDouble b space a with
          | none => .no
          | some (.error c) => .fault o c
          | some (.ok v) =>
            if v % 256 = 0 then .no else .op { o with done := true, commit := ⟨some (d, BitVec.ofNat 64 v), [], false⟩ }
        | _ => when_ (s.blocks o = none)
  | .equiv q _ => when_ (!ctrlPend (chainCtrl s b q))
  | .chsw q => when_ (!ctrlPend (chainCtrl s b q))
  | .get q n => when_ (linkOpen s b q n false)
  | .put q n => when_ (linkOpen s b q n true)
  | .ring => when_ ringFree_
  | .region base _ _ _ => when_ (s.homeReady base)

/-- The operation of a mapw whose read fails, waiting under a token (R202, R351). -/
def mapwFault (s : State) (o : Op) (c : Code) : Op :=
  match o.kind with
  | .mapw _ a => { o with accs := [⟨a, 0, 8, 0, none, true, 0, 0, .faulted (s.nextId % 2 ^ 32) c⟩] }
  | _ => o

/-- The fault message of a mapw whose read fails. -/
def mapwMsg (s : State) (b k : Nat) (o : Op) (c : Code) : State :=
  match o.kind with
  | .mapw _ a => s.bumpId.sendFault ⟨o.space, c, b, k, .load, false, o.pc, a, 0, s.nextId % 2 ^ 32⟩
  | _ => s

/-- The next dispatch of a strand finds its ring slot free (R23). -/
def Strand.slotFree (x : Strand) : Bool := x.ring.all fun e => e.seq.toNat % 64 ≠ x.seqNext.toNat % 64

/-- A block of the task on strand k resolves: the strand goes on. -/
def resolveStrand (s : State) (b : Nat) (k : Fin 5) : State :=
  let x := s.strand b k
  match x.block with
  | none => s
  | some r =>
    if x.saveTok.isSome then s
    else
      let free (x : Strand) : Strand := { x with block := none, since := s.cycle }
      let put (o : Op) (x : Strand) : Strand := { x with ops := x.ops.map fun q => if q.id = o.id then o else q }
      let seen := s.seenFor b x.space x.ops r
      match resolveBlock s b x.ctxKey x.space x.since x.ops r x.slotFree with
      | .no => s
      | .go => seen.modStrand b k free
      | .take m => s.modStrand b k fun x => free { x with answers := x.answers ++ [(wfmOrd, .redirect (BitVec.ofNat 64 m))] }
      | .op o => seen.modStrand b k fun x => free (put o x)
      | .fault o c =>
        (mapwMsg s b k o c).modStrand b k fun x => { put (mapwFault s o c) x with block := some (.opFault (s.nextId % 2 ^ 32) o.id) }

/-- Nothing of a killed context is under way (R180). -/
def ctxQuiet (s : State) (b : Nat) (c : Ctx) : Bool :=
  !(s.brick b).keyBusy c.key && (s.brick b).matq.all (fun m => m.ctx ≠ c.key) &&
    c.ops.all fun o => o.killable || (!o.sending && o.accs.all fun a => !(a.st = .pending && s.homeReady a.pa))

/-- A block of a context that is away resolves: it enters the ready queue; a killed one ends (R117, R118, R235). -/
def resolveAway (s : State) (b : Nat) (c : Ctx) : State :=
  match c.kill, c.block with
  | some st, _ => if ctxQuiet s b c then endCtx s b c st true else s
  | none, none => s
  | none, some r =>
    let y := s.brick b
    let free : Bool := match c.strand with
      | some k => ((y.strands.toList)[k]?.map Strand.slotFree).getD true
      | none => true
    let put (o : Op) : Ctx := { c with ops := c.ops.map fun q => if q.id = o.id then o else q }
    match resolveBlock s b c.key c.space c.since c.ops r free with
    | .no => s
    | .go => wakeCtx (s.seenFor b c.space c.ops r) b c c
    | .take m => wakeCtx s b c { c with answers := c.answers ++ [(wfmOrd, .redirect (BitVec.ofNat 64 m))] }
    | .op o => wakeCtx (s.seenFor b c.space c.ops r) b c (put o)
    | .fault o q =>
      putAway (mapwMsg s b (c.strand.getD 0) o q) b c { put (mapwFault s o q) with block := some (.opFault (s.nextId % 2 ^ 32) o.id) }

/-- The blocked or ending context off its strand with a number: its key, counted from 8 on (log 18). -/
def Brick.awayOf (y : Brick) (c : Nat) : Option Ctx :=
  if c < 8 then none else (y.away ++ (y.ready ++ y.kept).filter fun q => q.block.isSome).find? fun q => q.key = c - 8

/-- BLOCK_RESOLVE: c is the strand of a blocked task, or from 8 on the key of a context that is away (R235). -/
def execBlockResolve (b c : Nat) (s : State) : Host.Outcome State Fault Refusal :=
  .next (if h : c < 5 then resolveStrand s b ⟨c, h⟩
  else match (s.brick b).awayOf c with
    | some q => resolveAway s b q
    | none => s)

/-- A held attempt succeeds on the word as it is now, or its translation or its read fails, so that it is made again (R126). -/
def acqDue (s : State) (b space : Nat) (ea v : Word) : Bool :=
  match s.homeDouble b space ea with
  | some (.ok w) => acqOk w v
  | some (.error _) => true
  | none => false

/-- ACQ_RETRY: a write to the object was performed, and the attempt is made again (R126). -/
def execAcqRetry (b c : Nat) (s : State) : Host.Outcome State Fault Refusal :=
  .next (if h : c < 5 then
    match (s.strand b ⟨c, h⟩).block with
    | some (.acq ea v) =>
      if acqDue s b (s.strand b ⟨c, h⟩).space ea v && (s.strand b ⟨c, h⟩).saveTok.isNone then
        (s.homeSeen b (s.strand b ⟨c, h⟩).space ea).modStrand b ⟨c, h⟩ fun x => { x with block := none, since := s.cycle }
      else s
    | _ => s
  else match (s.brick b).awayOf c with
    | some q => match q.block with
      | some (.acq ea v) => if acqDue s b q.space ea v then wakeCtx (s.homeSeen b q.space ea) b q q else s
      | _ => s
    | none => s)

end Sys2Proof.Machine
end

