-- ==== Sys2Proof/Machine/Host.lean ====
section
/-! DEFINITION. The host's side: ownership regions (R317, R318), fallback atomics (R319), posted writes (R245), service pairs (R320
to R322), host loss and return (R323, R324), ports and far memory (R316, R325, R326, R349). -/

namespace Sys2Proof.Machine

/-! Ownership regions (R317, R318). -/

/-- Cycles of 10 µs. -/
def holdCycles : Nat := 21000
/-- Cycles of 2 ms. -/
def transferCycles : Nat := 2 * Config.msCycles

/-- A base address that an ownership region can have (R317). -/
def regionBase (r : Nat) : Bool := r % 2 ^ 21 = 0 && decide (r < 2 ^ 52) &&
  (paClass r = 3 || (paClass r = 1 && decide (bits r 47 0 < Config.hbmBytes)))

/-- The region at a base, as it stands or in its reset state (R317). -/
def State.regionAt (s : State) (r : Nat) : Region :=
  (s.regions.find? fun q => q.base = r).getD ⟨r, paClass r = 1, false, false, 0, 0, 0, false, []⟩
/-- The region's owner word, which lies in reserved HBM (R317): State.regions stands for it there, where no node reaches (R254). -/
def Region.word (q : Region) : Word :=
  BitVec.ofNat 64 ((if q.owner then 1 else 0) + (if q.moving then 2 else 0) + (if q.noatom then 4 else 0) + q.since.toNat * 2 ^ 32)
/-- The new owner of a region still holds it: 10 µs have not passed since it changed hands (R318). -/
def State.regionKept (s : State) (r : Nat) : Bool := s.regions.any fun q => q.base = r && decide (s.cycle < q.kept)
/-- The state with a region put. -/
def State.putRegion (s : State) (q : Region) : State :=
  { s with regions := s.regions.filter (fun p => p.base ≠ q.base) ++ [q] }
/-- The region with a new owner from a cycle on (R317, R318). -/
def Region.give (q : Region) (owner : Bool) (cycle : Nat) : Region :=
  { q with owner := owner, moving := false, back := false, early := [], since := BitVec.ofNat 32 (cycle / 2 ^ 16), kept := cycle + holdCycles }

/-- A port as it stands, or as reset left it. -/
def State.port (s : State) (p : Nat) : Port := (findKey p s.ports).getD ⟨true, [], 0, [], false⟩

/-- The port through which the host reaches a region: that of the node over host memory, and port 0 for HBM, which lies in BAR2 (R316,
R318). -/
def State.regionPort (s : State) (r : Nat) : Nat :=
  if paClass r = 3 then ((s.nodes.find? fun n => n.kind = .linear && overlaps n.pa n.len r (2 ^ 21)).map (·.port)).getD 0 else 0

/-- A transfer to A begins: the host side is made clean by Back-Invalidate snoops where it goes over CXL, through port 1, else by the driver,
which a mailbox entry of KIND 2 asks (R316, R318, R319; log 117). -/
def beginToA (s : State) (q : Region) : State :=
  let t := s.putRegion { q with moving := true, back := false, began := s.cycle }
  if s.cxlOn && s.regionPort q.base = 1 then t
  else
    let u : State := { t with mail := t.mail ++ [⟨2, 0, 0, s.nextId % 2 ^ 32, bits q.base 47 0, 0, 0, 0, q.base, 0, 0⟩] }
    u.bumpId.msix 0 0

/-- A physical address lies in a region. -/
def inRegion (r pa : Nat) : Bool := pa / 2 ^ 21 * 2 ^ 21 = r

/-! Device accesses that wait for a region (R318). -/

/-- The first address of a VA range that lies in a region. -/
def State.firstIn (s : State) (b space r va n : Nat) : Option Nat :=
  ((linePieces (n / 64 + 2) va n).find? fun q => (s.paAt b space q.1).any (inRegion r)).map (·.1)
/-- Part of a VA range lies in a region. -/
def State.rangeIn (s : State) (b space r va n : Nat) : Bool := (s.firstIn b space r va n).isSome

/-- An operation has an access to a region that is not performed; a send whose status has come has its landing word there. -/
def Op.wants (s : State) (b r : Nat) (o : Op) : Bool :=
  o.accs.any (fun a => a.st = .pending && inRegion r a.pa) || match o.kind with
    | .mapw _ a => !o.done && s.rangeIn b o.space r a.toNat 8
    | .msg _ land _ (some _) => !o.done && land ≠ 0 && s.rangeIn b o.space r land.toNat 8
    | _ => false

/-- The read that a block waits to make in a region: its number, class and address. -/
def BlockOn.wants (s : State) (b space r : Nat) (q : BlockOn) : Option (Nat × Access × Word) :=
  match q with
  | .region base ord cls ea => if base = r then some (ord, cls, ea) else none
  | .acq ea _ => if s.rangeIn b space r ea.toNat 8 then some (0, .load, ea) else none
  | .join ea => if s.rangeIn b space r ea.toNat 8 then some (0, .load, ea) else none
  | _ => none

/-- The first of some ranges of a space that has an address in a region, and that address. -/
def State.firstOf (s : State) (b space r : Nat) (l : List (Nat × Nat)) : Option Nat := l.findSome? fun q => s.firstIn b space r q.1 q.2

/-- Where a matrix command has a buffer or a pointer word in a region. -/
def MatCmd.wants (s : State) (b r : Nat) (m : MatCmd) : Option Nat :=
  s.firstOf b m.space r (m.descs.flatMap fun d => [(d.base.toNat, 2 ^ d.log2)] ++ (if d.ppmem then [(d.prod.toNat, 8)] else []) ++
    if d.cpmem then [(d.cons.toNat, 8)] else [])

/-- Where a copy has its template, a row, LAND or COMPL in a region. -/
def CopyStart.wants (s : State) (b r : Nat) (j : CopyStart) : Option Nat :=
  match j.tmpl with
  | none => s.firstIn b j.space r (templateAt s j.space j.data) 64
  | some t => s.firstOf b j.space r ((t.rows (startOffset j.data)).flatMap (fun q => [(q.1, t.xlen), (q.2, t.xlen)]) ++
      [(t.land.toNat, 8), (t.compl.toNat, 8)])

/-- A read or write of a queue lies in a region: a command, its head word, or a WAIT's word. -/
def Queue.wants (s : State) (r : Nat) (q : Queue) : Bool :=
  let b := pairKey q.die
  (q.cmd.isNone && q.tail ≠ q.head && s.rangeIn b q.space r (q.ring + 64 * (q.head.toNat % 2 ^ q.log2n)) 64) ||
    (inRegion r q.headAt && (q.stale || (q.cmd.isNone && q.tail ≠ q.head && q.err = 0))) ||
    q.wait.any (fun w => s.rangeIn b q.space r w.addr 8) ||
    q.cmd.any fun l => s.rangeIn b q.space r (numAt l 8 8) 8

/-- The command of a brick's aperture 3 (R345). -/
def Dbg.op (x : Dbg) : Nat := bits x.cmd.toNat 11 8

/-- The task of strand k is to be saved, or its registers are to be loaded: a forced save, a yield, a departure or a resumption is due. -/
def Brick.moves (y : Brick) (k : Nat) (cycle : Nat) (x : Strand) : Bool :=
  x.task.isSome && (x.restore.isSome || x.saveDue || x.phase ≠ 0 ||
    x.block.any fun r => x.yieldPend || (r.departs x.ops && decide (x.since + 256 ≤ cycle) && y.hasWork k))

/-- A change of ACCOWN has a line of an image in a region (R242). -/
def OwnWrite.wants (s : State) (b r : Nat) (y : Brick) (w : OwnWrite) : Bool :=
  match w.former y with
  | some q => s.rangeIn b q.2.1 r (q.2.2 + 0x1000) 0x1040
  | none => w.v.getLsbD 63 && s.rangeIn b w.space r (w.save + 0x1000) 0x1040

/-- A pending switch of a chain has a full slot's buffer or a stage's save area in a region (R200). -/
def Brick.switchWants (s : State) (b r : Nat) (y : Brick) (w : Switch) : Bool :=
  ((List.range 7).any fun n =>
    let d := linkNow s b w.crec n
    ctrlFull (chainCtrl s b w.crec) n && (y.launch.bind s.launch?).any fun l => s.rangeIn b l.space r (d.itemAt (d.prodNow s b)) (2 ^ d.item)) ||
  y.away.any fun c => (c.task.stageIn w.crec).isSome && s.rangeIn b c.space r c.savearea.toNat 0x1000

/-- A device access to a region waits in brick b: of a strand, a context, a retired access, a matrix command, a copy, a change of ACCOWN, a
chain's switch or the debug agent; a task that leaves or enters a strand needs its save area. -/
def Brick.wants (s : State) (b r : Nat) (y : Brick) : Bool :=
  y.strands.toList.zipIdx.any (fun (x, k) => x.ops.any (Op.wants s b r) || x.block.any (fun q => (q.wants s b x.space r).isSome) ||
    (y.moves k s.cycle x && s.rangeIn b x.space r x.saveBase 0x2040)) ||
  (y.away ++ y.ready ++ y.kept).any (fun c => c.ops.any (Op.wants s b r) || c.block.any fun q => (q.wants s b c.space r).isSome) ||
  y.flights.any (fun f => !f.arrived && (s.flightPa b f).any (inRegion r)) || y.matq.any (fun m => (m.wants s b r).isSome) ||
  y.chans.toList.any (fun c => c.job.any (fun j => (j.wants s b r).isSome) || c.latched.any fun j => (j.wants s b r).isSome) ||
  y.held.any (fun h => (h.2.1.wants s b r).isSome) || y.ownPending.any (OwnWrite.wants s b r y) || y.switches.any (y.switchWants s b r) ||
  (y.dbg.state = 1 && y.dbg.op = 5 && s.rangeIn b y.dbg.space.toNat r (y.dbg.sel.toNat / 64 * 64) 64)

/-- A launch has an access to make in a region: to its constant bank once it may be placed, to its pool while it holds a course, to its record
once it is refused or complete (R308). -/
def Launch.wants (s : State) (r : Nat) (l : Launch) : Bool :=
  let at_ (a : Word) (n : Nat) : Bool := s.rangeIn (pairKey l.die) l.space r a.toNat n
  (l.st = .waiting && s.placeable l && at_ l.cmd.cbank 256) || (l.st ≠ .waiting && at_ l.cmd.pool l.cmd.poolBytes) ||
    ((l.refused.isSome || (l.started && l.live = 0)) && at_ l.cmd.compl 32)

/-- A device access reaches, or may reach, a region (R318; log 117). -/
def State.regionWanted (s : State) (r : Nat) : Bool :=
  s.asks.contains r || s.bricks.any (fun q => q.2.wants s q.1 r) || s.queues.any (Queue.wants s r) ||
  s.launches.any (Launch.wants s r) ||
  (s.mapq ++ s.withdrawals.filterMap (·.req)).any fun q => s.rangeIn (pairKey q.home) q.space r q.status.toNat 8

/-- OWNERSHIP_TRANSFER_TO_A: a device access reaches a region that P owns, and a transfer begins, or waits until the hold is over (R318). -/
def execOwnershipTransferToA (r : Nat) (s : State) : Host.Outcome State Fault Refusal :=
  .next (
    let q := s.regionAt r
    if !regionBase r ∨ q.owner ∨ q.moving ∨ !s.regionWanted r then s
    else if s.regionKept r then s.putRegion { q with back := true }
    else beginToA s q)

/-- TRANSFER_ANSWER: the host side is clean within 2 ms, and the region is the accelerator's (R318). -/
def execTransferAnswer (r : Nat) (s : State) : Host.Outcome State Fault Refusal :=
  .next (
    let q := s.regionAt r
    if !q.moving ∨ q.owner ∨ !s.hostUp ∨ q.began + transferCycles ≤ s.cycle then s
    else { (s.putRegion (q.give true s.cycle)) with mail := s.mail.filter (fun e => !(e.kind = 2 && e.opId = r)), asks := s.asks.filter (· ≠ r) })

/-! Transfers to the processor (R318). -/

/-- Numbers of the operations, retired accesses and fired matrix commands that are translated to a region and not performed (R271, R318). -/
def State.regionIds (s : State) (r : Nat) : List Nat :=
  let f (l : List Op) : List Nat := (l.filter fun o => o.accs.any fun a => (a.st = .pending || a.st = .host) && inRegion r a.pa).map (·.id)
  s.bricks.flatMap fun q =>
    f (q.2.strands.toList.flatMap (·.ops)) ++ f ((q.2.ready ++ q.2.away ++ q.2.kept).flatMap (·.ops)) ++
    (q.2.flights.filter fun g => (!g.arrived || g.posted) && g.pa.any (inRegion r)).map (·.id) ++
    (q.2.matq.filter fun m => m.fired && m.pins.any fun e => e.node.kind = .linear &&
      overlaps (e.node.pa + (e.va - e.node.va)) e.len r (2 ^ 21)).map (·.id)

/-- An access that was translated before the transfer began is not performed yet (R318). -/
def State.regionBusy (s : State) (q : Region) : Bool := (s.regionIds q.base).any q.early.contains

/-- The RRBs without lines of a region; a line whose mapping is gone goes too (R112, R318). -/
def dropRegionLines (s : State) (r : Nat) : State :=
  { s with bricks := s.bricks.map fun q => (q.1, { q.2 with
      rrbCuts := q.2.rrbCuts ++ [none]
      rrb := q.2.rrb.filter fun l =>
        match (do let n ← s.walk l.space l.va; n.paOf l.va : Except Code Nat) with
        | .ok pa => !inRegion r pa
        | .error _ => false }) }

/-- A region becomes the processor's once every access to it that was translated before is performed (R318). -/
def endToP (s : State) (q : Region) : State :=
  if s.regionBusy q then s else dropRegionLines (s.putRegion (q.give false s.cycle)) q.base

/-- A transfer to P begins: from now on every other access to the region waits (R318). -/
def beginToP (s : State) (q : Region) : State :=
  let q := { q with moving := true, back := false, began := s.cycle, early := s.regionIds q.base }
  endToP (s.putRegion q) q

/-- OWNERSHIP_TRANSFER_TO_P: a host access reaches a region that A owns; while its transfer is under way, the access waits for the accesses
that came before (R318). -/
def execOwnershipTransferToP (r : Nat) (s : State) : Host.Outcome State Fault Refusal :=
  .next (
    let q := s.regionAt r
    if !regionBase r ∨ !q.owner ∨ !s.hostUp then s
    else if q.moving then endToP s q
    else if s.regionKept r then s.putRegion { q with back := true }
    else beginToP s q)

/-- REGION_HOLD_EXPIRY: the hold is over, and a transfer back that was asked for goes on (R318). -/
def execRegionHoldExpiry (r : Nat) (s : State) : Host.Outcome State Fault Refusal :=
  .next (
    let q := s.regionAt r
    if !q.back ∨ q.moving ∨ s.regionKept r then s
    else if q.owner then beginToP s q
    else beginToA s q)

/-- BAR2_ACCESS: a host access of an aligned double at byte a of the 64 GiB window of BAR2, performed once P owns the region; refused on a
die of a world, and for the HBM that a die's runtime reserves (R254, R316, R318, R329; log 19). -/
def execBar2Access (a : Nat) (write : Bool) (v : Word) (s : State) : Host.Outcome State Fault Refusal :=
  .next (
    let at_ := s.bar2 + a
    let pa := 2 ^ 48 + at_
    let q := s.regionAt (pa / 2 ^ 21 * 2 ^ 21)
    if !s.hostUp ∨ a % 8 ≠ 0 ∨ 2 ^ 36 ≤ a then s
    else if Config.hbmBytes ≤ at_ ∨ s.worldOf (hbmDie at_) ≠ 0 ∨ Config.hbmOpen ≤ at_ % Config.dieHbm then { s with replies := s.replies ++ [.unsupported a] }
    else if q.owner ∨ q.moving then s
    else if write then (noteWrite s 65535 0 pa 8).writeNum pa 8 v.toNat
    else { s with replies := s.replies ++ [.bar2 a (BitVec.ofNat 64 (s.num pa 8))] })

/-! Atomics toward the host (R121, R319). -/

/-- The region of a host atomic records that the host does not support them, with one report (R319). -/
def noAtomics (s : State) (b k space : Nat) (pc ea : Word) (pa : Nat) : State :=
  let q := s.regionAt (pa / 2 ^ 21 * 2 ^ 21)
  if paClass pa ≠ 3 ∨ 2 ^ 52 ≤ pa ∨ q.noatom ∨ !s.homeReady pa then s
  else (s.putRegion { q with noatom := true }).report b k space .hostAtomicUnsupported .atomic pc ea 0

/-- NOATOM is set for a region whose parked atomic the host does not support, with the report (R319, R323). -/
def noAtomicsAt (s : State) (space pa : Nat) : State :=
  let q := s.regionAt (pa / 2 ^ 21 * 2 ^ 21)
  if q.noatom then s
  else (s.putRegion { q with noatom := true }).report (pairKey 0) 0 space .hostAtomicUnsupported .atomic 0 (BitVec.ofNat 64 pa) 0

/-- A host atomic that a port sends as an AtomicOp (R121, R316). -/
def Amo.native (a : Amo) : Bool := a.op = .add || a.op = .xchg || a.op = .cas

/-- A retired atomic that a port sends as an AtomicOp. -/
def FAct.native : FAct → Bool
  | .amo a => a.native
  | _ => false

/-- The addition that a unit makes next, number op: SIGNAL's of a queue, DONE's of a launch, or COMPL's of a copy of brick b: the unit that
makes it, its space and its address (R171, R308, R309). -/
def State.unitAdd (s : State) (b op : Nat) : Option (Nat × Nat × Word) :=
  match s.queue? op with
  | some x =>
    match x.cmd.orElse fun _ => (s.hwBytes x.die x.space (x.ring + 64 * (x.head.toNat % 2 ^ x.log2n)) 64).bind (·.toOption) with
    | some l => if isSignal 1 l ∧ x.slot.isSome ∧ (x.cmd.isSome ∨ x.tail ≠ x.head) then some (pairKey x.die, x.space, doubleAt l 8) else none
    | none => none
  | none => match s.launch? op with
    | some l => some (pairKey l.die, l.space, l.cmd.compl)
    | none => ((s.brick b).chans.toList.findSome? fun c => c.job.bind fun j => if j.id = op then j.tmpl.map fun t => (j.space, t.compl) else none).map
        fun q => (b, q.1, q.2)

/-- HOST_ATOMIC_UNSUPPORTED: the host answers a native atomic, of operation, flight or unit op, or from 2^40 on of the park buffer's place
op − 2^40, with Unsupported Request (R319); it then takes the fallback when it is performed (R121; log 78). -/
def execHostAtomicUnsupported (b op : Nat) (s : State) : Host.Outcome State Fault Refusal :=
  .next (match (s.brick b).findOp op with
  | some (k, o) =>
    match o.accs.find? (fun a => a.amo.any Amo.native && a.st = .pending) with
    | some a => noAtomics s b k o.space o.pc a.ea a.pa
    | none => s
  | none =>
    match (s.brick b).flights.find? (fun f => f.id = op && !f.arrived && f.act.native) with
    | some f => match s.flightPa b f with
      | some pa => noAtomics s b f.strand f.space f.pc f.ea pa
      | none => s
    | none =>
      match s.unitAdd b op with
      | some (u, space, a) => match s.paAt u space a.toNat with
        | some pa => noAtomics s u 0 space 0 a pa
        | none => s
      | none => match s.park[op - 2 ^ 40]? with
        | some p => if 2 ^ 40 ≤ op ∧ p.act.native then noAtomicsAt s p.space p.addr else s
        | none => s)

/-- The operation with a number of the fallback (R319). -/
def amoOpOf (n : Nat) : AmoOp :=
  match n with
  | 0 => .add
  | 1 => .xchg
  | 2 => .cas
  | 3 => .min
  | 4 => .max
  | 5 => .and
  | 6 => .or
  | _ => .xor

/-- The atomic of an entry completes with the old value that the driver gives (R120, R319); nobody waits for one of a distributor or channel. -/
def answerEntry (s : State) (e : MailEntry) (v : Nat) : State :=
  if e.brick = 65536 then s
  else if e.acc = 4096 then
    match (s.brick e.brick).flights.find? (fun f => f.id = e.opId) with
    | some f => scatterDone (modFlight s e.brick f.id fun f => { f with posted := false, arrived := true }) e.brick f.op
    | none => s
  else
    let t := s.modBrick e.brick fun x => x.modOp e.opId fun o => putAcc o e.acc (leBytes e.width v)
    match (t.brick e.brick).findOp e.opId with
    | some (k, _) => finishOp t e.brick k e.opId
    | none => t

/-- The entry of the next fallback atomic of a region, if one waits, is written, with MSI-X vector 0 (R319). -/
def nextEntry (s : State) (addr : Nat) : State :=
  match s.mail.find? fun e => e.kind = 1 && e.addr / 2 ^ 21 = addr / 2 ^ 21 with
  | some e => s.msix e.space 0
  | none => s

/-- FALLBACK_ANSWER: the driver has performed the first fallback atomic of its region and returns the old value and the TAG (R319). -/
def execFallbackAnswer (tag : Nat) (v : Word) (s : State) : Host.Outcome State Fault Refusal :=
  .next (match s.mail.find? (fun e => e.kind = 1 && e.tag = tag) with
  | none => s
  | some e =>
    let first := s.mail.find? fun q => q.kind = 1 && q.addr / 2 ^ 21 = e.addr / 2 ^ 21
    if !s.hostUp ∨ first ≠ some e then s
    else
      let pa := 3 * 2 ^ 48 + e.addr
      let old := v.toNat % 2 ^ (8 * e.width)
      let a : Amo := ⟨amoOpOf e.op, e.width, e.v, e.e⟩
      answerEntry ((noteWrite (nextEntry { s with mail := s.mail.erase e } e.addr) e.brick 0 pa e.width).writeNum pa e.width (a.apply old)) e old)

/-! Posted writes (R245). -/

/-- FLUSH_READ: 64 cycles after the last one, a port that holds unacknowledged posted writes issues a zero-length read, whether others are
under way or not (R245). -/
def execFlushRead (p : Nat) (s : State) : Host.Outcome State Fault Refusal :=
  .next (
    let q := s.port p
    if q.posted = [] ∨ (q.lastFlush ≠ 0 ∧ s.cycle < q.lastFlush + 64) ∨ !q.up then s
    else { s with ports := putKey p { q with flushing := q.flushing ++ [q.posted.length], lastFlush := s.cycle } s.ports })

/-- FLUSH_READ_COMPLETE: the writes posted before a port's oldest read are visible, and may be acknowledged (R245). -/
def execFlushReadComplete (p : Nat) (s : State) : Host.Outcome State Fault Refusal :=
  .next (
    let q := s.port p
    match q.flushing with
    | [] => s
    | n :: l =>
      if !q.up ∨ !s.hostUp then s
      else (q.posted.take n).foldl (fun s f => modFlight s f.1 f.2 fun f => { f with posted := false })
        { s with ports := putKey p { q with posted := q.posted.drop n, flushing := l.map (· - n) } s.ports })

/-! Service pairs (R320 to R322). -/

/-- HEARTBEAT_WRITE: the side of csrw that publishes a heartbeat of die d's pair (R321, R322). -/
def execHeartbeatWrite (d : Nat) (v : Word) (s : State) : Host.Outcome State Fault Refusal := .next (publishBeat s d v)

/-- HEARTBEAT_TIMEOUT: three milliseconds without a heartbeat, and another pair leads (R322). -/
def execHeartbeatTimeout (s : State) : Host.Outcome State Fault Refusal :=
  .next (match s.successor with
  | none => s
  | some d =>
    if !s.takeover then s
    else { s with lastBeat := s.cycle, pairs := s.pairs.mapFinIdx fun i p _ => { p with leader := i = d } })

/-- PAIR_MISMATCH: the cores of a healthy pair differ, and it halts (R320). -/
def execPairMismatch (d : Nat) (s : State) : Host.Outcome State Fault Refusal :=
  .next (if ((s.pairs.toList)[d]?.map (·.healthy)).getD false then haltPair s d else s)

/-! Host loss and return (R323, R324). -/

/-- LIVENESS_WRITE: the driver writes its liveness word (R323). -/
def execLivenessWrite (_v : Word) (s : State) : Host.Outcome State Fault Refusal := .next { s with liveness := s.cycle }

/-- HOST_LOSS: both PCI Express links are down, or the liveness word is 500 ms old (R323). -/
def execHostLoss (s : State) : Host.Outcome State Fault Refusal :=
  .next (if (!s.portUp 0 && !s.portUp 1) || decide (s.liveness + 500 * Config.msCycles ≤ s.cycle) then { s with hostUp := false } else s)

/-- One parked write or atomic reaches the host's memory; an atomic takes the fallback where its region has none (R319, R323). -/
def sendAct (s : State) (p : Parked) : State :=
  let plain : State := ((performAct (noteWrite s 65535 0 p.addr p.act.size) p.addr p.act).toOption).getD s
  match p.act with
  | .amo a => if needsFallback s a p.addr then pushFallback s p.space 65536 0 0 a p.addr else plain
  | _ => plain

/-- Parked traffic that is let go is performed, in order (R323, R336): MSI-X messages go out, writes reach the host's memory. -/
def sendParked (s : State) (go : Parked → Bool) : State :=
  (s.park.filter go).foldl (fun s p =>
    match p.vector with
    | some v => { s with replies := s.replies ++ [.msix v] }
    | none => sendAct s p) { s with park := s.park.filter fun p => !go p }

/-- A world is in its grace period (R336). -/
def State.inGrace (s : State) (w : Nat) : Bool := s.worlds.any fun x => x.id = w && x.grace.isSome

/-- RESYNC: the host is attached again, and the traffic parked for its loss is sent (R324). -/
def execResync (s : State) : Host.Outcome State Fault Refusal :=
  .next (if s.hostUp ∨ (!s.portUp 0 ∧ !s.portUp 1) then s
  else sendParked { s with hostUp := true, liveness := s.cycle } fun p => !s.inGrace p.world)

/-- A Bool as a number. -/
def bnum (p : Bool) : Nat := if p then 1 else 0

/-- The space of each fault message that is not answered yet: a task, a save, an access, an accumulator image or a remote command waits for
its reply (R324). -/
def State.unanswered (s : State) : List Nat :=
  let tok (r : Option BlockOn) : Bool := match r with
    | some (.fault _ _ _) => true
    | _ => false
  let ops (l : List Op) : List Nat := l.flatMap fun o => o.accs.filterMap fun a => match a.st with
    | .faulted _ _ => some o.space
    | _ => none
  (s.bricks.flatMap fun q =>
    (q.2.strands.toList.flatMap fun x => (if tok x.block then [x.space] else []) ++ (if x.saveTok.isSome then [x.space] else []) ++ ops x.ops) ++
    ((q.2.away ++ q.2.ready ++ q.2.kept).flatMap fun c => (if tok c.block then [c.space] else []) ++ ops c.ops) ++
    (match q.2.ownPending with
      | some w => (w.tok.map fun t => if ownStep2 t.2.1 then (w.old.map (·.2.1)).getD w.space else w.space).toList
      | none => [])) ++
  s.rcmds.filterMap fun c => if c.tok.isSome then some ((((s.brick c.dst).slotFor c.key c.nonce).map fun q => q.2.ctx % 2 ^ 20).getD c.key) else none

/-- A die's share as it stands: cut by one step of an eighth, not below the floor, for a millisecond after a droop (R341; log 32). -/
def Die.current (q : Die) (cycle : Nat) : Nat :=
  if q.droopUntil.any fun t => decide (cycle < t) then max 200 (q.share - q.share / 8) else q.share

/-- Links that QUERY_STATE lists: ports 0 and 1, D0 to D15, and the ten boundaries between neighbouring dies (R324; log 107). -/
def links : List Nat := [0, 1] ++ (List.range 16).map (· + 16) ++ (List.range 10).map (· + 32)

/-- Byte k of a die's part of the harvest map (R339): bit row × 56 + column is 1 when that brick is enabled; off: the bricks that are not. -/
def harvestByte (off : List Nat) (d k : Nat) : Nat :=
  ((List.range 8).map fun j =>
    let n := 8 * k + j
    if off.contains (d * 4096 + n / 56 * 64 + n % 56) then 0 else 2 ^ j).sum

/-- The harvest map of a die: 392 bytes (R339); it changes at a reset alone, as the bricks' bypass does. -/
def State.harvest (s : State) (d : Nat) : List Nat :=
  let off := (s.bricks.filter fun q => q.2.disabled).map (·.1)
  (List.range 392).map (harvestByte off d)

/-- The sections of QUERY_STATE (R324): worlds, queues, slots, launches, faults, links, power, harvest and park. -/
def State.summary (s : State) : List (List Nat) :=
  (s.dies.toList.zipIdx.map fun d =>
    let w := s.worlds.find? fun w => w.id = d.1.world
    [0, d.2, d.1.world, bnum (w.any (·.session)), ((w.bind (·.grace)).map fun g => g - s.cycle).getD 0] ++ d.1.refusals.toList) ++
  (s.queues.map fun q => [1, q.id, q.space, q.head.toNat, q.tail.toNat, q.err, q.effective, (q.slot.map (· + 1)).getD 0]) ++
  ((List.range 512).map fun i => match s.queues.find? fun q => q.slot = some i with
    | some q => [2, i, q.id + 1, q.mapped]
    | none => [2, i, 0, 0]) ++
  ((s.launches.filter fun l => l.st ≠ .waiting).map fun l => [3, l.id, bnum (l.st = .running), l.org, l.cmd.shape, l.cmd.colour]) ++
  (s.spaces.map fun p => [4, p.id, (s.unanswered.filter (· = p.id)).length]) ++
  (links.map fun p => [5, p, bnum (s.portUp p)]) ++
  (s.dies.toList.zipIdx.map fun d => [6, d.2, d.1.current s.cycle, d.1.temp.toList.foldl max 0]) ++
  ((List.range 8).map fun d => [7, d] ++ s.harvest d) ++
  [[8, (s.park.map fun p => p.act.size).sum, ((s.park.head?).map (·.time)).getD 0]]

/-- QUERY_STATE (R324). -/
def execQueryState (s : State) : Host.Outcome State Fault Refusal := .next { s with replies := s.replies ++ [.query s.summary] }

/-! Ports (R316). -/

/-- LINK_DOWN: a link that was up is down; with both host links down the host is lost (R323, R340). -/
def execLinkDown (p : Nat) (s : State) : Host.Outcome State Fault Refusal :=
  .next (
    if !s.portUp p then s
    else
      let t := { s with ports := putKey p { s.port p with up := false } s.ports }.logHealth 3 255 p 0
      { t with hostUp := t.hostUp && (t.portUp 0 || t.portUp 1) })
/-- LINK_UP: a link that was down is up again (R316, R340). -/
def execLinkUp (p : Nat) (s : State) : Host.Outcome State Fault Refusal :=
  .next (if s.portUp p then s else { s with ports := putKey p { s.port p with up := true } s.ports }.logHealth 4 255 p 0)

/-! Far memory (R325, R326, R349). -/

/-- VA of a root node over a physical address (log 19). -/
def rootVa (pa : Nat) : Nat := 2 ^ 56 + pa

/-- EXTENT_ADD: the pool adds an extent, through port 1 in CXL mode, and it is a root node of class 2; one that is gone may come again, once
its closed node is removed (R316, R325, R326). -/
def execExtentAdd (base len : Nat) (shared : Bool) (s : State) : Host.Outcome State Fault Refusal :=
  .next (
    let pa := 2 * 2 ^ 48 + base
    if !s.cxlOn ∨ len = 0 ∨ base % 4096 ≠ 0 ∨ len % 4096 ≠ 0 ∨ 2 ^ 48 < base + len ∨ s.extents.any (fun e => !e.gone && overlaps e.base e.len pa len) ∨
        s.nodes.any (fun n => n.space = 0 && overlaps n.va n.len (rootVa pa) len) then s
    else
      let t := s.addNode ⟨0, 0, rootVa pa, len, pa, Attr.clear 7, none, .linear, false, [], 0, false, 1⟩
      { t with extents := t.extents.filter (fun e => !overlaps e.base e.len pa len) ++ [⟨pa, len, shared, s.nextId, false, []⟩] })

/-- Every node over an extent, whatever the space. -/
def State.nodesOver (s : State) (e : Extent) : List Nat :=
  (s.nodes.filter fun n => n.kind = .linear && overlaps n.pa n.len e.base e.len).map (·.id)

/-- The entries and RRB lines of a list of nodes go from every interface. -/
def dropNodes (s : State) (l : List Nat) : State :=
  let rs := s.rangesOf l
  { s with bricks := s.bricks.map fun q => (q.1,
      rs.foldl (fun (x : Brick) r => x.rrbDrop r.1 r.2.1 r.2.2) { q.2 with entries := q.2.entries.filter fun e => !l.contains e.node.id }) }

/-- Nodes stay as closed nodes: accesses that meet them find the extent gone (R326). -/
def closeNodes (s : State) (l : List Nat) : State :=
  { (dropNodes s l) with nodes := s.nodes.map fun n => if l.contains n.id then { n with kind := .closed } else n }

/-- EXTENT_RELEASE: derived nodes are withdrawn first; then dirty lines are written back, the node is closed and the pool is
answered (R326). n is the extent's base address. -/
def execExtentRelease (n : Nat) (s : State) : Host.Outcome State Fault Refusal :=
  .next (match s.extents.find? (fun e => e.base = n && !e.gone) with
  | none => s
  | some e =>
    let over_ := s.nodesOver e
    let roots := (s.nodes.filter fun m => over_.contains m.id && m.space = 0 && m.parent.isNone).map (·.id)
    let below := (s.nodes.filter fun m => over_.contains m.id && !roots.contains m.id)
    if below ≠ [] then
      let live := (below.filter fun m => !m.withdrawing).map (·.id)
      if live = [] then s else withdraw s live live none
    else
      let t := closeNodes s roots
      { t with
        extents := t.extents.map fun x => if x.base = n then { x with gone := true, dirty := [] } else x
        replies := t.replies ++ [.poolReleased e.base] })

/-- EXTENT_FORCED_REMOVAL: requests in flight return poison, dirty lines are discarded with a report for each, and every node over
the extent is closed (R326). -/
def execExtentForcedRemoval (n : Nat) (s : State) : Host.Outcome State Fault Refusal :=
  .next (match s.extents.find? (fun e => e.base = n && !e.gone) with
  | none => s
  | some e =>
    let inside (pa : Nat) : Bool := decide (e.base ≤ pa) && decide (pa < e.base + e.len)
    let poison (b : Nat) (k : Fin 5) (l : List Op) (s : State) : State := l.foldl (fun s o =>
      o.accs.zipIdx.foldl (fun s q => if q.1.st = .pending ∧ inside q.1.pa then faultAcc s b k o q.2 .poison (o.access q.1) else s) s) s
    let s := (s.bricks.map (·.1)).foldl (fun s b =>
      let s := (List.finRange 5).foldl (fun s k => poison b k (s.strand b k).ops s) s
      ((s.brick b).away ++ (s.brick b).ready ++ (s.brick b).kept).foldl (fun s c => poison b (Fin.ofNat 5 (c.strand.getD 0)) c.ops s) s) s
    let s := e.dirty.foldl (fun s q => s.report (pairKey 0) 0 q.2 .poison .store 0 (BitVec.ofNat 64 (rootVa q.1)) 0) s
    let t := closeNodes s (s.nodesOver e)
    { t with extents := t.extents.map fun x => if x.base = n then { x with gone := true, dirty := [] } else x })

/-- FAR_LINE_POISON: the pool poisons a line of an extent (R325, R349). -/
def execFarLinePoison (a : Nat) (s : State) : Host.Outcome State Fault Refusal :=
  .next (if a % 64 = 0 ∧ (s.extents.any fun e => decide (e.base ≤ a) && decide (a < e.base + e.len)) ∧ a ∉ s.poison then
    { s with poison := s.poison ++ [a] } else s)

/-- FAR_LINE_REPAIR: the pool repairs a poisoned line (R349). -/
def execFarLineRepair (a : Nat) (s : State) : Host.Outcome State Fault Refusal :=
  .next (if paClass a = 2 ∧ a < 2 ^ 52 then { s with poison := s.poison.filter (· ≠ a) } else s)

/-- UNCORRECTABLE_SOFT_ERROR: a unit of brick SRAM, of HBM or of an exclusive far extent is poisoned (R349). -/
def execUncorrectableSoftError (a : Nat) (s : State) : Host.Outcome State Fault Refusal :=
  .next (
    let u := poisonBase a
    let there : Bool := decide (2 ^ 52 ≤ a) || (paClass a = 0 && decide (paOff a < Config.sramBytes)) ||
      (paClass a = 1 && decide (bits a 47 0 < Config.hbmBytes)) ||
      s.extents.any fun e => decide (e.base ≤ a) && decide (a < e.base + e.len) && !e.shared
    if there && !s.poison.contains u then { s with poison := s.poison ++ [u] } else s)

end Sys2Proof.Machine
end

