-- ==== Sys2Proof/Machine/Load.lean ====
section
/-! DEFINITION. FLO containers and their loading (R227 to R229, R231, R327, R335). -/

namespace Sys2Proof.Machine

/-! SHA-384 (R227, R228): PRESUMED, the algorithm of FIPS 180-4, which the rules name and do not write out (log 12). -/

/-- The round constants of SHA-384. -/
def shaK : List Word :=
  [0x428A2F98D728AE22, 0x7137449123EF65CD, 0xB5C0FBCFEC4D3B2F, 0xE9B5DBA58189DBBC,
    0x3956C25BF348B538, 0x59F111F1B605D019, 0x923F82A4AF194F9B, 0xAB1C5ED5DA6D8118,
    0xD807AA98A3030242, 0x12835B0145706FBE, 0x243185BE4EE4B28C, 0x550C7DC3D5FFB4E2,
    0x72BE5D74F27B896F, 0x80DEB1FE3B1696B1, 0x9BDC06A725C71235, 0xC19BF174CF692694,
    0xE49B69C19EF14AD2, 0xEFBE4786384F25E3, 0x0FC19DC68B8CD5B5, 0x240CA1CC77AC9C65] ++
  [0x2DE92C6F592B0275, 0x4A7484AA6EA6E483, 0x5CB0A9DCBD41FBD4, 0x76F988DA831153B5,
    0x983E5152EE66DFAB, 0xA831C66D2DB43210, 0xB00327C898FB213F, 0xBF597FC7BEEF0EE4,
    0xC6E00BF33DA88FC2, 0xD5A79147930AA725, 0x06CA6351E003826F, 0x142929670A0E6E70,
    0x27B70A8546D22FFC, 0x2E1B21385C26C926, 0x4D2C6DFC5AC42AED, 0x53380D139D95B3DF,
    0x650A73548BAF63DE, 0x766A0ABB3C77B2A8, 0x81C2C92E47EDAEE6, 0x92722C851482353B] ++
  [0xA2BFE8A14CF10364, 0xA81A664BBC423001, 0xC24B8B70D0F89791, 0xC76C51A30654BE30,
    0xD192E819D6EF5218, 0xD69906245565A910, 0xF40E35855771202A, 0x106AA07032BBD1B8,
    0x19A4C116B8D2D0C8, 0x1E376C085141AB53, 0x2748774CDF8EEB99, 0x34B0BCB5E19B48A8,
    0x391C0CB3C5C95A63, 0x4ED8AA4AE3418ACB, 0x5B9CCA4F7763E373, 0x682E6FF3D6B2B8A3,
    0x748F82EE5DEFB2FC, 0x78A5636F43172F60, 0x84C87814A1F0AB72, 0x8CC702081A6439EC] ++
  [0x90BEFFFA23631E28, 0xA4506CEBDE82BDE9, 0xBEF9A3F7B2C67915, 0xC67178F2E372532B,
    0xCA273ECEEA26619C, 0xD186B8C721C0C207, 0xEADA7DD6CDE0EB1E, 0xF57D4F7FEE6ED178,
    0x06F067AA72176FBA, 0x0A637DC5A2C898A6, 0x113F9804BEF90DAE, 0x1B710B35131C471B,
    0x28DB77F523047D84, 0x32CAAB7B40C72493, 0x3C9EBE0A15C9BEBC, 0x431D67C49C100D4C,
    0x4CC5D4BECB3E42B6, 0x597F299CFC657E2A, 0x5FCB6FAB3AD6FAEC, 0x6C44198C4A475817]

/-- The state that SHA-384 begins with. -/
def shaInit : Vector Word 8 := #v[0xCBBB9D5DC1059ED8, 0x629A292A367CD507, 0x9159015A3070DD17, 0x152FECD8F70E5939,
    0x67332667FFC00B31, 0x8EB44A8768581511, 0xDB0C2E0D64F98FA7, 0x47B5481DBEFA4FA4]

/-- A big-endian number. -/
def beNat (l : List Byte) : Nat := l.foldl (fun n v => n * 256 + v.toNat) 0
/-- n bytes of a number, the highest first. -/
def beBytes (n v : Nat) : List Byte := (leBytes n v).reverse

/-- A message padded to blocks of 128 bytes. -/
def shaPad (l : List Byte) : List Byte :=
  l ++ [0x80] ++ List.replicate ((239 - l.length % 128) % 128) 0 ++ beBytes 16 (8 * l.length)

/-- The message schedule after n more words, the last first. -/
def shaWords : Nat → List Word → List Word
  | 0, r => r
  | n + 1, r =>
    let a := r.getD 1 0
    let b := r.getD 14 0
    shaWords n (((a.rotateRight 19 ^^^ a.rotateRight 61 ^^^ a >>> 6) + r.getD 6 0 +
      (b.rotateRight 1 ^^^ b.rotateRight 8 ^^^ b >>> 7) + r.getD 15 0) :: r)

/-- One round. -/
def shaRound (h : Vector Word 8) (q : Word × Word) : Vector Word 8 :=
  let a := h[0]; let b := h[1]; let c := h[2]; let e := h[4]; let f := h[5]; let g := h[6]
  let t := h[7] + (e.rotateRight 14 ^^^ e.rotateRight 18 ^^^ e.rotateRight 41) + (e &&& f ^^^ ~~~e &&& g) + q.1 + q.2
  #v[t + (a.rotateRight 28 ^^^ a.rotateRight 34 ^^^ a.rotateRight 39) + (a &&& b ^^^ a &&& c ^^^ b &&& c), a, b, c, h[3] + t, e, f, g]

/-- The state after n blocks. -/
def shaBlocks : Nat → Vector Word 8 → List Byte → Vector Word 8
  | 0, h, _ => h
  | n + 1, h, l =>
    let w := (List.range 16).map fun i => BitVec.ofNat 64 (beNat ((l.drop (8 * i)).take 8))
    let r := (shaK.zip (shaWords 64 w.reverse).reverse).foldl shaRound h
    shaBlocks n (h.zipWith (· + ·) r) (l.drop 128)

/-- The 48 bytes of SHA-384. -/
def sha384 (l : List Byte) : List Byte :=
  let m := shaPad l
  ((shaBlocks (m.length / 128) shaInit m).toList.take 6).flatMap fun w => beBytes 8 w.toNat

/-- An entry of the segment table (R227), beside its 96 bytes. -/
structure Seg where
  kind : Nat
  rights : BitVec 3
  fmt : Nat
  geom : BitVec 2
  align : Nat
  data : List Byte
  mem : Nat
  link : Nat
  ok : Bool
deriving DecidableEq, Repr

/-- The element format with a number (R48). -/
def memFmt (n : Nat) : Fmt :=
  match n with
  | 1 => .fp32
  | 2 => .fp16
  | 3 => .bf16
  | 4 => .e4m3
  | 5 => .e5m2
  | 6 => .int8
  | 7 => .b4
  | _ => .raw

/-- An entry of a container of n segments that R227 does not have: a reserved byte, an unknown TYPE, or a SYMSEG past the table. -/
def relocBad (n : Nat) (e : List Byte) : Bool := numAt e 10 2 ≠ 0 || numAt e 8 1 = 0 || decide (3 < numAt e 8 1) || decide (n ≤ numAt e 9 1)

/-- Segment-table entry i of container c; ok: its fields are as R227 has them, geometry included (R49), and its digest recomputes. -/
def segOf (c : List Byte) (tab i : Nat) : Seg :=
  let e := (c.drop (tab + 96 * i)).take 96
  let off := numAt e 8 8
  let size := numAt e 16 8
  let mem := numAt e 24 8
  let data := (c.drop off).take size
  let kind := numAt e 0 1
  { kind := kind, rights := BitVec.ofNat 3 (numAt e 1 1), fmt := bits (numAt e 2 1) 3 0, geom := BitVec.ofNat 2 (bits (numAt e 2 1) 5 4)
    align := numAt e 4 4, data := data, mem := mem, link := numAt e 32 8
    ok := e.length = 96 && data.length = size && kind ≠ 0 && decide (kind ≤ 8) && decide (numAt e 1 1 < 8) && decide (numAt e 2 1 < 64) &&
      decide (bits (numAt e 2 1) 3 0 < 8) && bits (numAt e 2 1) 5 4 ≠ 3 && (bits (numAt e 2 1) 5 4 = 0 || bits (numAt e 2 1) 3 0 = 7) && numAt e 3 1 = 0 && decide (2 ≤ numAt e 4 4) && decide (numAt e 4 4 ≤ 30) &&
      decide (size ≤ mem) && (kind ≠ 4 || size = 0) && (kind ≠ 7 || (size = 256 && mem = 256)) && (kind = 6 || numAt e 32 8 = 0) && numAt e 40 8 = 0 &&
      sha384 data = e.drop 48 }

/-- Entries of 16 bytes. -/
def chunks16 : Nat → List Byte → List (List Byte)
  | 0, _ => []
  | n + 1, l => if l.isEmpty then [] else l.take 16 :: chunks16 n (l.drop 16)

/-- The container's segments, if its header is right and every digest recomputes (R227 to R229). -/
def segsOf (c : List Byte) : Option (List Seg) :=
  let n := numAt c 6 2
  let tab := numAt c 16 8
  let segs := (List.range n).map (segOf c tab)
  if decide (128 ≤ c.length) && numAt c 0 4 = 0x314F4C46 && numAt c 4 2 = 1 && decide (1 ≤ n) && decide (n ≤ 64) &&
      ((c.drop 80).take 48).all (· = 0) && segs.all (·.ok) && sha384 (c.take 32 ++ (c.drop tab).take (96 * n)) = (c.drop 32).take 48 &&
      decide ((segs.filter fun g => g.kind = 7).length ≤ 1) && decide ((segs.filter fun g => g.kind = 5).length ≤ 1) &&
      segs.all (fun g => g.kind ≠ 6 || (decide (g.link < n) && g.data.length % 16 = 0 && !(chunks16 (g.data.length / 16) g.data).any (relocBad n))) then some segs else none

/-- The message that both algorithms sign: CYLIA-FLO1 and MEASURE (R228). -/
def signedMessage (c : List Byte) : List Byte := [0x43, 0x59, 0x4C, 0x49, 0x41, 0x2D, 0x46, 0x4C, 0x4F, 0x31] ++ (c.drop 32).take 48

/-- The signature record at an offset: algorithm, key digest and signature (R228). -/
def sigRecord (c : List Byte) (off : Nat) : Nat × BitVec 384 × List Byte :=
  let n := numAt c (off + 2) 2
  (numAt c off 2, BitVec.ofNat 384 (leNat ((c.drop (off + 4)).take 48)), (c.drop (off + 52)).take n)

/-- Both signatures verify under keys of a trust list (R228, R229). DESIGN CHOICE: the two records may stand in either order, of which the
rules say nothing (log 12). -/
def signedBy (c : List Byte) (trust : List (BitVec 384)) : Bool :=
  let tab := numAt c 24 8
  let a := sigRecord c tab
  let b := sigRecord c (tab + 52 + a.2.2.length)
  let ok (r : Nat × BitVec 384 × List Byte) : Bool :=
    r.2.2.length = (if r.1 = 1 then 64 else 3309) && trust.contains r.2.1 && Config.sigOk r.1 r.2.1 (signedMessage c) r.2.2
  tab ≠ 0 && ((a.1 = 1 && b.1 = 2) || (a.1 = 2 && b.1 = 1)) && ok a && ok b

/-- A segment that is mapped: code, data of any kind, and the constant bank's image (log 27). -/
def Seg.mapped (g : Seg) : Bool := g.kind = 1 || g.kind = 2 || g.kind = 3 || g.kind = 4 || g.kind = 7

/-- Bytes of a segment's pages. -/
def Seg.room (g : Seg) : Nat := (g.mem + 4095) / 4096 * 4096

/-- Offsets of the segments from the base: in table order, each at its alignment and at a page (log 27). -/
def placeSegs : Nat → Nat → List Seg → List Nat
  | _, _, [] => []
  | va, o, g :: t =>
    if g.mapped then
      let m := 2 ^ max g.align 12
      let p := (va + o + m - 1) / m * m - va
      p :: placeSegs va (p + g.room) t
    else o :: placeSegs va o t

/-- Bytes of a segment of mem bytes replaced from an offset on; beyond those that its list holds it is zero (R227); none if they do not
fit. -/
def patch (mem : Nat) (l : List Byte) (off : Nat) (p : List Byte) : Option (List Byte) :=
  if off + p.length ≤ mem then some ((l ++ List.replicate (off - l.length) 0).take off ++ p ++ l.drop (off + p.length)) else none

/-- One relocation of a segment of mem bytes at VA base: the patched bytes, none if it is out of reach (R88, R227). DESIGN CHOICE: a BR26
target whose distance is no multiple of 4 is out of reach too (log 27). -/
def relocate (mem : Nat) (l : List Byte) (base : Nat) (e : List Byte) (vaOf : Nat → Nat) : Option (List Byte) :=
  let at_ := numAt e 0 8
  let v := (vaOf (numAt e 9 1) + numAt e 12 4) % 2 ^ 64
  match numAt e 8 1 with
  | 1 => patch mem l at_ (leBytes 8 v)
  | 2 =>
    let w := v + (if 2 ^ 63 ≤ v then 3 * 2 ^ 64 else 0)
    let put (l : List Byte) (o bits_ x : Nat) : Option (List Byte) :=
      let old := numAt l (at_ + o) 4
      patch mem l (at_ + o) (leBytes 4 (old / 2 ^ bits_ * 2 ^ bits_ + x))
    do
      let l ← put l 4 24 (bits w 65 42)
      let l ← put l 8 24 (bits w 41 18)
      put l 12 18 (bits w 17 0)
  | 3 =>
    let d : Int := (Int.ofNat v - Int.ofNat (base + at_)) / 4
    if (Int.ofNat v - Int.ofNat (base + at_)) % 4 ≠ 0 ∨ d < -(2 ^ 25) ∨ 2 ^ 25 ≤ d then none
    else
      let old := numAt l at_ 4
      patch mem l at_ (leBytes 4 (old / 2 ^ 26 * 2 ^ 26 + (d % 2 ^ 26).toNat))
  | _ => none

/-- The bytes of the segment with a number, up to the last that is not of its zero rest, after the relocations that patch it; a .local image
stands at offset 0 of the local window (R208, R214, R227). DESIGN CHOICE: a SYMSEG that is not loaded (kind 6 or 8) counts as placed where the
next segment of the table would start (log 27). -/
def patched (segs : List Seg) (offs : List Nat) (va i : Nat) (g : Seg) : Option (List Byte) :=
  let vaOf (k : Nat) : Nat := if (segs[k]?.map (·.kind)).getD 0 = 5 then 0 else va + offs.getD k 0
  (segs.filter fun r => r.kind = 6 && r.link = i).foldl (fun o r =>
    (chunks16 (r.data.length / 16) r.data).foldl (fun o e => o.bind fun l => relocate g.mem l (vaOf i) e vaOf) o) (some g.data)

/-- The bytes of a physical range, replaced by l and zeros after it. -/
def State.fillRange (s : State) (pa n : Nat) (l : List Byte) : State :=
  let inside (a : Nat) : Bool := decide (pa ≤ a) && decide (a < pa + n)
  let s := { s with
    mem := s.mem.filter fun c => !inside c.1
    poison := s.poison.filter fun u => !inside u
    codeLog := s.codeLog.map fun (e : CodeStore) => if inside e.pa then { e with pa := 2 ^ 60 } else e }
  { s with mem := cellsSet s.mem pa l }

/-- The pages of one segment are mapped into a space below the root's node that covers them (R255, R327). -/
def mapSeg (s : State) (sp va pa : Nat) (root : Node) (g : Seg) (data : List Byte) : State :=
  (s.fillRange pa g.room data).addNode
    ⟨0, sp, va, g.room, pa, ⟨g.rights, memFmt g.fmt, g.geom, root.attr.prot, root.attr.keyslot⟩, some root.id, .linear, false, [], root.world, false,
      root.port⟩

/-- The root's node under which segments may be mapped at a physical address: not sealed, and with every right that they carry (R255, R264). -/
def State.rootFor (s : State) (segs : List Seg) (pa total : Nat) : Option Node :=
  s.nodes.find? fun n => n.space = 0 && n.kind = .linear && !n.withdrawing && decide (n.pa ≤ pa) && decide (pa + total ≤ n.pa + n.len) &&
    n.attr.prot ≠ 3 && segs.all fun g => !g.mapped || g.rights &&& n.attr.rights == g.rights

/-- What a load comes to: its status, and the state when it is 0 (R327); 9: the memory at pa is not free, or takes no such segment; 4 too for
a VA base at which nothing can be mapped: not at a page, or in a space in teardown (log 27). -/
def loadInto (s : State) (p : Space) (c : List Byte) (va pa : Nat) : Nat × State :=
  match segsOf c with
  | none => (1, s)
  | some segs =>
    if !signedBy c p.trust then (2, s)
    else
      let offs := placeSegs va 0 segs
      let items := segs.zip offs |>.zipIdx
      let datas := items.map fun q => if q.1.1.mapped ∨ q.1.1.kind = 5 then patched segs offs va q.2 q.1.1 else some []
      if datas.any (·.isNone) then (3, s)
      else
        let total := (items.map fun q => if q.1.1.mapped then q.1.2 + q.1.1.room else 0).foldl max 0
        if !s.stacksOf p.world (bits pa 47 0) total then (9, s)
        else if va % 4096 ≠ 0 ∨ p.teardown ∨ s.nodes.any (fun n => n.space = p.id && overlaps n.va n.len va total) ∨ 2 ^ 57 < va + total then (4, s)
        else
          match s.rootFor segs pa total with
          | none => (9, s)
          | some root =>
            if s.nodes.any fun n => n.space ≠ 0 && n.kind = .linear && overlaps n.pa n.len pa total then (9, s)
            else
            let t := (items.zip datas).foldl (fun s q =>
              if q.1.1.1.mapped then mapSeg s p.id (va + q.1.1.2) (pa + q.1.1.2) root q.1.1.1 (q.2.getD []) else s) s
            let image := (((segs.zip datas).find? fun q => q.1.kind = 5).bind (·.2)).getD []
            let codes := (items.filter fun q => q.1.1.mapped).map fun q => (va + q.1.2, q.1.1.room, image)
            (0, { t with spaces := t.spaces.map fun q => if q.id = p.id then { q with images := q.images ++ codes } else q })

/-- The ownership regions of a physical range that no device access reaches now (R317, R318). -/
def State.unready (s : State) (addr len : Nat) : List Nat :=
  ((List.range (len / 2 ^ 21 + 2)).map fun i => (addr / 2 ^ 21 + i) * 2 ^ 21).filter fun r => decide (r < addr + max len 1) && !s.homeReady r

/-- MEASURE of a container that is loaded goes into the record of its space's world, and its load steps the generation as a locked write
does (R229, R335); world 0 has a list of its own. -/
def recordMeasure (s : State) (world : Nat) (m : BitVec 384) : State :=
  if world = 0 then { s with measures := s.measures ++ [m] }
  else { s with worlds := s.worlds.map fun w =>
    if w.id = world then
      { w with measures := w.measures ++ [m], generation := if w.locked.testBit 1 then w.generation else w.generation + 1 }
    else w }

/-- The leader copies a container of len bytes at physical address addr, checks it, and maps it into a space at va, over free memory at
pa that it chooses (R327; log 27). A container in a region that the processor owns is asked for first (R318). -/
def execLoad (sp addr len va pa tok : Nat) (s : State) : Host.Outcome State Fault Refusal :=
  .next (match s.space? sp with
  | none => s
  | some p =>
    if pa % 4096 ≠ 0 ∨ paClass pa ≠ 1 ∨ 2 ^ 52 ≤ pa ∨ (paClass addr ≠ 1 ∧ paClass addr ≠ 3) ∨ 2 ^ 52 < addr + len ∨
        s.worldOf (hbmDie (bits pa 47 0)) ≠ p.world then s
    else if s.unready addr len ≠ [] then { s with asks := s.asks ++ (s.unready addr len).filter fun r => !s.asks.contains r }
    else
      let r := lockedRequest s p.world 1 tok [2, sp, addr, len, va]
      if !r.1 then r.2
      else
        let c := r.2.bytes addr len
        let q := loadInto r.2 p c va pa
        if q.1 = 9 then s
        else
        let t := { q.2 with replies := q.2.replies ++ [.load q.1] }
        if q.1 = 0 then recordMeasure t p.world (BitVec.ofNat 384 (leNat ((c.drop 32).take 48))) else t)

end Sys2Proof.Machine
end

