-- ==== Sys2Proof/Machine/World.lean ====
section
/-! DEFINITION. Worlds, sessions and keys (R328 to R338). -/

namespace Sys2Proof.Machine

/-! Worlds. -/

/-- The world with a number. -/
def State.world? (s : State) (w : Nat) : Option World := s.worlds.find? fun x => x.id = w
/-- The state with a world changed. -/
def State.modWorld (s : State) (w : Nat) (f : World → World) : State :=
  { s with worlds := s.worlds.map fun x => if x.id = w then f x else x }
/-- The state with a die changed. -/
def State.modDie (s : State) (d : Nat) (f : Die → Die) : State :=
  { s with dies := s.dies.mapFinIdx fun i x _ => if i = d then f x else x }
/-- Die d. -/
def State.die (s : State) (d : Nat) : Die := (s.dies.toList)[d]?.getD Die.fresh
/-- The dies of a world. -/
def State.diesOfWorld (s : State) (w : Nat) : List Nat := (List.range 8).filter fun d => s.worldOf d = w

/-- A launch holds a brick of a die (R328). -/
def State.dieHeld (s : State) (d : Nat) : Bool := s.launches.any fun l => l.st ≠ .waiting && l.bricks.any fun b => dieOf b = d

/-- A node reaches memory of a die: its bricks' SRAM or its stacks (R330). -/
def Node.onDie (n : Node) (d : Nat) : Bool :=
  match n.kind with
  | .linear => (paClass n.pa = 0 && paBrick n.pa / 4096 = d) ||
      (paClass n.pa = 1 && decide (hbmDie (bits n.pa 47 0) ≤ d) && decide (d ≤ hbmDie (bits n.pa 47 0 + (n.len - 1))))
  | .course org shape => (courseBricks org (shape % 256) (shape / 256)).any fun b => dieOf b = d
  | .aperture org shape => (courseBricks org (shape % 256) (shape / 256)).any fun b => dieOf b = d
  | _ => false

/-- A world that holds no keys and has no session yet (R328). -/
def World.fresh (w cycle : Nat) : World where
  id := w
  session := false
  lastSeen := cycle
  grace := none
  gracePeriod := 5
  keys := []
  locked := 0
  tokens := []
  tokenSeq := 0
  sessionNo := 0
  period := 0
  generation := 0
  refusals := 0
  measures := []
  move := .none

/-- WORLD_ASSIGN: the leader latches a world on a die that is clear, idle and not quarantined (R328); nodes that spaces of other worlds have
over the die's memory are withdrawn first (R330; log 130). -/
def execWorldAssign (d w : Nat) (s : State) : Host.Outcome State Fault Refusal :=
  .next (
    let q := s.die d
    let foreign := s.nodes.filter fun n => n.space ≠ 0 && s.spaceWorld n.space ≠ w && n.onDie d
    if 8 ≤ d ∨ w = 0 ∨ 65536 ≤ w ∨ q.world ≠ 0 ∨ !q.cleared ∨ q.quarantined ∨ s.dieHeld d then s
    else if foreign ≠ [] then withdrawAll s ((foreign.filter fun n => !n.withdrawing).map (·.id))
    else
      let s := s.modDie d fun q => { q with world := w, cleared := false }
      if (s.world? w).isSome then s else { s with worlds := s.worlds ++ [World.fresh w s.cycle] })

/-! The session (R331, R336). -/

/-- A command of a world's session: it counts as traffic, and is answered with a status byte (R331). -/
def session (s : State) (w : Nat) (f : World → State → Nat × State) : State :=
  match s.world? w with
  | none => s
  | some x =>
    if !x.session then s
    else
      let r := f x (s.modWorld w fun x => { x with lastSeen := s.cycle })
      { r.2 with replies := r.2.replies ++ [.status w r.1] }

/-- SESSION_ESTABLISH: the key exchange completes, once the tenant has verified the device by both of its identity signatures; HeartbeatPeriod
is 1 s; a world in grace goes on, and its parked traffic is sent (R331, R336). -/
def execSessionEstablish (w : Nat) (s : State) : Host.Outcome State Fault Refusal :=
  .next (match s.world? w with
  | none => s
  | some x =>
    if x.session ∨ x.grace.any (fun t => decide (t ≤ s.cycle)) ∨ !(s.identity.1 && s.identity.2) then s
    else
      let t := s.modWorld w fun x =>
        { x with session := true, lastSeen := s.cycle, grace := none, tokens := [], sessionNo := x.sessionNo + 1, period := 1 }
      let t := { t with replies := t.replies ++ [.session w 1] }
      if s.hostUp then sendParked t fun p => p.world = w else t)

/-- SESSION_HEARTBEAT (R331). -/
def execSessionHeartbeat (w : Nat) (s : State) : Host.Outcome State Fault Refusal :=
  .next (s.modWorld w fun x => if x.session then { x with lastSeen := s.cycle } else x)

/-- GRACE_PERIOD_SET: 1 to 60 seconds (R336). -/
def execGracePeriodSet (w sec : Nat) (s : State) : Host.Outcome State Fault Refusal :=
  .next (session s w fun _ s => if sec < 1 ∨ 60 < sec then (1, s) else (0, s.modWorld w fun x => { x with gracePeriod := sec }))

/-- SESSION_TIMEOUT: two seconds without traffic: the tokens end, and the grace period begins (R331, R334, R336). -/
def execSessionTimeout (w : Nat) (s : State) : Host.Outcome State Fault Refusal :=
  .next (match s.world? w with
  | none => s
  | some x =>
    if !x.session ∨ s.cycle < x.lastSeen + 2000 * Config.msCycles then s
    else s.modWorld w fun x =>
      { x with session := false, tokens := [], grace := some (s.cycle + x.gracePeriod * 1000 * Config.msCycles) })

/-! Keys and protected extents (R332, R333). -/

/-- A live node, or one that a withdrawal is to make, uses a key slot of a world (R332, R333). -/
def State.slotUsed (s : State) (w slot : Nat) : Bool :=
  let uses (n : Node) : Bool := n.world = w && n.attr.prot ≠ 0 && n.attr.keyslot.toNat = slot
  s.nodes.any uses || s.withdrawals.any fun q => q.make.any uses

/-- KEY_SET (R331, R332). -/
def execKeySet (w slot usage key : Nat) (s : State) : Host.Outcome State Fault Refusal :=
  .next (session s w fun _ s =>
    if 16 ≤ slot ∨ (usage ≠ 1 ∧ usage ≠ 2) ∨ 2 ^ 256 ≤ key then (1, s)
    else if s.slotUsed w slot then (2, s)
    else (0, s.modWorld w fun x => { x with keys := x.keys.filter (fun k => k.slot ≠ slot) ++ [⟨slot, usage, key⟩] }))

/-- KEY_CLEAR (R331, R332). -/
def execKeyClear (w slot : Nat) (s : State) : Host.Outcome State Fault Refusal :=
  .next (session s w fun _ s =>
    if 16 ≤ slot then (1, s)
    else if s.slotUsed w slot then (2, s)
    else (0, s.modWorld w fun x => { x with keys := x.keys.filter fun k => k.slot ≠ slot }))

/-- An extent that a world may protect: on its dies' stacks, or a far extent that no other world has (R332). -/
def State.worldExtent (s : State) (w base len : Nat) : Bool :=
  decide (base + len ≤ 2 ^ 52) &&
  ((paClass base = 1 && decide (bits base 47 0 + len ≤ Config.hbmBytes) &&
      s.stacksOf w (bits base 47 0) len) ||
    (paClass base = 2 && (s.extents.any fun e => !e.gone && decide (e.base ≤ base) && decide (base + len ≤ e.base + e.len)) &&
      s.nodes.all fun n => n.world = 0 || n.world = w || !overlaps n.pa n.len base len))

/-- The parts of a root node outside an extent. -/
def rootParts (n : Node) (base len : Nat) : List Node :=
  (if n.pa < base then [{ n with len := base - n.pa }] else []) ++
  if base + len < n.pa + n.len then
    [{ n with va := n.va + (base + len - n.pa), pa := base + len, len := n.pa + n.len - (base + len) }]
  else []

/-- A root node over part of an extent gives way to its parts outside, which take those of its children that lie in them (R333; log
28). -/
def carveRoot (base len : Nat) (s : State) (n : Node) : State :=
  (rootParts n base len).foldl (fun s p =>
    let id := s.nextId
    let t := { s with nodes := s.nodes ++ [{ p with id := id }] }.bumpId
    { t with nodes := t.nodes.map fun m =>
        if m.parent = some n.id ∧ p.pa ≤ m.pa ∧ m.pa + m.len ≤ p.pa + p.len then { m with parent := some id } else m }) s

/-- Every node over an extent is withdrawn, and a new root node is made at the end (R333). -/
def remake (s : State) (base len : Nat) (a : Attr) (w : Nat) : State :=
  let over_ (n : Node) : Bool := n.kind = .linear && !n.withdrawing && overlaps n.pa n.len base len
  let t := (s.nodes.filter fun n => n.space = 0 && n.parent.isNone && over_ n).foldl (carveRoot base len) s
  let carved := s.nodes.filter over_
  let ids := (carved.map (·.id) ++ carved.flatMap fun n => t.below t.nodes.length n).eraseDups
  let u := withdraw t (carved.map (·.id)) ids none
  { u with withdrawals := u.withdrawals.map fun q =>
      if q.id = t.nextId then { q with make := [⟨0, 0, rootVa base, len, base, a, none, .linear, false, [], w, false,
        if paClass base = 2 then 1 else 0⟩] } else q }

/-- The world's key slot holds a key of a usage (R332). -/
def World.hasKey (x : World) (slot usage : Nat) : Bool := x.keys.any fun k => k.slot = slot && k.usage = usage

/-- Version counters start for an extent under mode 10; a new protection of part of one ends its old ones (R333; log 131). -/
def versionsFor (s : State) (base len mode : Nat) : State :=
  { s with versions := s.versions.filter (fun v => !overlaps v.1 v.2.1 base len) ++ if mode = 2 then [(base, len, 0)] else [] }

/-- PROTECT (R331 to R333). -/
def execProtect (w base len mode slot : Nat) (s : State) : Host.Outcome State Fault Refusal :=
  .next (session s w fun x s =>
    if len = 0 ∨ base % 4096 ≠ 0 ∨ len % 4096 ≠ 0 ∨ (mode ≠ 1 ∧ mode ≠ 2) ∨ 16 ≤ slot then (1, s)
    else if !x.hasKey slot 1 ∨ !s.worldExtent w base len then (2, s)
    else (0, remake (versionsFor s base len mode) base len ⟨3, .raw, 0, BitVec.ofNat 2 mode, BitVec.ofNat 4 slot⟩ w))

/-- SEAL: the tags are copied first; tags is their physical address (R331 to R333). -/
def execSeal (w base len slot tags : Nat) (s : State) : Host.Outcome State Fault Refusal :=
  .next (session s w fun x s =>
    if len = 0 ∨ base % 4096 ≠ 0 ∨ len % 4096 ≠ 0 ∨ 16 ≤ slot then (1, s)
    else if !x.hasKey slot 2 ∨ !s.worldExtent w base len then (2, s)
    else
      let t := { s with tagRegions := s.tagRegions.filter (fun r => !overlaps r.base r.len base len) ++ [⟨base, len, s.bytes tags (len / 256 * 16)⟩] }
      (0, remake (versionsFor t base len 3) base len ⟨1, .raw, 0, 3, BitVec.ofNat 4 slot⟩ w))

/-! Locked interfaces and attestation (R334, R335). -/

/-- LOCK: bits 0 to 4 name space creation, loading, queue creation, fault-service targets, and footing and power settings (R334). -/
def execLock (w mask : Nat) (s : State) : Host.Outcome State Fault Refusal :=
  .next (session s w fun _ s => if 32 ≤ mask then (1, s) else (0, s.modWorld w fun x => { x with locked := x.locked ||| mask }))

/-- A token as TOKENS returns it: 24 bytes, the sequence number and a MAC under the session's key (R334). The request that it is to go with
is not known yet: its holder makes the MAC over that (log 12). -/
def World.token (x : World) (seq : Nat) : Nat := seq + 2 ^ 64 * (Config.tokenMac (Config.sessionKey x.id x.sessionNo) seq [] % 2 ^ 128)

/-- TOKENS (R334). -/
def execTokens (w count : Nat) (s : State) : Host.Outcome State Fault Refusal :=
  .next (session s w fun x s =>
    if count < 1 ∨ 64 < count then (1, s)
    else
      let l := (List.range count).map fun i => (x.tokenSeq + i) % 2 ^ 64
      let t := s.modWorld w fun x => { x with tokens := x.tokens ++ l, tokenSeq := x.tokenSeq + count }
      (0, { t with replies := t.replies ++ [.tokens w (l.map x.token)] }))

/-- ATTEST: the record with the tenant's nonce, signed (R335). -/
def execAttest (w nonce : Nat) (s : State) : Host.Outcome State Fault Refusal :=
  .next (session s w fun x s =>
    if 2 ^ 256 ≤ nonce then (1, s)
    else
      let ms := [(Config.firmware 0).toNat, (Config.firmware 1).toNat] ++ x.measures.map (·.toNat)
      let ds := s.diesOfWorld w
      let sig := Config.sign ([w] ++ ds ++ ms ++ [x.generation.toNat, x.refusals, nonce])
      (0, { s with replies := s.replies ++ [.attest w ds ms x.generation.toNat x.refusals nonce sig] }))

/-! A world leaves its dies (R336, R337). -/

/-- Every trace of a launch's tasks ends: tasks end by KILL, records and frames go (R336, R337). -/
def endLaunch (status : Word) (s : State) (l : Launch) : State :=
  let mine (t : Task) : Bool := t.launch = l.id
  let s := (s.bricks.map (·.1)).foldl (fun s b =>
    let s := (List.finRange 5).foldl (fun s k => if (s.strand b k).task.any mine then s.modStrand b k fun x => x.beginKill status else s) s
    let s := ((s.brick b).ready ++ (s.brick b).away ++ (s.brick b).kept).foldl (fun s c => if mine c.task then killCtx s b c status else s) s
    let gone := (s.brick b).frames ++ (s.brick b).deque.filterMap (·.frame)
    let s := s.modBrick b fun y =>
      { y with frames := y.frames.filter (fun f => !mine f.task), deque := y.deque.filter fun r => r.launch ≠ l.id, deqVer := y.deqVer + 1 }
    gone.foldl (fun s f => if mine f.task then endFrame s b f status else s) s) s
  let s := (s.frames ++ s.parkFrames).foldl (fun s f => if mine f.task then endFrame s f.dst f status else s) s
  let s := (l.deques.flatMap fun d => d.2.filterMap fun r => r.frame.map fun f => (d.1, f)).foldl (fun s q => endFrame s q.1 q.2 status) s
  let taken := s.steals.filterMap fun m => if m.launch = l.id then (m.answer.bind id).map (·.2) else none
  { s with
    frames := s.frames.filter fun f => !mine f.task
    parkFrames := s.parkFrames.filter fun f => !mine f.task
    steals := s.steals.map fun m => if m.launch = l.id ∧ m.answer.isSome then { m with answer := some none } else m
    launches := s.launches.map fun q =>
      if q.id = l.id then { q with deques := [], started := true, blocks := q.blocks.filter fun i => !taken.contains i } else q }

/-- A world leaves its dies: its launches end, its spaces' nodes are withdrawn, its keys are erased, and its dies are to be cleared
(R337). -/
def leaveDies (s : State) (w : Nat) (status : Word) : State :=
  let ofWorld (l : Launch) : Bool := s.spaceWorld l.space = w
  let s := { s with launches := s.launches.filter fun (l : Launch) => !(ofWorld l && decide (l.st = LaunchSt.waiting)) }
  let s := (s.launches.filter ofWorld).foldl (endLaunch status) s
  let s := withdrawAll s ((s.nodes.filter fun n => n.space ≠ 0 && s.spaceWorld n.space = w).map (·.id))
  let s := s.modWorld w fun x => { x with keys := [] }
  { s with dies := s.dies.map fun q => if q.world = w then { q with clearing := some s.cycle } else q }

/-- RELEASE (R331, R334, R337). -/
def execRelease (w : Nat) (s : State) : Host.Outcome State Fault Refusal :=
  .next (
    let t := session s w fun _ s => (0, leaveDies s w (killStatus 0x4D))
    if (s.world? w).any (·.session) then { t with worlds := t.worlds.filter fun x => x.id ≠ w } else t)

/-- GRACE_EXPIRY: the tasks of the world end with code 0x4D, and it leaves its dies (R336). -/
def execGraceExpiry (w : Nat) (s : State) : Host.Outcome State Fault Refusal :=
  .next (match s.world? w with
  | none => s
  | some x =>
    if x.grace.any fun t => decide (t ≤ s.cycle) then
      let t := leaveDies s w (killStatus 0x4D)
      { t with worlds := t.worlds.filter fun x => x.id ≠ w }
    else s)

/-- A strand with every register zero (R337). -/
def Strand.cleared : Strand := { (Strand.fresh .task) with deadline := 0, wdLog2 := 0 }

/-- A brick that the clear routine has overwritten (R337). -/
def Brick.clear (x : Brick) : Brick :=
  { Brick.fresh with
    strands := Vector.replicate 5 Strand.cleared
    disabled := x.disabled, retiring := x.retiring, gated := x.gated, entries := x.entries, epoch := x.epoch, taken := x.taken
    acked := x.acked, stuck := x.stuck }

/-- A physical address lies in the SRAM of an enabled brick of a die. -/
def State.sramOfDie (s : State) (d pa : Nat) : Bool :=
  decide (pa < 2 ^ 52) && paClass pa = 0 && paBrick pa / 4096 = d && !(s.brick (paBrick pa)).disabled

/-- Words of 64 bits ORed into 32 bits. -/
def orWords (l : List Word) : BitVec 32 := l.foldl (fun (a : BitVec 32) (w : Word) => a ||| w.extractLsb' 0 32 ||| w.extractLsb' 32 32) 0

/-- The OR of the words that a brick reads back after its clear (R337). -/
def Brick.readBack (y : Brick) : BitVec 32 :=
  y.stuck ||| orWords (y.strands.toList.flatMap fun x => x.s.toList ++ x.p.toList) |||
    (if y.acc = 0 ∧ y.strands.toList.all fun x => x.v.toList.all (· = 0) then 0 else 1)

/-- What the bricks of a die contribute to fcomb.or on its channel 0 (R337). -/
def State.readBack (s : State) (d : Nat) : BitVec 32 :=
  (s.bricks.filter fun b => !isPair b.1 && dieOf b.1 = d && !b.2.disabled).foldl (fun a b => a ||| b.2.readBack) 0

/-- The bricks of a die that no step has touched (R337, log 94). -/
def State.untouched (s : State) (d : Nat) : List Nat :=
  ((List.range 56).flatMap fun r => (List.range 56).map fun c => d * 4096 + r * 64 + c).filter fun b => !s.bricks.any fun q => q.1 = b

/-- CLEAR_ROUTINE: once no launch holds the die and no node of its world's spaces is left, every enabled brick is overwritten and read back
within 10 ms; if the OR of it all is zero the world leaves the die, else the die is quarantined (R337). -/
def execClearRoutine (d : Nat) (s : State) : Host.Outcome State Fault Refusal :=
  .next (
    let q := s.die d
    if q.clearing.all (fun t => decide (t + 10 * Config.msCycles ≤ s.cycle)) ∨ s.dieHeld d ∨ s.nodes.any (fun n => n.space ≠ 0 && s.spaceWorld n.space = q.world && n.kind ≠ .closed) then s
    else
      let s := { s with
        bricks := s.bricks.map (fun (b : Nat × Brick) => if !isPair b.1 && dieOf b.1 = d && !b.2.disabled then (b.1, b.2.clear) else b) ++
          (s.untouched d).map (fun b => (b, Brick.fresh.clear))
        mem := s.mem.filter fun c => !s.sramOfDie d c.1
        poison := s.poison.filter fun u => !s.sramOfDie d u
        codeLog := s.codeLog.map fun (e : CodeStore) => if s.sramOfDie d e.pa then { e with pa := 2 ^ 60 } else e }
      if s.readBack d = 0 then s.modDie d fun q => { q with world := 0, cleared := true, clearing := none, quarantined := false }
      else (s.modDie d fun q => { q with quarantined := true, clearing := none }).logHealth 6 d 0 (s.readBack d).toNat)

/-- CLEAR_TIMEOUT: the clear is not complete within 10 ms, and the die is quarantined (R337). -/
def execClearTimeout (d : Nat) (s : State) : Host.Outcome State Fault Refusal :=
  .next (if (s.die d).clearing.any fun t => decide (t + 10 * Config.msCycles ≤ s.cycle) then
    (s.modDie d fun q => { q with quarantined := true, clearing := none }).logHealth 6 d 0 0 else s)

/-! Moving a world (R338). -/

/-- What goes to the destination with a world: its launches with their contexts and frames, and its keys wrapped for the destination's
identity (R338). -/
def State.worldImage (s : State) (x : World) (dest : Nat) : WorldImage :=
  let ls := s.launches.filter fun l => s.spaceWorld l.space = x.id
  let mine (t : Task) : Bool := ls.any fun l => l.id = t.launch
  { launches := ls
    ctxs := s.bricks.flatMap fun q => ((q.2.kept ++ q.2.away ++ q.2.ready).filter fun c => mine c.task).map fun c => (q.1, c)
    frames := (s.frames ++ s.parkFrames).filter fun f => mine f.task
    keys := x.keys.map fun k => (k.slot, k.usage, Config.wrapKey dest k.slot k.key) }

/-- MIGRATE_OUT: the world's launches are pre-empted, and none is placed or goes on; once they are, their state and the wrapped keys are
sent, and the record is SENT. -/
def execMigrateOut (w dest : Nat) (s : State) : Host.Outcome State Fault Refusal :=
  .next (match s.world? w with
  | none => s
  | some x =>
    if !x.session then s
    else if x.move ≠ .none ∧ x.move ≠ .stopping then session s w fun _ s => (2, s)
    else
      let run := s.launches.filter fun l => s.spaceWorld l.space = w && (l.st = .running || l.st = .preempting)
      if run = [] then session s w fun _ s => (0, { s.modWorld w fun x => { x with move := .sent } with replies := s.replies ++ [.moved w dest (s.worldImage x dest)] })
      else (run.filter fun l => l.st = .running).foldl (fun s l => preemptLaunch s l.id) (s.modWorld w fun x => { x with lastSeen := s.cycle, move := .stopping }))

/-- RECEIPT: one that verifies makes the record RECEIVED, and the source erases its keys and clears its dies (R338). -/
def execReceipt (w r : Nat) (s : State) : Host.Outcome State Fault Refusal :=
  .next (session s w fun x s =>
    if x.move = .sent ∧ Config.receiptOk w r then
      (0, (leaveDies s w (killStatus 0x4D)).modWorld w fun x => { x with move := .received })
    else (2, s))

/-- The keys that came with a world, opened: slot, usage and key (R338). -/
def Incoming.opened (i : Incoming) : List KeySlot := i.keys.map fun k => ⟨k.1, k.2.1, Config.openKey k.1 k.2.2⟩

/-- A world arrives from another B8: it is held, and the receipt for it goes out (R338; log 132). -/
def receiveWorld (s : State) (w : Nat) (state : List Nat) (keys : List (Nat × Nat × Nat)) : State :=
  if s.incoming.any fun i => i.world = w then s
  else { s with incoming := s.incoming ++ [⟨w, state, keys, .received⟩], replies := s.replies ++ [.receipt w (Config.receiptFor w state keys)] }

/-- MIGRATION_ACTIVE: a moved key is used for the first time at its destination (R338): on the source the record becomes ACTIVE; on the
destination the world's slots hold the keys that came, as far as it has the world. -/
def execMigrationActive (w : Nat) (s : State) : Host.Outcome State Fault Refusal :=
  .next (
    let s := s.modWorld w fun x => if x.move = .received then { x with move := .active } else x
    match s.incoming.find? fun i => i.world = w && i.st = .received with
    | none => s
    | some i =>
      let t := s.modWorld w fun x => { x with keys := x.keys.filter (fun k => !i.keys.any fun q => q.1 = k.slot) ++ i.opened }
      { t with incoming := t.incoming.map fun j => if j = i then { j with st := .active } else j })

/-- ABORTED_LOST: power was lost between RECEIVED and ACTIVE: the source holds no keys, and the destination discards what it received
(R338). -/
def execAbortedLost (w : Nat) (s : State) : Host.Outcome State Fault Refusal :=
  .next { (s.modWorld w fun x => if x.move = .received then { x with move := .abortedLost, keys := [] } else x) with
    incoming := s.incoming.filter fun i => !(i.world = w && i.st = .received) }

end Sys2Proof.Machine
end

