-- ==== Sys2Proof/Machine/Fleet.lean ====
section
/-! DEFINITION. The fleet operator's side: reset and harvest (R339), monitors and power (R341, R342), snapshots (R343), trace control
(R344), the debug agent (R345) and power gating (R271). -/

namespace Sys2Proof.Machine

/-! Reset and harvest (R322, R337, R339, R340). -/

/-- The bricks of a device that a self-test may bypass: those that exist, and so many that 25,000 stay enabled (R2, R339). -/
def harvested (failed : List Nat) : List Nat :=
  (failed.filter fun b => decide (b < 32768) && decide (bits b 11 6 < 56) && decide (bits b 5 0 < 56)).eraseDups.take 88

/-- MODULE_RESET: the machine as reset leaves it, with the bricks whose routers failed self-test bypassed; memory outside the bricks,
its poison and the health record stay; a die that a world had not left cleanly is to be cleared (R337, R339; log 29). -/
def execModuleReset (failed : List Nat) (s : State) : Host.Outcome State Fault Refusal :=
  .next (
    let bad := harvested failed
    let r : State :=
      { State.reset with
        bricks := bad.map (fun b => (b, { Brick.fresh with disabled := true })) ++
          (s.bricks.filter fun q => q.2.stuck ≠ 0 && !bad.contains q.1).map fun q => (q.1, { Brick.initial q.1 with stuck := q.2.stuck })
        nodes := rootNodesWithout bad
        mem := s.mem.filter fun c => decide (paClass c.1 ≠ 0)
        poison := s.poison.filter fun u => decide (paClass u ≠ 0)
        dies := s.dies.map fun q => if q.cleared then Die.fresh else
          { Die.fresh with cleared := false, clearing := some 0, quarantined := q.quarantined }
        turns := s.turns, turnCount := s.turnCount, free := s.free, cur := s.cur, health := s.health, replies := s.replies, identity := s.identity }
    bad.foldl (fun s b => s.logHealth 1 (dieOf b) (b % 4096) 0) r)

/-- ROUTER_FAULT: a fault found in service marks the brick retiring (R339). -/
def execRouterFault (b : Nat) (s : State) : Host.Outcome State Fault Refusal :=
  .next (if isPair b || (s.brick b).disabled || (s.brick b).retiring then s
  else (s.modBrick b fun x => { x with retiring := true }).logHealth 2 (dieOf b) (b % 4096) 0)

/-! Monitors and the power arbiter (R341, R342). -/

/-- SENSOR_SAMPLE: sensor i of die d: kind 0 a temperature in quarter degrees, 1 a droop in mV, the worst since the last read, 2 a count;
a sensor that comes to 95 °C is recorded (R340, R341). -/
def execSensorSample (d i kind v : Nat) (s : State) : Host.Outcome State Fault Refusal :=
  .next (
    if 8 ≤ d then s
    else match kind with
    | 0 =>
      if 64 ≤ i then s
      else
        let t := s.modDie d fun q => let m := setAt q.temp i fun _ => v; { q with temp := m, hot := m.toList.any fun x => decide (380 ≤ x) }
        let t := if 380 ≤ v then t.modDie d fun q => { q with share := 200 } else t
        let t := if 380 ≤ v ∧ ((s.die d).temp.toList)[i]?.getD 0 < 380 then t.logHealth 7 d i v else t
        if 440 ≤ v then { t with stopped := true } else t
    | 1 =>
      if 32 ≤ i then s
      else
        let t := s.modDie d fun q => { q with droop := setAt q.droop i fun x => max x v }
        if v ≤ 60 then t
        else (t.modDie d fun q => { q with droopUntil := some (s.cycle + Config.msCycles) }).logHealth 8 d i v
    | _ => if 8 ≤ i then s else s.modDie d fun q => { q with process := setAt q.process i fun _ => v })

/-- DROOP_CUT_EXPIRY (R341). -/
def execDroopCutExpiry (d : Nat) (s : State) : Host.Outcome State Fault Refusal :=
  .next (if (s.die d).droopUntil.any fun t => decide (t ≤ s.cycle) then s.modDie d fun q => { q with droopUntil := none } else s)

/-- A die's part of what the dies at their floor leave of a module cap: in proportion to its demand, in equal parts where none demands
anything (R342). dies: each die's demand, and whether it has the floor alone. -/
def partOf (cap : Nat) (dies : List (Nat × Bool)) (dem : Nat) : Nat :=
  let free := dies.filter fun q => !q.2
  let rest := cap - 200 * (dies.length - free.length)
  let total := (free.map (·.1)).sum
  if total = 0 then rest / free.length else rest * dem / total

/-- Dies whose part would lie below 200 A have the floor, until none is left (R342). -/
def floorDies (cap : Nat) : Nat → List (Nat × Bool) → List (Nat × Bool)
  | 0, l => l
  | n + 1, l => floorDies cap n (l.map fun q => (q.1, q.2 || decide (partOf cap l q.1 < 200)))

/-- The shares of the dies under a module cap: in proportion to their demands, none below its floor of 200 A, which a hot die has alone (R341,
R342; log 32). -/
def sharesOf (cap : Nat) (dies : List (Nat × Bool)) : List Nat :=
  let l := floorDies cap 8 dies
  l.map fun q => if q.2 then 200 else partOf cap l q.1

/-- POWER_PERIOD: the arbiter divides the current of the rails among the dies, and gates issue of those beyond their share in eighths;
only timing changes (R342). -/
def execPowerPeriod (demand : List Nat) (s : State) : Host.Outcome State Fault Refusal :=
  .next (
    let dem (i : Nat) : Nat := demand.getD i 0
    let shares := sharesOf s.cap (s.dies.toList.zipIdx.map fun q => (dem q.2, q.1.hot))
    { s with dies := s.dies.mapFinIdx fun i q _ =>
        let q := { q with share := shares.getD i 200 }
        let x := q.current s.cycle
        { q with throttle := if dem i ≤ x then 0 else ((dem i - x) * 8 + dem i - 1) / dem i } })

/-- MODULE_CAP_SET: bits 31:0 of v are the cap, the bits above the tokens of 24 bytes of the worlds that have locked their power settings, in
their order; a cap below eight floors is refused, and so is one without the token of every such world, which is answered 3 (R331, R334, R342). -/
def execModuleCapSet (v : Nat) (s : State) : Host.Outcome State Fault Refusal :=
  .next (
    let cap := v % 2 ^ 32
    let locked (w : World) : Bool := w.locked.testBit 4
    let tok (w : World) : Nat := v / 2 ^ (32 + 192 * ((s.worlds.filter locked).findIdx fun x => x.id = w.id)) % 2 ^ 192
    let ok (w : World) : Bool := w.takes (tok w) [5, cap]
    if cap < 1600 ∨ 3600 < cap then s
    else if s.worlds.all fun w => !locked w || ok w then
      { s with cap := cap, worlds := s.worlds.map fun w => if locked w then w.spend (tok w) else w }
    else
      let t := { s with worlds := s.worlds.map fun w => if locked w && !ok w then { w with refusals := w.refusals + 1 } else w }
      { t with replies := t.replies ++ (s.worlds.filter fun w => locked w && !ok w).map fun w => .status w.id 3 })

/-! Snapshots (R343). -/

/-- SNAPSHOT_TRIGGER: the leader raises channel 62. -/
def execSnapshotTrigger (s : State) : Host.Outcome State Fault Refusal := .next { s with snapRaised := s.snapRaised ++ [s.cycle] }

/-- The counters of a brick: of each strand its unacknowledged stores and ring entries, then its records, ready contexts, inbox messages and
accesses under way (log 89). -/
def Brick.counters (y : Brick) : List Nat :=
  (y.strands.toList.flatMap fun x => [x.unacked, x.ring.length]) ++ [y.deque.length, y.ready.length, y.inbox.length, y.flights.length]

/-- The counters of a brick's router: the packets that it has sent and that are under way, for each colour (R315; log 115). -/
def State.routerCounters (s : State) (b : Nat) : List Nat :=
  let own := s.colourAt b
  let going := ((s.brick b).flights.filter fun f => !f.arrived).length
  (List.range 16).map fun c => (s.net.filter fun m => m.srcBrick = b && m.colour = c).length + if c = own then going else 0

/-- The counters of a die's coping slices: its poisoned units, and its regions whose owner is changing (R317, R349; log 89). -/
def State.copingCounters (s : State) (d : Nat) : List Nat :=
  let here (pa : Nat) : Bool := paClass pa = 1 && decide (pa < 2 ^ 52) && hbmDie (bits pa 47 0) = d
  [(s.poison.filter here).length, (s.regions.filter fun r => r.moving && here r.base).length]

/-- A latch of every block, over the machine as it stands: a set that was not read is overrun. -/
def Snaps.latch (x : Snaps) (s : State) : Snaps :=
  { seq := (x.seq + 1) % 2 ^ 32, unread := true, overrun := x.overrun || x.unread
    listed := x.listed.map fun q => (q.1, true, q.2.2 || q.2.1)
    links := s.dies.toList.flatMap fun d => d.refusals.toList
    shares := s.dies.toList.map (·.current s.cycle)
    bricks := s.bricks.map fun q => (q.1, q.2.counters)
    routers := s.bricks.map fun q => (q.1, s.routerCounters q.1)
    coping := (List.range 8).map s.copingCounters }

/-- The raise that is oldest latches every block. -/
def latchSnaps (s : State) : State := { s with snap := s.snap.latch s, snapRaised := s.snapRaised.drop 1 }

/-- SNAPSHOT_LATCH: every block latches 96 cycles after the raise. -/
def execSnapshotLatch (s : State) : Host.Outcome State Fault Refusal :=
  .next (if s.snapRaised.head?.any fun t => decide (t + 96 ≤ s.cycle) then latchSnaps s else s)

/-- UNREAD and OVER of a block. -/
def Snaps.block (x : Snaps) (n : Nat) : Bool × Bool := (findKey n x.listed).getD (x.unread, x.overrun)

/-- OVER of a block is written 1, which clears it. -/
def Snaps.clearOver (x : Snaps) (n : Nat) : Snaps := { x with listed := putKey n ((x.block n).1, false) x.listed }

/-- The counters of block n: 0 to 31 the link slices, four to a die, 32 the power arbiter, 64 to 71 the coping slices of a die, from 2^16 on
the bricks and from 2^17 on their routers (log 89). -/
def Snaps.counters (x : Snaps) (n : Nat) : List Nat :=
  if n < 32 then x.links[n]?.toList
  else if n = 32 then x.shares
  else if n < 72 then x.coping.getD (n - 64) []
  else if 2 ^ 17 ≤ n then (findKey (n - 2 ^ 17) x.routers).getD (List.replicate 16 0)
  else (findKey (n - 2 ^ 16) x.bricks).getD (List.replicate 14 0)

/-- SNAPSHOT_READ: the set of block n is read, which clears UNREAD. -/
def execSnapshotRead (n : Nat) (s : State) : Host.Outcome State Fault Refusal :=
  .next { s with
    snap := { s.snap with listed := putKey n (false, (s.snap.block n).2) s.snap.listed }
    replies := s.replies ++ [.snapshot n s.snap.seq (s.snap.block n).2 (s.snap.counters n)] }

/-! Trace control (R344). -/

/-- TRACE_CONTROL_WRITE: the side of a write to aperture 1 that sets kinds, freeze and match; that of CLEAR in TRCTL is TRACE_CLEAR's. -/
def execTraceControlWrite (b off : Nat) (v : Word) (s : State) : Host.Outcome State Fault Refusal :=
  .next (s.modBrick b fun x => apertureWrite x 1 off 8 (if off = 0 then v &&& ~~~(0x2000000 : Word) else v).toNat)

/-- TRACE_CLEAR: NEXT and WRAP become zero. -/
def execTraceClear (b : Nat) (s : State) : Host.Outcome State Fault Refusal :=
  .next (s.modBrick b fun x => { x with trctl := x.trctl &&& ~~~(0x1FF0000 : Word) })

/-! The debug agent (R345). -/

/-- The strand that it names. -/
def Dbg.who (x : Dbg) : Nat := bits x.cmd.toNat 2 0
/-- A busy command c on strand k. -/
def Brick.debugging (x : Brick) (c k : Nat) : Bool := x.dbg.state = 1 && x.dbg.op = c && x.dbg.who = k

/-- A command ends: state 2 done or 3 failed, with a code. -/
def dbgEnd (s : State) (b st code : Nat) : State := s.modBrick b fun x => { x with dbg := { x.dbg with state := st, code := code } }
/-- A command is refused: nothing else changes. -/
def dbgRefuse (s : State) (b : Nat) : State := dbgEnd s b 3 0

/-- STOP: the strand is to stop at its next interruption point. -/
def execStop (b k : Nat) (s : State) : Host.Outcome State Fault Refusal :=
  .next (if h : k < 5 then
    if !(s.brick b).debugging 1 k then s
    else
      let x := s.strand b ⟨k, h⟩
      if x.halted.isSome ∨ x.task.isNone then dbgRefuse s b else s.modStrand b ⟨k, h⟩ fun x => { x with stopReq := true }
  else s)

/-- STOP_TAKEN: an interruption point: windows are closed, and the strand stops with its mode and its stores as they are; a blocked strand
issues nothing, and stops where it is, its block and its windows as they are (log 23). -/
def execStopTaken (b k : Nat) (s : State) : Host.Outcome State Fault Refusal :=
  .next (if h : k < 5 then
    let x := s.strand b ⟨k, h⟩
    if !x.stopReq ∨ x.halted.isSome ∨ (x.block.isNone ∧ (x.phase ≠ 0 ∨ x.hints.any ∨ !(x.windowFree || decide (64 ≤ x.issued)) ∨ !x.drained)) then s
    else
      let t := s.modStrand b ⟨k, h⟩ fun x =>
        { (if x.block.isSome then x else x.closeWindows) with halted := some .stop, stopReq := false }
      if (s.brick b).debugging 1 k then dbgEnd t b 2 0 else t
  else s)

/-- RESUME: a stopped or halted strand goes on, at DBGPC if NEWPC is set. -/
def execResume (b k : Nat) (s : State) : Host.Outcome State Fault Refusal :=
  .next (if h : k < 5 then
    let y := s.brick b
    if !y.debugging 2 k then s
    else if (s.strand b ⟨k, h⟩).halted.isNone then dbgRefuse s b
    else dbgEnd (s.modStrand b ⟨k, h⟩ fun x =>
      { x with halted := none, pc := if y.dbg.cmd.getLsbD 16 then y.dbg.pc else x.pc }) b 2 0
  else s)

/-- The register that SEL names, as 64 bytes; none for a selector that is refused. -/
def dbgReg (s : State) (b : Nat) (k : Fin 5) (sel : Nat) : Option (BitVec 512) :=
  let x := s.strand b k
  if sel < 16 then some ((x.sreg (BitVec.ofNat 4 sel)).zeroExtend 512)
  else if sel = 16 then some (x.pc.zeroExtend 512)
  else if 32 ≤ sel ∧ sel < 64 then some (x.vreg (BitVec.ofNat 5 (sel - 32)))
  else if 64 ≤ sel ∧ sel < 72 then some ((x.preg (BitVec.ofNat 3 (sel - 64))).zeroExtend 512)
  else if 0x1000 ≤ sel ∧ sel < 0x2000 ∧ csrNumbers.contains (sel - 0x1000) then some ((csrValue s b k (sel - 0x1000)).zeroExtend 512)
  else none

/-- On a die of a world a register command fails with SEALED_DEBUG, DATA is zero and the strand's space hears of it. -/
def dbgSealed (s : State) (b k space : Nat) : State :=
  (dbgEnd (s.modBrick b fun x => { x with dbg := { x.dbg with data := 0 } }) b 3 0x46).report b k space .sealedDebug .load 0 0 0

/-- READ_REG. -/
def execReadReg (b k : Nat) (s : State) : Host.Outcome State Fault Refusal :=
  .next (if h : k < 5 then
    let y := s.brick b
    let x := s.strand b ⟨k, h⟩
    if !y.debugging 3 k then s
    else if s.worldOf (dieOf b) ≠ 0 then dbgSealed s b k x.space
    else if x.halted.isNone then dbgRefuse s b
    else match dbgReg s b ⟨k, h⟩ y.dbg.sel.toNat with
      | none => dbgRefuse s b
      | some v => dbgEnd (s.modBrick b fun x => { x with dbg := { x.dbg with data := v } }) b 2 0
  else s)

/-- The strand with the register that SEL names written. -/
def dbgPut (x : Strand) (sel : Nat) (v : BitVec 512) : Option Strand :=
  if sel < 16 then some (x.setS (BitVec.ofNat 4 sel) (v.truncate 64))
  else if 32 ≤ sel ∧ sel < 64 then some (x.setV (BitVec.ofNat 5 (sel - 32)) v)
  else if 65 ≤ sel ∧ sel < 72 then some (x.setP (BitVec.ofNat 3 (sel - 64)) (v.truncate 64))
  else none

/-- WRITE_REG. -/
def execWriteReg (b k : Nat) (s : State) : Host.Outcome State Fault Refusal :=
  .next (if h : k < 5 then
    let y := s.brick b
    let x := s.strand b ⟨k, h⟩
    if !y.debugging 4 k then s
    else if s.worldOf (dieOf b) ≠ 0 then dbgSealed s b k x.space
    else if x.halted.isNone then dbgRefuse s b
    else match dbgPut x y.dbg.sel.toNat y.dbg.data with
      | none => dbgRefuse s b
      | some x' => dbgEnd (s.modStrand b ⟨k, h⟩ fun _ => x') b 2 0
  else s)

/-- What READ_MEM needs: read right, and a sealed line gives SEALED_DEBUG (R264, R345). -/
def needDebug : Need := ⟨true, false, false, .sealedDebug, .load⟩

/-- A READ_MEM that fails: DATA is zero, and a report goes to SPACE. -/
def dbgFault (s : State) (b : Nat) (c : Code) (a : Nat) : State :=
  let y := s.brick b
  (dbgEnd (s.modBrick b fun x => { x with dbg := { x.dbg with data := 0 } }) b 3 c.num).report b y.dbg.who y.dbg.space.toNat c .load 0
    (BitVec.ofNat 64 a) 0

/-- The line that READ_MEM names lies on a die of a world (R329). -/
def State.dbgForeign (s : State) (b space a : Nat) : Bool :=
  match s.paAt b space a with
  | some pa => (paClass pa = 0 || paClass pa = 1) && decide (pa < 2 ^ 52) && s.worldOf (paDie 0 pa) ≠ 0
  | none => false

/-- READ_MEM: the line is read at its home; the memory of a die of a world gives zeros and SEALED_DEBUG (R329, R345). -/
def execReadMem (b : Nat) (s : State) : Host.Outcome State Fault Refusal :=
  .next (
    let y := s.brick b
    let a := y.dbg.sel.toNat / 64 * 64
    if y.dbg.state ≠ 1 ∨ y.dbg.op ≠ 5 then s
    else if s.worldOf (dieOf b) ≠ 0 || s.dbgForeign b y.dbg.space.toNat a then dbgFault s b .sealedDebug a
    else match s.check b y.dbg.space.toNat a needDebug with
      | .error c => dbgFault s b c a
      | .ok (p, s') =>
        if paClass p.pa = 4 ∧ p.pa < 2 ^ 52 then dbgFault s b .rights a
        else if !s.homeReady p.pa then s
        else if s.readBad b y.dbg.space.toNat a p.pa 64 then dbgFault s b .poison a
        else dbgEnd (s'.modBrick b fun x => { x with dbg := { x.dbg with data := BitVec.ofNat 512 (s.num p.pa 64) } }) b 2 0)

/-! Power gating (R271). -/

/-- Nothing runs on a brick and nothing of it is under way. -/
def Brick.quiet (x : Brick) : Bool :=
  x.launch.isNone && x.handler.isNone && x.flights = [] && x.matq = [] && x.held = [] && x.strands.toList.all fun t => t.task.isNone && t.saveTok.isNone

/-- POWER_GATING: an idle brick's interface drops its entries (R271). -/
def execPowerGating (b : Nat) (s : State) : Host.Outcome State Fault Refusal :=
  .next (if isPair b || !(s.brick b).quiet then s else s.modBrick b fun x => { x with gated := true, entries := [], rrb := [] })

/-! What the outside world does beside the opcode table (log 107). -/

/-- A unit of memory that may return poison of its own: a line under protection mode 10, or a line of far, host or peer memory (R261, R325,
R349). -/
def State.mayPoison (s : State) (pa : Nat) : Bool :=
  decide (pa < 2 ^ 52) && match paClass pa with
  | 1 => s.nodes.any fun n => n.kind = .linear && n.attr.prot = 2 && decide (n.pa ≤ pa) && decide (pa < n.pa + n.len)
  | 2 => s.extents.any fun e => decide (e.base ≤ pa) && decide (pa < e.base + e.len)
  | 3 => true
  | 5 => true
  | _ => false

/-- The lower die of the boundary with link number n: three in each row of dies, then four between the rows (log 107). -/
def boundaryDie (n : Nat) : Nat := if n < 38 then (n - 32) / 3 * 4 + (n - 32) % 3 else n - 38

/-- A sensor is read: the reading is returned, and a droop monitor's worst begins anew (R341). -/
def readSensor (s : State) (d kind i : Nat) : State :=
  let q := s.die d
  let v := match kind with
    | 0 => q.temp.toList.getD i 0
    | 1 => q.droop.toList.getD i 0
    | _ => q.process.toList.getD i 0
  let t := { s with replies := s.replies ++ [.sensor d kind i v] }
  if kind = 1 then t.modDie d fun q => { q with droop := setAt q.droop i fun _ => 0 } else t

/-- What the outside world does on its own: a corrected compare retry (R321), poison that memory returns or its owner repairs (R349), a
boundary's link (R324, R340), a read of a sensor (R341), the tenant's check of the device's identity (R331), storage that does not clear (R337), a world that another B8 sends
(R338), the mode of port 1 and the place of BAR2's window (R316), a snapshot's OVER (R343). -/
def envTurn (e : Config.Env) (s : State) : State :=
  match e with
  | .clearOver n => { s with snap := s.snap.clearOver n }
  | .compareRetry d => { s with pairs := s.pairs.mapFinIdx fun i p _ => if i = d ∧ p.healthy then { p with mismatch := min 255 (p.mismatch + 1) } else p }
  | .poisoned pa => if s.mayPoison pa ∧ !s.poison.contains (poisonBase pa) then { s with poison := s.poison ++ [poisonBase pa] } else s
  | .repaired pa => if paClass pa = 2 ∨ paClass pa = 3 ∨ paClass pa = 5 then { s with poison := s.poison.filter (· ≠ poisonBase pa) } else s
  | .boundary n up => if 32 ≤ n ∧ n < 42 ∧ s.portUp n ≠ up then
      { s with ports := putKey n { s.port n with up := up } s.ports }.logHealth (if up then 4 else 3) (boundaryDie n) n 0 else s
  | .sensorRead d kind i => readSensor s d kind i
  | .identity ed ml => { s with identity := (ed, ml) }
  | .stuckBits b v => s.modBrick b fun y => { y with stuck := v }
  | .worldIn w state keys => receiveWorld s w state keys
  | .cxl on => { s with ports := putKey 1 { s.port 1 with cxl := on } s.ports }
  | .window base => if s.hostUp ∧ base + 2 ^ 36 ≤ Config.hbmBytes then { s with bar2 := base } else s

end Sys2Proof.Machine
end

