-- ==== Sys2Proof/Machine/Timeout.lean ====
section
/-! DEFINITION. The end of a transfer of ownership that has failed (R318): what waits for the region posts OWNERSHIP_TIMEOUT. -/

namespace Sys2Proof.Machine

/-- Every pending access of a list of operations to a region fails with a code (R318). -/
def failOps (s : State) (b : Nat) (k : Fin 5) (r : Nat) (c : Code) (l : List Op) : State :=
  l.foldl (fun s o => match o.kind with
    | .mapw _ _ => if o.wants s b r then (mapwMsg s b k o c).modBrick b fun x => x.modOp o.id fun _ => mapwFault s o c else s
    | _ => o.accs.zipIdx.foldl (fun s q => if q.1.st = .pending ∧ inRegion r q.1.pa then faultAcc s b k o q.2 c (o.access q.1) else s) s) s

/-- A task that waits for a region posts a memory fault instead (R318). -/
def failBlock (s : State) (b : Nat) (k : Fin 5) (r : Nat) (c : Code) : State :=
  let x := s.strand b k
  match x.block.bind (BlockOn.wants s b x.space r) with
  | some (ord, cls, ea) =>
    let tok := s.nextId % 2 ^ 32
    (s.bumpId.modStrand b k fun x => { x with block := some (.fault tok ord c) }).sendFault ⟨x.space, c, b, k, cls, false, x.pc, ea, 0, tok⟩
  | none => s

/-- A context that waits for a region, and its accesses, post memory faults instead (R318). -/
def failAway (s : State) (b r : Nat) (c : Code) (q : Ctx) : State :=
  let k : Fin 5 := Fin.ofNat 5 (q.strand.getD 0)
  match q.block.bind (BlockOn.wants s b q.space r) with
  | some (ord, cls, ea) =>
    let tok := s.nextId % 2 ^ 32
    failOps ((putAway s.bumpId b q { q with block := some (.fault tok ord c) }).sendFault ⟨q.space, c, b, k, cls, false, 0, ea, 0, tok⟩) b k r c q.ops
  | none => failOps s b k r c q.ops

/-- A matrix command or copy that waits for a region is given up with a report of its address there (R160, R171, R318; log 117). -/
def failUnits (s : State) (b r : Nat) (c : Code) : State :=
  let y := s.brick b
  let s := y.matq.foldl (fun s m => match m.wants s b r with
    | some a => dropCmd (s.report b m.strand m.space c .matrix m.pc (BitVec.ofNat 64 a) m.seq) b m
    | none => s) s
  (List.range 8).foldl (fun s i => match (y.chan i).job with
    | some j => match j.wants s b r with
      | some a => copyReport s b i j c a
      | none => s
    | none => s) s

/-- A region's accesses that wait in brick b fail with a code; retired ones are dropped and reported (R114, R318). -/
def failBrick (s : State) (r : Nat) (c : Code) (b : Nat) : State :=
  let s := (List.finRange 5).foldl (fun s k => failBlock (failOps s b k r c (s.strand b k).ops) b k r c) s
  let s := ((s.brick b).away ++ (s.brick b).ready ++ (s.brick b).kept).foldl (failAway · b r c ·) s
  let s := failUnits s b r c
  ((s.brick b).flights.filter fun f => !f.arrived && !f.posted && (s.flightPa b f).any (inRegion r)).foldl (dropFlight · b · c) s

/-- A queue whose next command lies in a region stops (R309, R318). -/
def failQueue (s : State) (r : Nat) (c : Code) (q : Queue) : State :=
  let at_ := q.ring + 64 * (q.head.toNat % 2 ^ q.log2n)
  if q.cmd.isNone ∧ q.tail ≠ q.head ∧ s.rangeIn (pairKey q.die) q.space r at_ 64 then faultQueue s q c .load at_ else s

/-! What waits for a region tries again while its transfer has just failed (State.lapsed): its access faults. -/

/-- The command in hand of a queue, or its WAIT, meets a region that has timed out (R309, R318). -/
def lapseQueue (s : State) (q : Queue) : State :=
  [execSignalStore, execSignalAdd, execSignalLandSet, execMark, execWaitSatisfied].foldl (fun s f => after (f q.id s) s) s

/-- A launch's accesses meet a region that has timed out: its constant bank, its record, its contexts' blocks and deque images (R232, R240,
R308, R318). -/
def lapseLaunch (s : State) (l : Launch) : State :=
  match l.refused with
  | some nn => refuseLaunch s l nn
  | none =>
    if l.st = .waiting then
      match s.placeable l && (s.refusal l).isNone, constBank s l with
      | true, some (.error c) => refuseLaunch (s.report (pairKey l.die) 0 l.space c .load 0 l.cmd.cbank 0) l 5
      | _, _ => s
    else
      let s := after (execLaunchComplete l.id s) s
      let s := after (execCoursePreempted l.id s) s
      after (execLaunchResume l.id s) s

/-- A task that leaves or enters strand k meets a region that has timed out in its save area (R33, R318). -/
def lapseStrand (r b : Nat) (s : State) (k : Fin 5) : State :=
  let x := s.strand b k
  if (s.brick b).moves k.val s.cycle x && s.rangeIn b x.space r x.saveBase 0x2040 then
    let s := s.modStrand b k fun x => { x with lapse := some r }
    let s := after (execBlockDeparture b k.val s) s
    let s := after (execForcedSave b k.val s) s
    s.modStrand b k fun x => if x.block.isSome && x.restore.isNone then { x with lapse := none } else x
  else s

/-- A record of brick b's deque meets a region that has timed out in the first line of its context's block (R232, R318). -/
def lapseDispatch (r b : Nat) (s : State) (k : Fin 5) : State :=
  match s.runsHere b with
  | none => s
  | some l =>
    match (List.range l.cmd.ctxcount).find? fun i => l.blockFree i && s.rangeIn b l.space r (l.blockBase i + 0x2000) 64 with
    | some i => if (s.brick b).deque ≠ [] then after (execStrandDispatch b k.val i s) s else s
    | none => s

/-- What waits in brick b meets a region that has timed out: saves, the first block of a record, a send's landing word, a change of ACCOWN, a
chain's switch and the debug agent's read (R318). -/
def lapseBrick (r : Nat) (s : State) (b : Nat) : State :=
  let s := (List.finRange 5).foldl (lapseDispatch r b) ((List.finRange 5).foldl (lapseStrand r b) s)
  let y := s.brick b
  let sends := (y.strands.toList.flatMap (·.ops) ++ (y.away ++ y.ready ++ y.kept).flatMap (·.ops)).filter fun o => o.wants s b r
  let s := sends.foldl (fun s o => after (execSendStatus b o.id s) s) s
  let s := after (execAccownWrite b s) s
  let s := y.switches.foldl (fun s w => after (execChainSwitchComplete b w.crec s) s) s
  after (execReadMem b s) s

/-- OWNERSHIP_TIMEOUT: a transfer to A is not complete after 2 ms, and the accesses that wait for it fail (R318). -/
def execOwnershipTimeout (r : Nat) (s : State) : Host.Outcome State Fault Refusal :=
  .next (
    let q := s.regionAt r
    if !q.moving ∨ q.owner ∨ s.cycle < q.began + transferCycles then s
    else
      let s := { (s.putRegion { q with moving := false }) with lapsed := some r, asks := s.asks.filter (· ≠ r) }
      let bs := s.bricks.map (·.1)
      let s := s.queues.foldl (failQueue · r .ownershipTimeout ·) (bs.foldl (failBrick · r .ownershipTimeout ·) s)
      let s := bs.foldl (lapseBrick r) s
      let s := (s.queues.filter fun q => q.wants s r).foldl lapseQueue (staleHeads s)
      let s := s.launches.foldl lapseLaunch s
      let s := (List.range s.mapq.length).reverse.foldl (fun s n => after (execMapRequest n s) s) s
      let s := s.withdrawals.foldl (fun s w => after (execWithdrawalPoint w.id s) s) s
      { s with lapsed := none })

end Sys2Proof.Machine
end

