-- ==== Sys2Proof/Machine/Vector.lean ====
section
/-! DEFINITION. Vector integer arithmetic, logic, shifts and compares (R142, R143), permutes, scans and reductions (R151, R152),
vsel (R146) and the predicate instructions (R144). -/

namespace Sys2Proof.Machine

/-- A unary integer vector instruction: f takes the element's bits and value (R131, R142). -/
def vecI1 (i : Instr) (d : BitVec 5) (a : Src) (w : Nat) (f : Nat → Nat → Nat) (s : State) : Host.Outcome State Fault Refusal :=
  run i s fun s =>
    let x := s.vsrc a true w
    .ok (s.putV d w (buildV w fun j => f (8 * w) (elem x w j)))

/-- A binary integer vector instruction: f takes the element's bits and the two values (R131, R142). -/
def vecI2 (i : Instr) (d : BitVec 5) (a b : Src) (w : Nat) (f : Nat → Nat → Nat → Nat) (s : State) : Host.Outcome State Fault Refusal :=
  run i s fun s =>
    let x := s.vsrc a (b.k ≠ 3) w
    let y := s.vsrc b true w
    .ok (s.putV d w (buildV w fun j => f (8 * w) (elem x w j) (elem y w j)))

/-- A compare of integer elements (R143). -/
def vecC2 (i : Instr) (d : BitVec 3) (a b : Src) (w : Nat) (f : Nat → Nat → Nat → Bool) (s : State) : Host.Outcome State Fault Refusal :=
  run i s fun s =>
    let x := s.vsrc a (b.k ≠ 3) w
    let y := s.vsrc b true w
    .ok (s.putP d w fun j => f (8 * w) (elem x w j) (elem y w j))

/-! Element functions: n is the element's width in bits (R142, R39). -/

/-- An integer as n bits, wrapped. -/
def wrapN (n : Nat) (v : Int) : Nat := (v % (2 ^ n : Nat)).toNat
/-- An integer clamped to n signed bits (R38). -/
def satS (n : Nat) (v : Int) : Nat := wrapN n (max (-(2 ^ (n - 1) : Nat)) (min ((2 ^ (n - 1) : Nat) - 1) v))
/-- An integer clamped to n unsigned bits (R38). -/
def satU (n : Nat) (v : Int) : Nat := wrapN n (max 0 (min ((2 ^ n : Nat) - 1) v))
/-- vadd and its saturating forms (R142). -/
def elAdd (m : BitVec 2) (n a b : Nat) : Nat :=
  if m = 1 then satS n (toS a n + toS b n) else if m = 2 then satU n ((a : Int) + b) else (a + b) % 2 ^ n
/-- vsub and its saturating forms (R142). -/
def elSub (m : BitVec 2) (n a b : Nat) : Nat :=
  if m = 1 then satS n (toS a n - toS b n) else if m = 2 then satU n ((a : Int) - b) else wrapN n ((a : Int) - b)
/-- vmulh: high half of the signed product (R142). -/
def elMulh (n a b : Nat) : Nat := wrapN n (toS a n * toS b n / (2 ^ n : Nat))
/-- The signed minimum of two elements. -/
def elMin (n a b : Nat) : Nat := if toS b n < toS a n then b else a
/-- The signed maximum of two elements. -/
def elMax (n a b : Nat) : Nat := if toS a n < toS b n then b else a
/-- A value that the edge of its width wraps or saturates (R39). -/
def elEdge (sat : BitVec 1) (n : Nat) (v : Int) : Nat := if sat = 1 then satS n v else wrapN n v

/-- vadd (R142). -/
def execVadd (d : BitVec 5) (a b : Src) (m w : BitVec 2) (s : State) : Host.Outcome State Fault Refusal :=
  vecI2 (.vadd d a b m w) d a b (widthOf w) (elAdd m) s

/-- vsub (R142). -/
def execVsub (d : BitVec 5) (a b : Src) (m w : BitVec 2) (s : State) : Host.Outcome State Fault Refusal :=
  vecI2 (.vsub d a b m w) d a b (widthOf w) (elSub m) s

/-- vmul (R142). -/
def execVmul (d : BitVec 5) (a b : Src) (w : BitVec 2) (s : State) : Host.Outcome State Fault Refusal :=
  vecI2 (.vmul d a b w) d a b (widthOf w) (fun n a b => a * b % 2 ^ n) s

/-- vmulh (R142). -/
def execVmulh (d : BitVec 5) (a b : Src) (w : BitVec 2) (s : State) : Host.Outcome State Fault Refusal :=
  vecI2 (.vmulh d a b w) d a b (widthOf w) elMulh s

/-- vmin (R142). -/
def execVmin (d : BitVec 5) (a b : Src) (w : BitVec 2) (s : State) : Host.Outcome State Fault Refusal :=
  vecI2 (.vmin d a b w) d a b (widthOf w) elMin s

/-- vmax (R142). -/
def execVmax (d : BitVec 5) (a b : Src) (w : BitVec 2) (s : State) : Host.Outcome State Fault Refusal :=
  vecI2 (.vmax d a b w) d a b (widthOf w) elMax s

/-- vabs (R142). -/
def execVabs (d : BitVec 5) (a : Src) (m : BitVec 1) (w : BitVec 2) (s : State) : Host.Outcome State Fault Refusal :=
  vecI1 (.vabs d a m w) d a (widthOf w) (fun n x => elEdge m n (toS x n).natAbs) s

/-- vneg (R142). -/
def execVneg (d : BitVec 5) (a : Src) (m : BitVec 1) (w : BitVec 2) (s : State) : Host.Outcome State Fault Refusal :=
  vecI1 (.vneg d a m w) d a (widthOf w) (fun n x => elEdge m n (-toS x n)) s

/-- vand (R142; a source that is no vector gives its low byte to every byte: R131, DEDUCED, log 119). -/
def execVand (d : BitVec 5) (a b : Src) (s : State) : Host.Outcome State Fault Refusal :=
  vecI2 (.vand d a b) d a b 1 (fun _ a b => a &&& b) s

/-- vor (R142; a source that is no vector gives its low byte to every byte: R131, DEDUCED, log 119). -/
def execVor (d : BitVec 5) (a b : Src) (s : State) : Host.Outcome State Fault Refusal :=
  vecI2 (.vor d a b) d a b 1 (fun _ a b => a ||| b) s

/-- vxor (R142; a source that is no vector gives its low byte to every byte: R131, DEDUCED, log 119). -/
def execVxor (d : BitVec 5) (a b : Src) (s : State) : Host.Outcome State Fault Refusal :=
  vecI2 (.vxor d a b) d a b 1 (fun _ a b => a ^^^ b) s

/-- vandn (R142; a source that is no vector gives its low byte to every byte: R131, DEDUCED, log 119). -/
def execVandn (d : BitVec 5) (a b : Src) (s : State) : Host.Outcome State Fault Refusal :=
  vecI2 (.vandn d a b) d a b 1 (fun n a b => a &&& (2 ^ n - 1 - b)) s

/-- vshl (R142). -/
def execVshl (d : BitVec 5) (a b : Src) (w : BitVec 2) (s : State) : Host.Outcome State Fault Refusal :=
  vecI2 (.vshl d a b w) d a b (widthOf w) (fun n a b => a * 2 ^ (b % n) % 2 ^ n) s

/-- vshr (R142). -/
def execVshr (d : BitVec 5) (a b : Src) (w : BitVec 2) (s : State) : Host.Outcome State Fault Refusal :=
  vecI2 (.vshr d a b w) d a b (widthOf w) (fun n a b => a / 2 ^ (b % n)) s

/-- vsar (R142). -/
def execVsar (d : BitVec 5) (a b : Src) (w : BitVec 2) (s : State) : Host.Outcome State Fault Refusal :=
  vecI2 (.vsar d a b w) d a b (widthOf w) (fun n a b => wrapN n (toS a n / (2 ^ (b % n) : Nat))) s

/-- vcmp.eq (R143). -/
def execVcmpEq (d : BitVec 3) (a b : Src) (w : BitVec 2) (s : State) : Host.Outcome State Fault Refusal :=
  vecC2 (.vcmpEq d a b w) d a b (widthOf w) (fun _ a b => a == b) s

/-- vcmp.ne (R143). -/
def execVcmpNe (d : BitVec 3) (a b : Src) (w : BitVec 2) (s : State) : Host.Outcome State Fault Refusal :=
  vecC2 (.vcmpNe d a b w) d a b (widthOf w) (fun _ a b => a != b) s

/-- vcmp.lt (R143). -/
def execVcmpLt (d : BitVec 3) (a b : Src) (w : BitVec 2) (s : State) : Host.Outcome State Fault Refusal :=
  vecC2 (.vcmpLt d a b w) d a b (widthOf w) (fun n a b => decide (toS a n < toS b n)) s

/-- vcmp.le (R143). -/
def execVcmpLe (d : BitVec 3) (a b : Src) (w : BitVec 2) (s : State) : Host.Outcome State Fault Refusal :=
  vecC2 (.vcmpLe d a b w) d a b (widthOf w) (fun n a b => decide (toS a n ≤ toS b n)) s

/-- vcmp.ltu (R143). -/
def execVcmpLtu (d : BitVec 3) (a b : Src) (w : BitVec 2) (s : State) : Host.Outcome State Fault Refusal :=
  vecC2 (.vcmpLtu d a b w) d a b (widthOf w) (fun _ a b => decide (a < b)) s

/-- vcmp.leu (R143). -/
def execVcmpLeu (d : BitVec 3) (a b : Src) (w : BitVec 2) (s : State) : Host.Outcome State Fault Refusal :=
  vecC2 (.vcmpLeu d a b w) d a b (widthOf w) (fun _ a b => decide (a ≤ b)) s

/-! Permutes and scans (R151). -/

/-- b read as one number, signed: a register's whole value, or a vector's element 0 (R151). -/
def State.vint (s : State) (b : Src) (w : Nat) : Int :=
  if b.k = 0 then toS (elem (s.me.vreg b.n) w 0) (8 * w) else (s.scalar b true).toInt

/-- A permute: f gives element j of the result from the elements of a and of b (R151). -/
def permV (i : Instr) (d : BitVec 5) (a b : Src) (w : Nat) (f : (Nat → Nat) → (Nat → Nat) → Int → Nat → Nat) (s : State) :
    Host.Outcome State Fault Refusal :=
  run i s fun s =>
    let x := s.vsrc a (b.k ≠ 3) w
    let y := s.vsrc b true w
    .ok (s.putV d w (buildV w (f (elem x w) (elem y w) (s.vint b w))))

/-- The shuffles of vshuf on n elements (R151). -/
def shufIdx (m n j : Nat) : Nat :=
  if m = 0 then (if j < n / 2 then 2 * j else 2 * (j - n / 2) + 1)
  else if m = 1 then (if j % 2 = 0 then j / 2 else n / 2 + j / 2)
  else if m = 2 then n - 1 - j
  else j ^^^ 1

/-- Element j shifted by k, zero from outside (R151). -/
def slideEl (n : Nat) (x : Nat → Nat) (k : Int) (j : Nat) : Nat :=
  if 0 ≤ (j : Int) + k ∧ (j : Int) + k < n then x ((j : Int) + k).toNat else 0

/-- An instruction that writes every element of d from the active elements (R132, R151). -/
def wholeV (i : Instr) (d : BitVec 5) (a b : Src) (w : Nat) (f : PReg → (Nat → Nat) → Nat → Nat → Nat) (s : State) :
    Host.Outcome State Fault Refusal :=
  run i s fun s =>
    let x := s.vsrc a (b.k ≠ 3) w
    let y := s.vnum b true w
    .ok (s.setV d (buildV w (f s.me.pred (elem x w) y)))

/-- Active elements below place j. -/
def activeBelow (p : PReg) (w j : Nat) : Nat := ((List.range j).filter fun k => active p w k).length
/-- The active places among n. -/
def actives (p : PReg) (w : Nat) : List Nat := (List.range (elems w)).filter fun j => active p w j
/-- The sum of the active elements up to place j. -/
def prefixSum (p : PReg) (w : Nat) (x : Nat → Nat) (j : Nat) : Nat :=
  (List.range (j + 1)).foldl (fun t k => if active p w k then t + x k else t) 0

/-- vbcast (R151). -/
def execVbcast (d : BitVec 5) (a : Src) (w : BitVec 2) (s : State) : Host.Outcome State Fault Refusal :=
  run (.vbcast d a w) s fun s =>
    let x := s.vnum a true (widthOf w)
    .ok (s.putV d (widthOf w) (buildV (widthOf w) fun _ => x))

/-- vperm (R151). -/
def execVperm (d : BitVec 5) (a b : Src) (w : BitVec 2) (s : State) : Host.Outcome State Fault Refusal :=
  permV (.vperm d a b w) d a b (widthOf w) (fun x y _ j => x (y j % elems (widthOf w))) s

/-- vshuf (R151). -/
def execVshuf (d : BitVec 5) (a b : Src) (w : BitVec 2) (s : State) : Host.Outcome State Fault Refusal :=
  permV (.vshuf d a b w) d a b (widthOf w) (fun x _ k j => x (shufIdx (k % 4).toNat (elems (widthOf w)) j)) s

/-- vslide (R151). -/
def execVslide (d : BitVec 5) (a b : Src) (w : BitVec 2) (s : State) : Host.Outcome State Fault Refusal :=
  permV (.vslide d a b w) d a b (widthOf w) (fun x _ k j => slideEl (elems (widthOf w)) x k j) s

/-- vcompress (R151, R132). -/
def execVcompress (d : BitVec 5) (a b : Src) (w : BitVec 2) (s : State) : Host.Outcome State Fault Refusal :=
  wholeV (.vcompress d a b w) d a b (widthOf w) (fun p x y j => match (actives p (widthOf w))[j]? with
    | some k => x k
    | none => y) s

/-- vexpand (R151, R132). -/
def execVexpand (d : BitVec 5) (a b : Src) (w : BitVec 2) (s : State) : Host.Outcome State Fault Refusal :=
  wholeV (.vexpand d a b w) d a b (widthOf w) (fun p x y j => if active p (widthOf w) j then x (activeBelow p (widthOf w) j) else y) s

/-- vpopc (R151). -/
def execVpopc (d : BitVec 5) (a : Src) (w : BitVec 2) (s : State) : Host.Outcome State Fault Refusal :=
  vecI1 (.vpopc d a w) d a (widthOf w) (fun n x => popCount x n) s

/-- vclmul (R151, R85). -/
def execVclmul (d : BitVec 5) (a b : Src) (w : BitVec 2) (s : State) : Host.Outcome State Fault Refusal :=
  vecI2 (.vclmul d a b w) d a b (widthOf w) (fun n a b => clprod a b n % 2 ^ n) s

/-- vprefix.add (R151). -/
def execVprefixAdd (d : BitVec 5) (a b : Src) (w : BitVec 2) (s : State) : Host.Outcome State Fault Refusal :=
  run (.vprefixAdd d a b w) s fun s =>
    let x := s.vsrc a (b.k ≠ 3) (widthOf w)
    let y := s.vnum b true (widthOf w)
    let p := s.me.pred
    .ok (s.putV d (widthOf w) (buildV (widthOf w) fun j => (y + prefixSum p (widthOf w) (elem x (widthOf w)) j) % 2 ^ (8 * widthOf w)))

/-! Reductions (R152). -/

/-- An integer reduction of the active elements of a, from b (R152). -/
def reduceV (i : Instr) (d : BitVec 4) (a : BitVec 5) (b : Src) (w : Nat) (f : Nat → Nat → Nat → Nat) (s : State) :
    Host.Outcome State Fault Refusal :=
  run i s fun s =>
    let x := s.me.vreg a
    let r := (actives s.me.pred w).foldl (fun t j => f (8 * w) t (elem x w j)) (s.vnum b true w)
    .ok (s.setS d (BitVec.ofInt 64 (toS r (8 * w))))

/-- vredadd (R152). -/
def execVredadd (d : BitVec 4) (a : BitVec 5) (b : Src) (w : BitVec 2) (s : State) : Host.Outcome State Fault Refusal :=
  reduceV (.vredadd d a b w) d a b (widthOf w) (fun n a b => (a + b) % 2 ^ n) s

/-- vredmin (R152). -/
def execVredmin (d : BitVec 4) (a : BitVec 5) (b : Src) (w : BitVec 2) (s : State) : Host.Outcome State Fault Refusal :=
  reduceV (.vredmin d a b w) d a b (widthOf w) elMin s

/-- vredmax (R152). -/
def execVredmax (d : BitVec 4) (a : BitVec 5) (b : Src) (w : BitVec 2) (s : State) : Host.Outcome State Fault Refusal :=
  reduceV (.vredmax d a b w) d a b (widthOf w) elMax s

/-! Predicates (R144). -/

/-- A predicate instruction with a predicate destination: the governing predicate masks the result bit by bit (R144). -/
def predP (i : Instr) (d : BitVec 3) (f : Strand → PReg) (s : State) : Host.Outcome State Fault Refusal :=
  run i s fun s =>
    let g := s.me.pred
    let r := (f s.me &&& g) ||| (s.me.preg d &&& ~~~g)
    .ok ((s.setP d r).traceMe 2 0 r)

/-- pand (R144). -/
def execPand (d a b : BitVec 3) (s : State) : Host.Outcome State Fault Refusal :=
  predP (.pand d a b) d (fun x => x.preg a &&& x.preg b) s

/-- por (R144). -/
def execPor (d a b : BitVec 3) (s : State) : Host.Outcome State Fault Refusal :=
  predP (.por d a b) d (fun x => x.preg a ||| x.preg b) s

/-- pxor (R144). -/
def execPxor (d a b : BitVec 3) (s : State) : Host.Outcome State Fault Refusal :=
  predP (.pxor d a b) d (fun x => x.preg a ^^^ x.preg b) s

/-- pnot (R144). -/
def execPnot (d a : BitVec 3) (s : State) : Host.Outcome State Fault Refusal :=
  predP (.pnot d a) d (fun x => ~~~(x.preg a)) s

/-- pcnt (R144). -/
def execPcnt (d : BitVec 4) (a : BitVec 3) (s : State) : Host.Outcome State Fault Refusal :=
  run (.pcnt d a) s fun s => .ok (s.setS d (BitVec.ofNat 64 (popCount (s.me.preg a &&& s.me.pred).toNat 64)))

/-- pfirst (R144). -/
def execPfirst (d a : BitVec 3) (s : State) : Host.Outcome State Fault Refusal :=
  predP (.pfirst d a) d (fun x => x.preg a &&& -(x.preg a)) s

/-- pmov.s (R144). -/
def execPmovS (d : BitVec 4) (a : BitVec 3) (s : State) : Host.Outcome State Fault Refusal :=
  run (.pmovS d a) s fun s => .ok (s.setS d (s.me.preg a &&& s.me.pred))

/-- ps.mov (R144). -/
def execPsMov (d : BitVec 3) (a : BitVec 4) (s : State) : Host.Outcome State Fault Refusal :=
  predP (.psMov d a) d (fun x => x.sreg a) s

/-- vsel (R146; a source that is no vector gives its low byte to every byte: R131, DEDUCED, log 119). -/
def execVsel (d a : BitVec 5) (b c : Src) (s : State) : Host.Outcome State Fault Refusal :=
  run (.vsel d a b c) s fun s =>
    let x := s.me.vreg a
    let y := s.vsrc b (c.k ≠ 3) 1
    let z := s.vsrc c true 1
    .ok (s.putV d 1 ((z &&& x) ||| (~~~z &&& y)))

end Sys2Proof.Machine
end

