-- ==== Sys2Proof/Machine/VectorFp.lean ====
section
/-! DEFINITION. Vector floating-point instructions (R133, R143, R145, R146), conversions (R147) and the four-bit codec (R148 to
R150), vfredadd (R60, R152). -/

namespace Sys2Proof.Machine

/-- The result and flags of a unary floating-point operation on the active elements (R47, R133). -/
def fpEls1 (f : FFmt) (p : PReg) (x : VReg) (g : Nat → Nat × BitVec 5) : VReg × BitVec 5 :=
  let w := f.bytes
  (buildV w fun j => if active p w j then (g (elem x w j)).1 else 0, orFlags p w fun j => (g (elem x w j)).2)

/-- The result and flags of a binary one. -/
def fpEls2 (f : FFmt) (p : PReg) (x y : VReg) (g : Nat → Nat → Nat × BitVec 5) : VReg × BitVec 5 :=
  let w := f.bytes
  (buildV w fun j => if active p w j then (g (elem x w j) (elem y w j)).1 else 0, orFlags p w fun j => (g (elem x w j) (elem y w j)).2)

/-- A binary floating-point vector instruction (R133, R145): g takes the format, the rounding mode and the two elements. -/
def vecF2 (i : Instr) (d : BitVec 5) (a b : Src) (c : BitVec 2) (g : FFmt → BitVec 2 → Nat → Nat → Nat × BitVec 5) (s : State) :
    Host.Outcome State Fault Refusal :=
  run i s fun s =>
    let f := fmtOf c
    let r := fpEls2 f s.me.pred (s.fsrc a (b.k ≠ 3) f) (s.fsrc b true f) (g f s.me.rounding)
    .ok ((s.putV d f.bytes r.1).raise r.2)

/-- A unary floating-point vector instruction (R133, R145). -/
def vecF1 (i : Instr) (d : BitVec 5) (a : Src) (c : BitVec 2) (g : FFmt → BitVec 2 → Nat → Nat × BitVec 5) (s : State) :
    Host.Outcome State Fault Refusal :=
  run i s fun s =>
    let f := fmtOf c
    let r := fpEls1 f s.me.pred (s.fsrc a true f) (g f s.me.rounding)
    .ok ((s.putV d f.bytes r.1).raise r.2)

/-- A compare of floating-point elements (R143, R46). -/
def vecFC (i : Instr) (d : BitVec 3) (a b : Src) (c : BitVec 2) (q : FCmp) (s : State) : Host.Outcome State Fault Refusal :=
  run i s fun s =>
    let f := fmtOf c
    let x := s.fsrc a (b.k ≠ 3) f
    let y := s.fsrc b true f
    let g (j : Nat) := fCompare f q (elem x f.bytes j) (elem y f.bytes j)
    let fl := orFlags s.me.pred f.bytes fun j => (g j).2
    .ok ((s.putP d f.bytes fun j => (g j).1).raise fl)

/-- A long-latency vector operation whose result is known: it takes a ring entry of KIND 2, and its result and flags commit at
window close (R47, R71, R145). -/
def longV (i : Instr) (s : State) (L : BitVec 4) (args : BitVec 32) (c : Commit) (fl : BitVec 5) : Except Stop State := do
  let (s, q) ← ringTake s i 2 args 0
  .ok (s.addOp { (newOp s L .plain (some q)) with done := true, commit := c, flags := fl })

/-- vfma and vfms (R146): c's sign is turned for vfms. -/
def fusedV (i : Instr) (d a : BitVec 5) (b c : Src) (neg : Bool) (s : State) : Host.Outcome State Fault Refusal :=
  run i s fun s =>
    let f := fmtOf s.me.fmt
    let w := f.bytes
    let x := s.me.vreg a
    let y := s.fsrc b (c.k ≠ 3) f
    let z := s.fsrc c true f
    let p := s.me.pred
    let g (j : Nat) :=
      let t := f.decode (elem z w j)
      fFma f s.me.rounding (f.decode (elem x w j)) (f.decode (elem y w j)) (if neg then t.negate else t)
    .ok ((s.putV d w (buildV w fun j => if active p w j then (g j).1 else 0)).raise (orFlags p w fun j => (g j).2))

/-- vfadd (R145). -/
def execVfadd (d : BitVec 5) (a b : Src) (f : BitVec 2) (s : State) : Host.Outcome State Fault Refusal :=
  vecF2 (.vfadd d a b f) d a b f (fun f rm x y => fAdd f rm (f.decode x) (f.decode y)) s

/-- vfsub (R145). -/
def execVfsub (d : BitVec 5) (a b : Src) (f : BitVec 2) (s : State) : Host.Outcome State Fault Refusal :=
  vecF2 (.vfsub d a b f) d a b f (fun f rm x y => fAdd f rm (f.decode x) (f.decode y).negate) s

/-- vfmul (R145). -/
def execVfmul (d : BitVec 5) (a b : Src) (f : BitVec 2) (s : State) : Host.Outcome State Fault Refusal :=
  vecF2 (.vfmul d a b f) d a b f (fun f rm x y => fMul f rm (f.decode x) (f.decode y)) s

/-- vfmin (R145, R46). -/
def execVfmin (d : BitVec 5) (a b : Src) (f : BitVec 2) (s : State) : Host.Outcome State Fault Refusal :=
  vecF2 (.vfmin d a b f) d a b f (fun f _ x y => fMinMax f false x y) s

/-- vfmax (R145, R46). -/
def execVfmax (d : BitVec 5) (a b : Src) (f : BitVec 2) (s : State) : Host.Outcome State Fault Refusal :=
  vecF2 (.vfmax d a b f) d a b f (fun f _ x y => fMinMax f true x y) s

/-- vrcp (R145). -/
def execVrcp (d : BitVec 5) (a : Src) (f : BitVec 2) (s : State) : Host.Outcome State Fault Refusal :=
  vecF1 (.vrcp d a f) d a f (fun f rm x => fRcp f rm (f.decode x)) s

/-- vrsqrt (R145). -/
def execVrsqrt (d : BitVec 5) (a : Src) (f : BitVec 2) (s : State) : Host.Outcome State Fault Refusal :=
  vecF1 (.vrsqrt d a f) d a f (fun f rm x => fRsqrt f rm (f.decode x)) s

/-- vfcmp.eq (R143, R46). -/
def execVfcmpEq (d : BitVec 3) (a b : Src) (f : BitVec 2) (s : State) : Host.Outcome State Fault Refusal :=
  vecFC (.vfcmpEq d a b f) d a b f .eq s

/-- vfcmp.lt (R143, R46). -/
def execVfcmpLt (d : BitVec 3) (a b : Src) (f : BitVec 2) (s : State) : Host.Outcome State Fault Refusal :=
  vecFC (.vfcmpLt d a b f) d a b f .lt s

/-- vfcmp.le (R143, R46). -/
def execVfcmpLe (d : BitVec 3) (a b : Src) (f : BitVec 2) (s : State) : Host.Outcome State Fault Refusal :=
  vecFC (.vfcmpLe d a b f) d a b f .le s

/-- vfcmp.un (R143, R46). -/
def execVfcmpUn (d : BitVec 3) (a b : Src) (f : BitVec 2) (s : State) : Host.Outcome State Fault Refusal :=
  vecFC (.vfcmpUn d a b f) d a b f .un s

/-- vfdiv (R145). -/
def execVfdiv (f : BitVec 2) (d : BitVec 5) (a b : Src) (l : BitVec 4) (s : State) : Host.Outcome State Fault Refusal :=
  run (.vfdiv f d a b l) s fun s =>
    let t := fmtOf f
    let p := s.me.pred
    let r := fpEls2 t p (s.fsrc a (b.k ≠ 3) t) (s.fsrc b true t) fun x y => fDiv t s.me.rounding (t.decode x) (t.decode y)
    longV (.vfdiv f d a b l) s l 0 ⟨none, [(d, r.1, activeLanes p t.bytes)], s.me.zeroing⟩ r.2

/-- vfsqrt (R145). -/
def execVfsqrt (f : BitVec 2) (d : BitVec 5) (a : Src) (l : BitVec 4) (s : State) : Host.Outcome State Fault Refusal :=
  run (.vfsqrt f d a l) s fun s =>
    let t := fmtOf f
    let p := s.me.pred
    let r := fpEls1 t p (s.fsrc a true t) fun x => fSqrt t s.me.rounding (t.decode x)
    longV (.vfsqrt f d a l) s l 0 ⟨none, [(d, r.1, activeLanes p t.bytes)], s.me.zeroing⟩ r.2

/-- vfma (R146). -/
def execVfma (d a : BitVec 5) (b c : Src) (s : State) : Host.Outcome State Fault Refusal :=
  fusedV (.vfma d a b c) d a b c false s

/-- vfms (R146). -/
def execVfms (d a : BitVec 5) (b c : Src) (s : State) : Host.Outcome State Fault Refusal :=
  fusedV (.vfms d a b c) d a b c true s

/-! Conversions (R147). -/

/-- Where vcvt's part h takes destination element e from: the source element, if a part names e (R147). -/
def cvtFrom (ws wd h e : Nat) : Option Nat :=
  let n := 64 / max ws wd
  if ws < wd then (if e < n then some (e + h * n) else none)
  else if h * n ≤ e ∧ e < h * n + n then some (e - h * n) else none

/-- vcvt: w is B[3:2], the width of an integer destination, and v is B[1:0], that of an integer source (R147). -/
def execVcvt (c : BitVec 3) (d a : BitVec 5) (h : BitVec 1) (w v : BitVec 2) (t : BitVec 3) (s : State) : Host.Outcome State Fault Refusal :=
  run (.vcvt c d a h w v t) s fun s =>
    let ws := cvtWidth c v
    let wd := cvtWidth t w
    let x := s.me.vreg a
    let p := s.me.pred
    let old := s.me.vreg d
    let g (e : Nat) : Option (Nat × BitVec 5) := (cvtFrom ws wd h.toNat e).map fun k =>
      convert c t ws wd s.me.rounding s.me.sat (elem x ws k)
    let r := buildV wd fun e => match g e with
      | some q => if active p wd e then q.1 else if s.me.zeroing then 0 else elem old wd e
      | none => elem old wd e
    .ok ((s.setV d r).raise (orFlags p wd fun e => ((g e).map (·.2)).getD 0))

/-! The four-bit codec (R148 to R150). -/

/-- The offset of the lowest invalid scale word among the blocks of n lanes that have an active lane (R53, R132, R149). -/
def vdecBad (p : PReg) (l : List Byte) (geom n : Nat) : Option Nat :=
  let g := geomCodes geom
  ((List.range ((n + g - 1) / g)).find? fun i =>
    scaleBad (leNat ((l.drop (i * geomBytes geom)).take 4)) &&
      (List.range g).any fun k => decide (i * g + k < n) && activeLane p (i * g + k)).map (· * geomBytes geom)

/-- The lanes that vdec4 decodes from the image in a register (R149). -/
def vdecLanes (l : List Byte) (geom n : Nat) : VReg × VReg :=
  let g := geomCodes geom
  let f (k : Nat) : Nat := if k < n then decode4 ((l.drop (k / g * geomBytes geom)).take (geomBytes geom)) (k % g) else 0
  (buildV 2 f, buildV 2 fun j => f (32 + j))

/-- The results of vector d, and of d + 1 for a pair. -/
def pairCommit4 (d : BitVec 5) (pair : Bool) (v : VReg × VReg) (mask : PReg) (zero : Bool) : Commit :=
  ⟨none, (d, v.1, mask) :: (if pair then [(d + 1, v.2, mask)] else []), zero⟩

/-- vdec4 (R149). -/
def execVdec4 (d a : BitVec 5) (g : BitVec 2) (l : BitVec 4) (s : State) : Host.Outcome State Fault Refusal :=
  run (.vdec4 d a g l) s fun s => do
    let n := if g = 2 then 64 else 32
    let img := toBytes (s.me.vreg a)
    let p := s.me.pred
    let bad := vdecBad p img g.toNat n
    let args := BitVec.ofNat 32 (a.toNat + 256 * bad.getD 0)
    let c := pairCommit4 d (g = 2) (vdecLanes img g.toNat n) (activeLanes p 2) s.me.zeroing
    let q := s.me.seqNext
    let s ← longV (.vdec4 d a g l) s l args c 0
    .ok (if bad.isSome then lateFault s s.cur.1 s.cur.2 q .scaleInvalid else s)

/-- The greatest magnitude among the active lanes that are not NaN: infinite, or a finite datum (R150). -/
def maxMag : List FVal → FVal
  | [] => .fin false 0 0
  | x :: t =>
    match x, maxMag t with
    | .inf _, _ => .inf false
    | _, .inf _ => .inf false
    | .fin _ m e, y => if fLt y (.fin false m e) then .fin false m e else y
    | .nan _, y => y

/-- Eight times the greatest code value of a type (R150). -/
def codeTop8 (ty : Nat) : Nat := if ty = 0 then 56 else if ty = 1 then 48 else if ty = 2 then 64 else 96

/-- The scale word of a block, without TYPE (R150). -/
def blockScale (ty : Nat) (l : List FVal) : Nat :=
  match maxMag l with
  | .inf _ => 254 * 2 ^ 22 + (2 ^ 22 - 1)
  | .fin _ m e => if m = 0 then 127 * 2 ^ 22 else scaleFor m e (codeTop8 ty)
  | .nan _ => 127 * 2 ^ 22

/-- Two codes a byte, the even lane in the low half (R49). -/
def packCodes : List Nat → List Byte
  | a :: b :: t => BitVec.ofNat 8 (a + 16 * b) :: packCodes t
  | [a] => [BitVec.ofNat 8 a]
  | [] => []

/-- One block of venc4: lanes as (active, datum); its bytes and flags (R150; an inactive lane takes 0x0: DEDUCED, log 120). -/
def encodeBlock (ty : Nat) (rm : BitVec 2) (l : List (Bool × FVal)) : List Byte × BitVec 5 :=
  let sc := blockScale ty ((l.filter (·.1)).map (·.2))
  let r := l.map fun q => if q.1 then encodeLane ty rm sc q.2 else (0, 0)
  (leBytes 4 (ty * 2 ^ 30 + sc) ++ packCodes (r.map (·.1)), r.foldl (fun a q => a ||| q.2) 0)

/-- The blocks of venc4, of g lanes each. -/
def encodeBlocks (ty : Nat) (rm : BitVec 2) (g : Nat) : Nat → List (Bool × FVal) → List Byte × BitVec 5
  | 0, _ => ([], 0)
  | n + 1, l =>
    let a := encodeBlock ty rm (l.take g)
    let b := encodeBlocks ty rm g n (l.drop g)
    (a.1 ++ b.1, a.2 ||| b.2)

/-- venc4 (R150). -/
def execVenc4 (d a : BitVec 5) (g t : BitVec 2) (s : State) : Host.Outcome State Fault Refusal :=
  run (.venc4 d a g t) s fun s =>
    let n := if g = 2 then 64 else 32
    let p := s.me.pred
    let lanes := (List.range n).map fun k =>
      (activeLane p k, bf16.decode (elem (s.me.vreg (a + if k < 32 then 0 else 1)) 2 (k % 32)))
    let r := encodeBlocks t.toNat s.me.rounding (geomCodes g.toNat) (n / geomCodes g.toNat) lanes
    .ok ((s.setV d (ofBytes r.1)).raise r.2)

/-! The tree reduction (R60, R152). -/

/-- One level of the tree: pairs of places, empty where no element is active (R60). -/
def treeLevel (f : FFmt) (rm : BitVec 2) : List (Option Nat) → List (Option Nat) × BitVec 5
  | a :: b :: t =>
    let r := treeLevel f rm t
    match a, b with
    | some x, some y => let q := fAdd f rm (f.decode x) (f.decode y); (some q.1 :: r.1, q.2 ||| r.2)
    | some x, none => (some x :: r.1, r.2)
    | none, y => (y :: r.1, r.2)
  | l => (l, 0)

/-- n levels of the tree. -/
def treeSum (f : FFmt) (rm : BitVec 2) : Nat → List (Option Nat) → List (Option Nat) × BitVec 5
  | 0, l => (l, 0)
  | n + 1, l => let a := treeLevel f rm l; let b := treeSum f rm n a.1; (b.1, a.2 ||| b.2)

/-- vfredadd (R60, R152; a literal b is converted to the format: DEDUCED, log 121). -/
def execVfredadd (d : BitVec 4) (a : BitVec 5) (b : Src) (f : BitVec 2) (s : State) : Host.Outcome State Fault Refusal :=
  run (.vfredadd d a b f) s fun s =>
    let t := fmtOf f
    let w := t.bytes
    let rm := s.me.rounding
    let p := s.me.pred
    let x := s.me.vreg a
    let r := treeSum t rm 5 ((List.range (elems w)).map fun j => if active p w j then some (elem x w j) else none)
    let q := fAdd t rm (t.decode ((r.1.head?.bind id).getD 0)) (t.decode (elem (s.fsrc b true t) w 0))
    .ok ((s.setS d (BitVec.ofNat 64 q.1)).raise (r.2 ||| q.2))

end Sys2Proof.Machine
end

