-- ==== Sys2Proof/Machine/Dispatch.lean ====
section
/-! DEFINITION. What each instruction of the opcode table does: one arm per constructor. -/

namespace Sys2Proof.Machine

/-- One instruction at the state: a direct call of its meaning. -/
def exec (i : Instr) (s : State) : Host.Outcome State Fault Refusal :=
  match i with
  | .add d a b => Sys2Proof.Machine.execAdd d a b s
  | .sub d a b => Sys2Proof.Machine.execSub d a b s
  | .min d a b => Sys2Proof.Machine.execMin d a b s
  | .max d a b => Sys2Proof.Machine.execMax d a b s
  | .minu d a b => Sys2Proof.Machine.execMinu d a b s
  | .maxu d a b => Sys2Proof.Machine.execMaxu d a b s
  | .and d a b => Sys2Proof.Machine.execAnd d a b s
  | .or d a b => Sys2Proof.Machine.execOr d a b s
  | .xor d a b => Sys2Proof.Machine.execXor d a b s
  | .andn d a b => Sys2Proof.Machine.execAndn d a b s
  | .shl d a b => Sys2Proof.Machine.execShl d a b s
  | .shr d a b => Sys2Proof.Machine.execShr d a b s
  | .sar d a b => Sys2Proof.Machine.execSar d a b s
  | .rol d a b => Sys2Proof.Machine.execRol d a b s
  | .clz d a => Sys2Proof.Machine.execClz d a s
  | .ctz d a => Sys2Proof.Machine.execCtz d a s
  | .popc d a => Sys2Proof.Machine.execPopc d a s
  | .seq d a b => Sys2Proof.Machine.execSeq d a b s
  | .sne d a b => Sys2Proof.Machine.execSne d a b s
  | .slt d a b => Sys2Proof.Machine.execSlt d a b s
  | .sltu d a b => Sys2Proof.Machine.execSltu d a b s
  | .sle d a b => Sys2Proof.Machine.execSle d a b s
  | .sleu d a b => Sys2Proof.Machine.execSleu d a b s
  | .sel d a b => Sys2Proof.Machine.execSel d a b s
  | .mul d a b => Sys2Proof.Machine.execMul d a b s
  | .mulh d a b => Sys2Proof.Machine.execMulh d a b s
  | .mulhu d a b => Sys2Proof.Machine.execMulhu d a b s
  | .div d a b => Sys2Proof.Machine.execDiv d a b s
  | .divu d a b => Sys2Proof.Machine.execDivu d a b s
  | .rem d a b => Sys2Proof.Machine.execRem d a b s
  | .remu d a b => Sys2Proof.Machine.execRemu d a b s
  | .clmul d a b => Sys2Proof.Machine.execClmul d a b s
  | .clmulh d a b => Sys2Proof.Machine.execClmulh d a b s
  | .bswap d a => Sys2Proof.Machine.execBswap d a s
  | .addI d a j => Sys2Proof.Machine.execAddI d a j s
  | .andI d a j => Sys2Proof.Machine.execAndI d a j s
  | .orI d a j => Sys2Proof.Machine.execOrI d a j s
  | .xorI d a j => Sys2Proof.Machine.execXorI d a j s
  | .shlI d a n => Sys2Proof.Machine.execShlI d a n s
  | .shrI d a n => Sys2Proof.Machine.execShrI d a n s
  | .sarI d a n => Sys2Proof.Machine.execSarI d a n s
  | .sltI d a j => Sys2Proof.Machine.execSltI d a j s
  | .sltuI d a j => Sys2Proof.Machine.execSltuI d a j s
  | .beq a b o => Sys2Proof.Machine.execBeq a b o s
  | .bne a b o => Sys2Proof.Machine.execBne a b o s
  | .blt a b o => Sys2Proof.Machine.execBlt a b o s
  | .bge a b o => Sys2Proof.Machine.execBge a b o s
  | .bltu a b o => Sys2Proof.Machine.execBltu a b o s
  | .bgeu a b o => Sys2Proof.Machine.execBgeu a b o s
  | .bz a o => Sys2Proof.Machine.execBz a o s
  | .bnz a o => Sys2Proof.Machine.execBnz a o s
  | .jmp o => Sys2Proof.Machine.execJmp o s
  | .call o => Sys2Proof.Machine.execCall o s
  | .jr a => Sys2Proof.Machine.execJr a s
  | .callr a => Sys2Proof.Machine.execCallr a s
  | .ret => Sys2Proof.Machine.execRet s
  | .yield => Sys2Proof.Machine.execYield s
  | .exit => Sys2Proof.Machine.execExit s
  | .trap => Sys2Proof.Machine.execTrap s
  | .nop => Sys2Proof.Machine.execNop s
  | .hintImm p => Sys2Proof.Machine.execHintImm p s
  | .hintMod p => Sys2Proof.Machine.execHintMod p s
  | .hintSched p => Sys2Proof.Machine.execHintSched p s
  | .ldB d b o l => Sys2Proof.Machine.execLdB d b o l s
  | .ldBs d b o l => Sys2Proof.Machine.execLdBs d b o l s
  | .ldH d b o l => Sys2Proof.Machine.execLdH d b o l s
  | .ldHs d b o l => Sys2Proof.Machine.execLdHs d b o l s
  | .ldW d b o l => Sys2Proof.Machine.execLdW d b o l s
  | .ldWs d b o l => Sys2Proof.Machine.execLdWs d b o l s
  | .ldD d b o l => Sys2Proof.Machine.execLdD d b o l s
  | .stB d b o => Sys2Proof.Machine.execStB d b o s
  | .stH d b o => Sys2Proof.Machine.execStH d b o s
  | .stW d b o => Sys2Proof.Machine.execStW d b o s
  | .stD d b o => Sys2Proof.Machine.execStD d b o s
  | .amoAdd d b v x o l => Sys2Proof.Machine.execAmoAdd d b v x o l s
  | .amoXchg d b v x o l => Sys2Proof.Machine.execAmoXchg d b v x o l s
  | .amoCas d b v x o l => Sys2Proof.Machine.execAmoCas d b v x o l s
  | .amoMin d b v x o l => Sys2Proof.Machine.execAmoMin d b v x o l s
  | .amoMax d b v x o l => Sys2Proof.Machine.execAmoMax d b v x o l s
  | .amoAnd d b v x o l => Sys2Proof.Machine.execAmoAnd d b v x o l s
  | .amoOr d b v x o l => Sys2Proof.Machine.execAmoOr d b v x o l s
  | .amoXor d b v x o l => Sys2Proof.Machine.execAmoXor d b v x o l s
  | .bind a b => Sys2Proof.Machine.execBind a b s
  | .unbind a b => Sys2Proof.Machine.execUnbind a b s
  | .acq d a b => Sys2Proof.Machine.execAcq d a b s
  | .acqAll => Sys2Proof.Machine.execAcqAll s
  | .rel a b => Sys2Proof.Machine.execRel a b s
  | .fenceS => Sys2Proof.Machine.execFenceS s
  | .fenceX a b => Sys2Proof.Machine.execFenceX a b s
  | .landSet a b => Sys2Proof.Machine.execLandSet a b s
  | .vld d b o l => Sys2Proof.Machine.execVld d b o l s
  | .vst d b o => Sys2Proof.Machine.execVst d b o s
  | .vldp d b o l => Sys2Proof.Machine.execVldp d b o l s
  | .vstp d b o => Sys2Proof.Machine.execVstp d b o s
  | .vgather w d a b l => Sys2Proof.Machine.execVgather w d a b l s
  | .vscatter w d a b l => Sys2Proof.Machine.execVscatter w d a b l s
  | .vadd d a b x w => Sys2Proof.Machine.execVadd d a b x w s
  | .vsub d a b x w => Sys2Proof.Machine.execVsub d a b x w s
  | .vmul d a b w => Sys2Proof.Machine.execVmul d a b w s
  | .vmulh d a b w => Sys2Proof.Machine.execVmulh d a b w s
  | .vmin d a b w => Sys2Proof.Machine.execVmin d a b w s
  | .vmax d a b w => Sys2Proof.Machine.execVmax d a b w s
  | .vabs d a x w => Sys2Proof.Machine.execVabs d a x w s
  | .vneg d a x w => Sys2Proof.Machine.execVneg d a x w s
  | .vand d a b => Sys2Proof.Machine.execVand d a b s
  | .vor d a b => Sys2Proof.Machine.execVor d a b s
  | .vxor d a b => Sys2Proof.Machine.execVxor d a b s
  | .vandn d a b => Sys2Proof.Machine.execVandn d a b s
  | .vshl d a b w => Sys2Proof.Machine.execVshl d a b w s
  | .vshr d a b w => Sys2Proof.Machine.execVshr d a b w s
  | .vsar d a b w => Sys2Proof.Machine.execVsar d a b w s
  | .vcmpEq d a b w => Sys2Proof.Machine.execVcmpEq d a b w s
  | .vcmpNe d a b w => Sys2Proof.Machine.execVcmpNe d a b w s
  | .vcmpLt d a b w => Sys2Proof.Machine.execVcmpLt d a b w s
  | .vcmpLe d a b w => Sys2Proof.Machine.execVcmpLe d a b w s
  | .vcmpLtu d a b w => Sys2Proof.Machine.execVcmpLtu d a b w s
  | .vcmpLeu d a b w => Sys2Proof.Machine.execVcmpLeu d a b w s
  | .vfadd d a b f => Sys2Proof.Machine.execVfadd d a b f s
  | .vfsub d a b f => Sys2Proof.Machine.execVfsub d a b f s
  | .vfmul d a b f => Sys2Proof.Machine.execVfmul d a b f s
  | .vfmin d a b f => Sys2Proof.Machine.execVfmin d a b f s
  | .vfmax d a b f => Sys2Proof.Machine.execVfmax d a b f s
  | .vrcp d a f => Sys2Proof.Machine.execVrcp d a f s
  | .vrsqrt d a f => Sys2Proof.Machine.execVrsqrt d a f s
  | .vfcmpEq d a b f => Sys2Proof.Machine.execVfcmpEq d a b f s
  | .vfcmpLt d a b f => Sys2Proof.Machine.execVfcmpLt d a b f s
  | .vfcmpLe d a b f => Sys2Proof.Machine.execVfcmpLe d a b f s
  | .vfcmpUn d a b f => Sys2Proof.Machine.execVfcmpUn d a b f s
  | .vfdiv f d a b l => Sys2Proof.Machine.execVfdiv f d a b l s
  | .vfsqrt f d a l => Sys2Proof.Machine.execVfsqrt f d a l s
  | .vfma d a b c => Sys2Proof.Machine.execVfma d a b c s
  | .vfms d a b c => Sys2Proof.Machine.execVfms d a b c s
  | .vcvt x d a h w v t => Sys2Proof.Machine.execVcvt x d a h w v t s
  | .vdec4 d a g l => Sys2Proof.Machine.execVdec4 d a g l s
  | .venc4 d a g t => Sys2Proof.Machine.execVenc4 d a g t s
  | .vbcast d a w => Sys2Proof.Machine.execVbcast d a w s
  | .vperm d a b w => Sys2Proof.Machine.execVperm d a b w s
  | .vshuf d a b w => Sys2Proof.Machine.execVshuf d a b w s
  | .vslide d a b w => Sys2Proof.Machine.execVslide d a b w s
  | .vredadd d a b w => Sys2Proof.Machine.execVredadd d a b w s
  | .vredmin d a b w => Sys2Proof.Machine.execVredmin d a b w s
  | .vredmax d a b w => Sys2Proof.Machine.execVredmax d a b w s
  | .vfredadd d a b f => Sys2Proof.Machine.execVfredadd d a b f s
  | .vcompress d a b w => Sys2Proof.Machine.execVcompress d a b w s
  | .vexpand d a b w => Sys2Proof.Machine.execVexpand d a b w s
  | .vpopc d a w => Sys2Proof.Machine.execVpopc d a w s
  | .vclmul d a b w => Sys2Proof.Machine.execVclmul d a b w s
  | .vprefixAdd d a b w => Sys2Proof.Machine.execVprefixAdd d a b w s
  | .pand d a b => Sys2Proof.Machine.execPand d a b s
  | .por d a b => Sys2Proof.Machine.execPor d a b s
  | .pxor d a b => Sys2Proof.Machine.execPxor d a b s
  | .pnot d a => Sys2Proof.Machine.execPnot d a s
  | .pcnt d a => Sys2Proof.Machine.execPcnt d a s
  | .pfirst d a => Sys2Proof.Machine.execPfirst d a s
  | .pmovS d a => Sys2Proof.Machine.execPmovS d a s
  | .psMov d a => Sys2Proof.Machine.execPsMov d a s
  | .vsel d a b c => Sys2Proof.Machine.execVsel d a b c s
  | .mma a b o m l => Sys2Proof.Machine.execMma a b o m l s
  | .mmaR a d m l => Sys2Proof.Machine.execMmaR a d m l s
  | .mmaP a d m l => Sys2Proof.Machine.execMmaP a d m l s
  | .accZero l => Sys2Proof.Machine.execAccZero l s
  | .accLd n l => Sys2Proof.Machine.execAccLd n l s
  | .accSt n l => Sys2Proof.Machine.execAccSt n l s
  | .mxOpen d a l => Sys2Proof.Machine.execMxOpen d a l s
  | .mxClose d a l => Sys2Proof.Machine.execMxClose d a l s
  | .mxRing d a b l => Sys2Proof.Machine.execMxRing d a b l s
  | .bufSet n x => Sys2Proof.Machine.execBufSet n x s
  | .bufAdvP n x => Sys2Proof.Machine.execBufAdvP n x s
  | .bufAdvC n x => Sys2Proof.Machine.execBufAdvC n x s
  | .bufQ d n => Sys2Proof.Machine.execBufQ d n s
  | .cpWait d c m t x l => Sys2Proof.Machine.execCpWait d c m t x l s
  | .cpPtr d c l => Sys2Proof.Machine.execCpPtr d c l s
  | .cpInv l => Sys2Proof.Machine.execCpInv l s
  | .fork a b => Sys2Proof.Machine.execFork a b s
  | .join a => Sys2Proof.Machine.execJoin a s
  | .migrate a => Sys2Proof.Machine.execMigrate a s
  | .texit a => Sys2Proof.Machine.execTexit a s
  | .spawnG d a => Sys2Proof.Machine.execSpawnG d a s
  | .send d a b l => Sys2Proof.Machine.execSend d a b l s
  | .sendh d a b l => Sys2Proof.Machine.execSendh d a b l s
  | .mend => Sys2Proof.Machine.execMend s
  | .wfm d a b => Sys2Proof.Machine.execWfm d a b s
  | .fbar c l => Sys2Proof.Machine.execFbar c l s
  | .fbarM c l => Sys2Proof.Machine.execFbarM c l s
  | .fbcast c d l => Sys2Proof.Machine.execFbcast c d l s
  | .fbcastTx c x d l => Sys2Proof.Machine.execFbcastTx c x d l s
  | .fcomb c x d o l => Sys2Proof.Machine.execFcomb c x d o l s
  | .fpoll c d l => Sys2Proof.Machine.execFpoll c d l s
  | .get d a b l => Sys2Proof.Machine.execGet d a b l s
  | .put d a b l => Sys2Proof.Machine.execPut d a b l s
  | .getv d a b l => Sys2Proof.Machine.execGetv d a b l s
  | .putv d a b l => Sys2Proof.Machine.execPutv d a b l s
  | .equiv a l => Sys2Proof.Machine.execEquiv a l s
  | .chsw d a b l => Sys2Proof.Machine.execChsw d a b l s
  | .map a b l => Sys2Proof.Machine.execMap a b l s
  | .grant a b l => Sys2Proof.Machine.execGrant a b l s
  | .unmap a b l => Sys2Proof.Machine.execUnmap a b l s
  | .unmapSelf a b l => Sys2Proof.Machine.execUnmapSelf a b l s
  | .mapw d a l => Sys2Proof.Machine.execMapw d a l s
  | .csrr x c => Sys2Proof.Machine.execCsrr x c s
  | .csrw x c => Sys2Proof.Machine.execCsrw x c s
  | .eret => Sys2Proof.Machine.execEret s
  | .pause => Sys2Proof.Machine.execPause s
  | .brk => Sys2Proof.Machine.execBrk s
  | .halt => Sys2Proof.Machine.execHalt s
  | .accownWrite b => Sys2Proof.Machine.execAccownWrite b s
  | .bindtabWrite v => Sys2Proof.Machine.execBindtabWrite v s
  | .watchdogWrite v => Sys2Proof.Machine.execWatchdogWrite v s
  | .fpstatWrite v => Sys2Proof.Machine.execFpstatWrite v s
  | .faultReply n => Sys2Proof.Machine.execFaultReply n s
  | .lateFaultTrap b k => Sys2Proof.Machine.execLateFaultTrap b k s
  | .watchdogDue b k => Sys2Proof.Machine.execWatchdogDue b k s
  | .watchdog b k => Sys2Proof.Machine.execWatchdog b k s
  | .preemptionRequest l => Sys2Proof.Machine.execPreemptionRequest l s
  | .deadlineExpiry b k => Sys2Proof.Machine.execDeadlineExpiry b k s
  | .forcedSave b k => Sys2Proof.Machine.execForcedSave b k s
  | .remoteStoreArrival b n => Sys2Proof.Machine.execRemoteStoreArrival b n s
  | .storeAcknowledge b n => Sys2Proof.Machine.execStoreAcknowledge b n s
  | .loadResponse b op j => Sys2Proof.Machine.execLoadResponse b op j s
  | .rrbEviction b n => Sys2Proof.Machine.execRrbEviction b n s
  | .ringEntryComplete b op => Sys2Proof.Machine.execRingEntryComplete b op s
  | .matrixCommandFire b => Sys2Proof.Machine.execMatrixCommandFire b s
  | .matrixCommandComplete b => Sys2Proof.Machine.execMatrixCommandComplete b s
  | .mmaRRequest n => Sys2Proof.Machine.execMmaRRequest n s
  | .mmaPRequest n => Sys2Proof.Machine.execMmaPRequest n s
  | .capabilityAnswer b op => Sys2Proof.Machine.execCapabilityAnswer b op s
  | .copyStart b n => Sys2Proof.Machine.execCopyStart b n s
  | .copyBegin b c => Sys2Proof.Machine.execCopyBegin b c s
  | .copyChunk b c j => Sys2Proof.Machine.execCopyChunk b c j s
  | .copyComplete b c => Sys2Proof.Machine.execCopyComplete b c s
  | .messageArrival n => Sys2Proof.Machine.execMessageArrival n s
  | .sendStatus b op => Sys2Proof.Machine.execSendStatus b op s
  | .heapReplay b => Sys2Proof.Machine.execHeapReplay b s
  | .handlerStart b => Sys2Proof.Machine.execHandlerStart b s
  | .handlerTrap b => Sys2Proof.Machine.execHandlerTrap b s
  | .migrateArrival n k => Sys2Proof.Machine.execMigrateArrival n k s
  | .strandDispatch b k blk => Sys2Proof.Machine.execStrandDispatch b k blk s
  | .stealRequest b k blk => Sys2Proof.Machine.execStealRequest b k blk s
  | .stealAnswer b k => Sys2Proof.Machine.execStealAnswer b k s
  | .stealBackoffExpiry b k => Sys2Proof.Machine.execStealBackoffExpiry b k s
  | .blockDeparture b k => Sys2Proof.Machine.execBlockDeparture b k s
  | .blockResolve b c => Sys2Proof.Machine.execBlockResolve b c s
  | .acqRetry b c => Sys2Proof.Machine.execAcqRetry b c s
  | .fbarMArrival b op => Sys2Proof.Machine.execFbarMArrival b op s
  | .footingRelease d c => Sys2Proof.Machine.execFootingRelease d c s
  | .coursePreempted l => Sys2Proof.Machine.execCoursePreempted l s
  | .launchResume l => Sys2Proof.Machine.execLaunchResume l s
  | .launch q => Sys2Proof.Machine.execLaunch q s
  | .launchPlacement l org tag win => Sys2Proof.Machine.execLaunchPlacement l org tag win s
  | .launchComplete l => Sys2Proof.Machine.execLaunchComplete l s
  | .doorbell q off size v => Sys2Proof.Machine.execDoorbell q off size v s
  | .signalStore q => Sys2Proof.Machine.execSignalStore q s
  | .signalAdd q => Sys2Proof.Machine.execSignalAdd q s
  | .signalLandSet q => Sys2Proof.Machine.execSignalLandSet q s
  | .waitCounter q => Sys2Proof.Machine.execWaitCounter q s
  | .waitLanding q => Sys2Proof.Machine.execWaitLanding q s
  | .waitSatisfied q => Sys2Proof.Machine.execWaitSatisfied q s
  | .mark q => Sys2Proof.Machine.execMark q s
  | .queueCreate sp ring lg head prio tok => Sys2Proof.Machine.execQueueCreate sp ring lg head prio tok s
  | .queueReset q => Sys2Proof.Machine.execQueueReset q s
  | .slotTick => Sys2Proof.Machine.execSlotTick s
  | .chainSwitchComplete b r => Sys2Proof.Machine.execChainSwitchComplete b r s
  | .chswLimitExpiry b r => Sys2Proof.Machine.execChswLimitExpiry b r s
  | .schedulerSwitchRequest b r form => Sys2Proof.Machine.execSchedulerSwitchRequest b r form s
  | .mapRequest n => Sys2Proof.Machine.execMapRequest n s
  | .shootdownInvalidate b w => Sys2Proof.Machine.execShootdownInvalidate b w s
  | .shootdownAcknowledge b w => Sys2Proof.Machine.execShootdownAcknowledge b w s
  | .withdrawalPoint w => Sys2Proof.Machine.execWithdrawalPoint w s
  | .spaceCreate num world tmpl tok => Sys2Proof.Machine.execSpaceCreate num world tmpl tok s
  | .spaceTeardown sp tok => Sys2Proof.Machine.execSpaceTeardown sp tok s
  | .heatSweep => Sys2Proof.Machine.execHeatSweep s
  | .ownershipTransferToA r => Sys2Proof.Machine.execOwnershipTransferToA r s
  | .transferAnswer r => Sys2Proof.Machine.execTransferAnswer r s
  | .ownershipTimeout r => Sys2Proof.Machine.execOwnershipTimeout r s
  | .ownershipTransferToP r => Sys2Proof.Machine.execOwnershipTransferToP r s
  | .hostAtomicUnsupported b op => Sys2Proof.Machine.execHostAtomicUnsupported b op s
  | .fallbackAnswer tag v => Sys2Proof.Machine.execFallbackAnswer tag v s
  | .flushRead p => Sys2Proof.Machine.execFlushRead p s
  | .flushReadComplete p => Sys2Proof.Machine.execFlushReadComplete p s
  | .heartbeatWrite d v => Sys2Proof.Machine.execHeartbeatWrite d v s
  | .heartbeatTimeout => Sys2Proof.Machine.execHeartbeatTimeout s
  | .pairMismatch d => Sys2Proof.Machine.execPairMismatch d s
  | .livenessWrite v => Sys2Proof.Machine.execLivenessWrite v s
  | .hostLoss => Sys2Proof.Machine.execHostLoss s
  | .queryState => Sys2Proof.Machine.execQueryState s
  | .resync => Sys2Proof.Machine.execResync s
  | .linkDown p => Sys2Proof.Machine.execLinkDown p s
  | .linkUp p => Sys2Proof.Machine.execLinkUp p s
  | .extentAdd base len shared => Sys2Proof.Machine.execExtentAdd base len shared s
  | .extentRelease n => Sys2Proof.Machine.execExtentRelease n s
  | .extentForcedRemoval n => Sys2Proof.Machine.execExtentForcedRemoval n s
  | .farLinePoison a => Sys2Proof.Machine.execFarLinePoison a s
  | .load sp addr len va pa tok => Sys2Proof.Machine.execLoad sp addr len va pa tok s
  | .sessionEstablish w => Sys2Proof.Machine.execSessionEstablish w s
  | .keySet w slot usage key => Sys2Proof.Machine.execKeySet w slot usage key s
  | .keyClear w slot => Sys2Proof.Machine.execKeyClear w slot s
  | .protect w base len mode slot => Sys2Proof.Machine.execProtect w base len mode slot s
  | .seal w base len slot tags => Sys2Proof.Machine.execSeal w base len slot tags s
  | .lock w mask => Sys2Proof.Machine.execLock w mask s
  | .tokens w count => Sys2Proof.Machine.execTokens w count s
  | .attest w nonce => Sys2Proof.Machine.execAttest w nonce s
  | .migrateOut w dest => Sys2Proof.Machine.execMigrateOut w dest s
  | .receipt w r => Sys2Proof.Machine.execReceipt w r s
  | .release w => Sys2Proof.Machine.execRelease w s
  | .sessionTimeout w => Sys2Proof.Machine.execSessionTimeout w s
  | .graceExpiry w => Sys2Proof.Machine.execGraceExpiry w s
  | .worldAssign d w => Sys2Proof.Machine.execWorldAssign d w s
  | .clearRoutine d => Sys2Proof.Machine.execClearRoutine d s
  | .clearTimeout d => Sys2Proof.Machine.execClearTimeout d s
  | .migrationActive w => Sys2Proof.Machine.execMigrationActive w s
  | .abortedLost w => Sys2Proof.Machine.execAbortedLost w s
  | .moduleReset failed => Sys2Proof.Machine.execModuleReset failed s
  | .routerFault b => Sys2Proof.Machine.execRouterFault b s
  | .sensorSample d j kind v => Sys2Proof.Machine.execSensorSample d j kind v s
  | .droopCutExpiry d => Sys2Proof.Machine.execDroopCutExpiry d s
  | .powerPeriod demand => Sys2Proof.Machine.execPowerPeriod demand s
  | .moduleCapSet cap => Sys2Proof.Machine.execModuleCapSet cap s
  | .snapshotTrigger => Sys2Proof.Machine.execSnapshotTrigger s
  | .snapshotLatch => Sys2Proof.Machine.execSnapshotLatch s
  | .snapshotRead n => Sys2Proof.Machine.execSnapshotRead n s
  | .traceControlWrite b off v => Sys2Proof.Machine.execTraceControlWrite b off v s
  | .traceClear b => Sys2Proof.Machine.execTraceClear b s
  | .stop b k => Sys2Proof.Machine.execStop b k s
  | .stopTaken b k => Sys2Proof.Machine.execStopTaken b k s
  | .resume b k => Sys2Proof.Machine.execResume b k s
  | .readReg b k => Sys2Proof.Machine.execReadReg b k s
  | .writeReg b k => Sys2Proof.Machine.execWriteReg b k s
  | .readMem b => Sys2Proof.Machine.execReadMem b s
  | .illegalOpcode w => Sys2Proof.Machine.execIllegalOpcode w s
  | .pauseExpiry b k => Sys2Proof.Machine.execPauseExpiry b k s
  | .bar2Access a write v => Sys2Proof.Machine.execBar2Access a write v s
  | .regionHoldExpiry r => Sys2Proof.Machine.execRegionHoldExpiry r s
  | .uncorrectableSoftError a => Sys2Proof.Machine.execUncorrectableSoftError a s
  | .farLineRepair a => Sys2Proof.Machine.execFarLineRepair a s
  | .powerGating b => Sys2Proof.Machine.execPowerGating b s
  | .faultServiceTargetSet sp kind a tsp k policy tok => Sys2Proof.Machine.execFaultServiceTargetSet sp kind a tsp k policy tok s
  | .runtimeEntrySet sp va => Sys2Proof.Machine.execRuntimeEntrySet sp va s
  | .closedNodeRemoval n => Sys2Proof.Machine.execClosedNodeRemoval n s
  | .gracePeriodSet w sec => Sys2Proof.Machine.execGracePeriodSet w sec s
  | .sessionHeartbeat w => Sys2Proof.Machine.execSessionHeartbeat w s

end Sys2Proof.Machine
end

