-- ==== Sys2Proof/Machine/Turn.lean ====
section
/-! DEFINITION. One turn of one agent: a strand issues its next instruction or takes an event at an interruption point
(R15, R74, R101), or a step without an encoding comes about (log 1). -/

namespace Sys2Proof.Machine

/-- The asynchronous event that a strand takes first (R101); a stop of the debug agent before all (R345, log 23). -/
def asyncEvent (s : State) : Option (Host.Outcome State Fault Refusal) :=
  let b := s.cur.1
  let k := s.cur.2.val
  let x := s.me
  if x.stopReq then some (execStopTaken b k s)
  else if x.mode = .service then none
  else if x.saveDue then some (execForcedSave b k s)
  else if x.lates ≠ [] then some (execLateFaultTrap b k s)
  else if x.wdDue then some (execWatchdog b k s)
  else none

/-- The boundary is one at which an asynchronous event may be taken: not inside a hint group or an instruction, and with no open window
or after 64 instructions (R15, R74). -/
def Strand.interruptible (x : Strand) : Bool := x.phase = 0 && !x.hints.any && (x.windowFree || decide (64 ≤ x.issued))

/-- The word at hand is executed: an instruction of the map, or the trap of a word outside it (R81). -/
def issueWord (s : State) (w : IWord) : Host.Outcome State Fault Refusal :=
  match decode w with
  | .ok i => exec i s
  | .error _ => execIllegalOpcode w s

/-! The rest of the runtime's trap entry (R242, R352; log 112). -/

/-- The moving strand stands at rtcause: in service mode, at the runtime's own code. -/
def atRtcause (s : State) : Bool :=
  let x := s.me
  !isPair s.cur.1 && x.mode = .service && x.task.isSome && decide (x.pc.toNat = runtimeVa x.space + rtcauseAt) &&
    (nodeAt s s.cur.1 x.space x.pc.toNat).any (·.kind = .runtime)

/-- The launch of the moving task asks that the trap of WATCHDOG return (R239, R307). -/
def wdReturns (s : State) : Bool := (s.me.task.bind fun t => s.launch? t.launch).any fun l => l.cmd.wdret

/-- What the runtime does for every cause but ACC_NOT_OWNER: WATCHDOG returns by eret if the launch asks for that, and all else ends the task
as KILL does (R239, R352). -/
def rtcause (s : State) : State :=
  let c := (s.me.trapcause.extractLsb' 0 8).toNat
  if c = 0x67 ∧ wdReturns s then
    conclude s (eretBody s) fun r => advanceTo r.1 r.2
  else s.modMe fun x => x.beginKill (killStatus c)

/-- The moving strand issues its next instruction. -/
def issueNext (s : State) : Host.Outcome State Fault Refusal :=
  if atRtcause s then .next (rtcause s)
  else if isMessage s.cur.1 s.cur.2 then
    match handlerWord s with
    | some w => freezing s (issueWord s w)
    | none => execHandlerTrap s.cur.1 s
  else
    match fetch s with
    | .ok w => freezing (fetchFill s) (issueWord (fetchFill s) w)
    | .error e => .next (conclude s (.error e : Except Stop State) id)

/-- A strand that has something to run takes an event, waits or issues. -/
def liveTurn (s : State) : Host.Outcome State Fault Refusal :=
  match s.me.pause with
  | some n => if n = 0 ∨ s.me.asyncDue then execPauseExpiry s.cur.1 s.cur.2 s else .next s
  | none =>
    match s.me.waiting with
    | some o => .next (s.waitOn o)
    | none =>
      match s.me.trapDue with
      | some (c, pc) => .next (takeTrapAt s c pc)
      | none =>
        match asyncEvent s with
        | some e => if s.me.interruptible then e else issueNext s
        | none => issueNext s

/-- The registers of a context that took the moving strand are loaded (R33); a load that faults blocks the task, or waits for its reply beside
the block that the task came back with. -/
def restoreTurn (s : State) : State :=
  match restoreStrand s s.cur.1 s.cur.2 with
  | .ok t => t
  | .error p => postSave s s.cur.1 s.cur.2 p s.me.block.isSome

/-- The registers of the moving strand's task are still to be loaded, and no load of them waits for a reply (R33, R240). -/
def Strand.restores (x : Strand) : Bool :=
  x.restore.isSome && x.saveTok.isNone && match x.block with
    | some (.fault _ ord _) => !decide (2000 ≤ ord ∧ ord < 2 ^ 60)
    | _ => true

/-- A turn of strand k of brick b: a killed task goes on to its end (R180); a strand that is halted or blocked waits; one whose
registers are still to be loaded loads them, blocked or not (R33, R240); else its holds and windows settle first. -/
def strandTurn (b : Nat) (k : Fin 5) (s : State) : Host.Outcome State Fault Refusal :=
  let s := { s with cur := (b, k) }
  if !s.live then .next s
  else match s.me.kill with
    | some v => .next (killTurn s b k v)
    | none =>
      if s.me.halted.isSome then .next s
      else if s.me.restores then .next (if s.me.restoreReady s b then restoreTurn s else s)
      else if s.me.block.isSome ∨ s.me.restore.isSome then .next s
      else liveTurn ((s.settleHolds b k).modMe Strand.settle)

/-- A constructor that comes about on its own: not an instruction, and not a side of one. -/
def spontaneous (i : Instr) : Bool :=
  match i with
  | .bindtabWrite _ => false
  | .watchdogWrite _ => false
  | .fpstatWrite _ => false
  | .illegalOpcode _ => false
  | i => i.info.event

/-- A constructor that comes about while every clock of the module is stopped: a reset (R341). -/
def isReset (i : Instr) : Bool :=
  match i with
  | .moduleReset _ => true
  | _ => false

/-- A turn of an agent; a module whose clocks are stopped takes nothing but a reset (R341). -/
def agentTurn (a : Config.Agent) (s : State) : Host.Outcome State Fault Refusal :=
  if s.stopped then
    match a with
    | .strand _ _ => .next s
    | .env _ => .next s
    | .event i => if isReset i then exec i s else .next s
  else match a with
  | .strand b k => if h : k < 5 then strandTurn b ⟨k, h⟩ s else .next s
  | .event i => if spontaneous i then exec i s else .next s
  | .env e => .next (envTurn e s)

/-! Time (R28, R246; log 2). -/

/-- Cycles at which a limit of the outside passes: a session's two seconds and its grace (R331, R336), a die's clear (R337), a region's
transfer and hold (R318), the host's liveness (R323), the heat sweep (R262), the takeover of the lead (R322). -/
def State.limitTimes (s : State) : List Nat :=
  s.worlds.flatMap (fun w => (if w.session then [w.lastSeen + 2000 * Config.msCycles] else []) ++ w.grace.toList) ++
    s.dies.toList.flatMap (fun d => (d.clearing.map (· + 10 * Config.msCycles)).toList) ++
    s.regions.flatMap (fun q => if q.moving then (if q.owner then [] else [q.began + transferCycles]) else if q.back then [q.kept] else []) ++
    (if s.hostUp then [s.liveness + 500 * Config.msCycles] else []) ++ [s.lastSweep + Config.msCycles] ++
    if s.successor.isSome then [s.lastBeat + 23 * Config.msCycles] else []

/-- The limits of the outside that have passed by now take effect. -/
def limitsPass (s : State) : State :=
  let s := (s.worlds.map (·.id)).foldl (fun s w => after (execSessionTimeout w s) s) s
  let s := (s.worlds.map (·.id)).foldl (fun s w => after (execGraceExpiry w s) s) s
  let s := (List.range 8).foldl (fun s d => after (execClearTimeout d s) s) s
  let s := (s.regions.map (·.base)).foldl (fun s r => let t := after (execOwnershipTimeout r s) s; after (execRegionHoldExpiry r t) t) s
  let s := if s.hostUp then after (execHostLoss s) s else s
  let s := if s.lastBeat + 23 * Config.msCycles ≤ s.cycle then after (execHeartbeatTimeout s) s else s
  after (execHeatSweep s) s

/-- Cycles at which something falls due on its own: a footing phase (R275), a request on channel 63 (R279), a chsw's limit (R200), the
firmware's tick (R310), a snapshot's latch (R343), a limit of the outside. -/
def State.dueTimes (s : State) : List Nat :=
  s.foots.filterMap s.footDue ++ s.launches.flatMap (·.raises) ++ s.bricks.flatMap (fun q => q.2.switches.filterMap (·.limit)) ++
    [s.lastTick + Config.tickCycles] ++ s.snapRaised.map (· + 96) ++ s.limitTimes

/-- What falls due by cycle t comes about. -/
def fireDue (s : State) (t : Nat) : State :=
  let s := s.foots.foldl (fun s f => if (s.footDue f).any fun d => decide (d ≤ t) then releasePhase s f else s) s
  let s := s.launches.foldl (fun s l => (l.raises.filter fun d => decide (d ≤ t)).foldl (fun s d => reachCourse s d l) s) s
  let s := s.bricks.foldl (fun s q =>
    (q.2.switches.filter fun w => w.limit.any fun d => decide (d ≤ t)).foldl (fun s w => limitPasses s q.1 w) s) s
  let s := (s.snapRaised.filter fun d => decide (d + 96 ≤ t)).foldl (fun s _ => latchSnaps s) s
  let s := limitsPass s
  if s.lastTick + Config.tickCycles ≤ t then slotTick s else s

/-- Time passes up to cycle t, what falls due on the way at its own cycle; n bounds the number of those times. -/
def passTo : Nat → State → Nat → State
  | 0, s, t => s.tick (t - s.cycle)
  | n + 1, s, t =>
    match (s.dueTimes.filter fun d => decide (d ≤ t)).min? with
    | none => s.tick (t - s.cycle)
    | some d => passTo n (fireDue (s.tick (d - s.cycle)) (max d s.cycle)) t

/-- dt cycles pass; head words that are still to be written are tried again (R304). -/
def passTime (s : State) (dt : Nat) : State :=
  if dt = 0 ∨ s.stopped then s else staleHeads (passTo (dt + 64) (noteWaits s) (s.cycle + dt))

/-- The turn at the head of the list, or a free one (log 1), and the state without it, its cycles passed (log 2). -/
def nextTurn (s : State) : Config.Turn × State :=
  match s.turns with
  | t :: r => (t, passTime { s with turns := r } t.dt)
  | [] => let t := Config.freeTurn s.turnCount; (t, passTime { s with turnCount := s.turnCount + 1 } t.dt)

/-- A running task, with nothing under it, for a strand that is to fetch (log 24). -/
def Task.placed : Task := ⟨0, none, true, 0, 0, []⟩

/-- The state in which the next step fetches the four bytes of v: they stand at the moving strand's PC in its own SRAM, the
strand holds a task or handler and the next turn is its own (log 24). -/
def placeWord (s : State) (v : Nat) : State :=
  let b := s.cur.1
  let k := s.cur.2
  let s := { s with turns := [⟨0, .strand b k⟩] }
  if isMessage b k then
    s.modHere fun x => { x with handler := some ⟨0, 0, 0, 0, 0, 0, [], List.replicate (s.me.pc.toNat / 4) 0 ++ [BitVec.ofNat 32 v], b, none, false, 16⟩ }
  else
    (s.modMe fun x => { x with task := some (x.task.getD Task.placed) }).write (sramPa b s.me.pc.toNat) (leBytes 4 v)

end Sys2Proof.Machine
end

