-- ==== Sys2Proof/Safety.lean ====
section
/-! DEFINITION. What counts as a safe run: the invariant that every step is to keep. -/

namespace Sys2Proof.Machine

/-- Memory is in canonical form: addresses strictly rising, no entry equal to what an unlisted address reads as (log 3). -/
def State.Inv (s : State) : Prop := Memory.wf s.mem = true

end Sys2Proof.Machine
end

