-- ==== Sys2Proof/Certificates/Slice0/Obligations.lean ====
section
/-! DEFINITION. The statements for the provers: what the instructions and the events do, in the order of the opcode table, then the encoding, the step,
reset and what instructions leave alone. -/

open Sys2Proof Sys2Proof.Machine

/-! Ways to say what an instruction comes to. -/

namespace Sys2Proof.Machine

/-- No trap of its encoding, of its hints or of its strand's kind and mode stands against instruction i (R81, R82). -/
abbrev Accepts (i : Instr) (s : State) : Prop := encodingTrap i s = none

/-- Instruction i completes with the effect t and the strand goes on at the next word. -/
abbrev Completes (i : Instr) (s t : State) : Prop := exec i s = .next (advance t)

/-- Instruction i completes with the effect t and the strand goes on at pc. -/
abbrev GoesTo (i : Instr) (s t : State) (pc : Word) : Prop := exec i s = .next (advanceTo t pc)

/-- Instruction i raises the precise trap c. -/
abbrev Traps (i : Instr) (s : State) (c : Code) : Prop := exec i s = .next (takeTrap s c)

/-- Instruction i writes v to scalar register d and completes. -/
abbrev WritesS (i : Instr) (s : State) (d : BitVec 4) (v : Word) : Prop := Completes i s (s.setS d v)

end Sys2Proof.Machine

/-! Scalar instructions. -/

/-- R85: sums, bitwise results and comparisons of the two sources, and sel, as the table gives them. R85: the counts of leading and trailing zeros and of ones, each said by the bits it counts. -/
def Obligations.ScalarResultsFollowTheTable : Prop :=
  (∀ (s : State) (d : BitVec 4) (a b : Src), let x := s.srcA a b; let y := s.srcB b; let one (c : Prop) [Decidable c] : Word := if c then 1 else 0
     (Accepts (.add d a b) s → WritesS (.add d a b) s d (BitVec.ofNat 64 (x.toNat + y.toNat))) ∧
     (Accepts (.sub d a b) s → WritesS (.sub d a b) s d (BitVec.ofInt 64 ((x.toNat : Int) - y.toNat))) ∧
     (Accepts (.min d a b) s → WritesS (.min d a b) s d (BitVec.ofInt 64 (min x.toInt y.toInt))) ∧
     (Accepts (.max d a b) s → WritesS (.max d a b) s d (BitVec.ofInt 64 (max x.toInt y.toInt))) ∧
     (Accepts (.minu d a b) s → WritesS (.minu d a b) s d (BitVec.ofNat 64 (min x.toNat y.toNat))) ∧
     (Accepts (.maxu d a b) s → WritesS (.maxu d a b) s d (BitVec.ofNat 64 (max x.toNat y.toNat))) ∧
     (Accepts (.and d a b) s → WritesS (.and d a b) s d (BitVec.ofNat 64 (x.toNat &&& y.toNat))) ∧
     (Accepts (.or d a b) s → WritesS (.or d a b) s d (BitVec.ofNat 64 (x.toNat ||| y.toNat))) ∧
     (Accepts (.xor d a b) s → WritesS (.xor d a b) s d (BitVec.ofNat 64 (x.toNat ^^^ y.toNat))) ∧
     (Accepts (.andn d a b) s → WritesS (.andn d a b) s d (BitVec.ofNat 64 (x.toNat &&& (2 ^ 64 - 1 - y.toNat)))) ∧
     (Accepts (.seq d a b) s → WritesS (.seq d a b) s d (one (x.toNat = y.toNat))) ∧
     (Accepts (.sne d a b) s → WritesS (.sne d a b) s d (one (x.toNat ≠ y.toNat))) ∧
     (Accepts (.slt d a b) s → WritesS (.slt d a b) s d (one (x.toInt < y.toInt))) ∧
     (Accepts (.sltu d a b) s → WritesS (.sltu d a b) s d (one (x.toNat < y.toNat))) ∧
     (Accepts (.sle d a b) s → WritesS (.sle d a b) s d (one (x.toInt ≤ y.toInt))) ∧
     (Accepts (.sleu d a b) s → WritesS (.sleu d a b) s d (one (x.toNat ≤ y.toNat))) ∧
     (Accepts (.sel d a b) s → WritesS (.sel d a b) s d (if s.me.sreg d ≠ 0 then x else y))) ∧
  (∀ (s : State) (d : BitVec 4) (a : Src), let x := s.src1 a
     (Accepts (.clz d a) s → ∃ n : Nat, WritesS (.clz d a) s d (BitVec.ofNat 64 n) ∧ n ≤ 64 ∧
       (∀ i, 64 ≤ i + n → x.toNat.testBit i = false) ∧ (n < 64 → x.toNat.testBit (63 - n) = true)) ∧
     (Accepts (.ctz d a) s → ∃ n : Nat, WritesS (.ctz d a) s d (BitVec.ofNat 64 n) ∧ n ≤ 64 ∧
       (∀ i, i < n → x.toNat.testBit i = false) ∧ (n < 64 → x.toNat.testBit n = true)) ∧
     (Accepts (.popc d a) s →
       WritesS (.popc d a) s d (BitVec.ofNat 64 ((List.range 64).filter fun i => x.toNat.testBit i).length)))

/-- R85, R39: shift and rotate amounts count mod 64. R85, R39: products, and quotients and remainders with a zero divisor and with the one signed overflow. R85: each bit of the carry-less product is the parity of the products of bits whose places add up to it; bswap reverses the
bytes. -/
def Obligations.ShiftsProductsAndQuotientsFollowTheirRules : Prop :=
  (∀ (s : State) (d : BitVec 4) (a b : Src), let x := s.srcA a b; let n := (s.srcB b).toNat % 64
     (Accepts (.shl d a b) s → WritesS (.shl d a b) s d (BitVec.ofNat 64 (x.toNat * 2 ^ n))) ∧
     (Accepts (.shr d a b) s → WritesS (.shr d a b) s d (BitVec.ofNat 64 (x.toNat / 2 ^ n))) ∧
     (Accepts (.sar d a b) s → WritesS (.sar d a b) s d (BitVec.ofInt 64 (x.toInt / 2 ^ n))) ∧
     (Accepts (.rol d a b) s → WritesS (.rol d a b) s d (x.rotateLeft n))) ∧
  (∀ (s : State) (d : BitVec 4) (a b : Src), let x := s.srcA a b; let y := s.srcB b
     (Accepts (.mul d a b) s → WritesS (.mul d a b) s d (BitVec.ofNat 64 (x.toNat * y.toNat))) ∧
     (Accepts (.mulh d a b) s → WritesS (.mulh d a b) s d (BitVec.ofInt 64 (x.toInt * y.toInt / 2 ^ 64))) ∧
     (Accepts (.mulhu d a b) s → WritesS (.mulhu d a b) s d (BitVec.ofNat 64 (x.toNat * y.toNat / 2 ^ 64))) ∧
     (Accepts (.div d a b) s → ∃ q : Word, WritesS (.div d a b) s d q ∧
       (y = 0 → q = BitVec.allOnes 64) ∧ (x.toInt = -2 ^ 63 → y.toInt = -1 → q = x) ∧
       (y ≠ 0 → ¬(x.toInt = -2 ^ 63 ∧ y.toInt = -1) → q.toInt = x.toInt.tdiv y.toInt)) ∧
     (Accepts (.rem d a b) s → ∃ r : Word, WritesS (.rem d a b) s d r ∧
       (y = 0 → r = x) ∧ (x.toInt = -2 ^ 63 → y.toInt = -1 → r = 0) ∧
       (y ≠ 0 → ¬(x.toInt = -2 ^ 63 ∧ y.toInt = -1) → r.toInt = x.toInt.tmod y.toInt)) ∧
     (Accepts (.divu d a b) s → ∃ q : Word, WritesS (.divu d a b) s d q ∧
       (y = 0 → q = BitVec.allOnes 64) ∧ (y ≠ 0 → q.toNat = x.toNat / y.toNat)) ∧
     (Accepts (.remu d a b) s → ∃ r : Word, WritesS (.remu d a b) s d r ∧
       (y = 0 → r = x) ∧ (y ≠ 0 → r.toNat = x.toNat % y.toNat))) ∧
  (∀ (s : State) (d : BitVec 4) (a b : Src), let x := s.srcA a b; let y := s.srcB b
     let bit (n : Nat) : Bool := ((List.range 64).filter fun i => decide (i ≤ n) && y.toNat.testBit i && x.toNat.testBit (n - i)).length % 2 = 1
     (Accepts (.clmul d a b) s → ∃ v : Word, WritesS (.clmul d a b) s d v ∧ ∀ n, n < 64 → v.getLsbD n = bit n) ∧
     (Accepts (.clmulh d a b) s → ∃ v : Word, WritesS (.clmulh d a b) s d v ∧ ∀ n, n < 64 → v.getLsbD n = bit (64 + n)) ∧
     (Accepts (.bswap d a) s → ∃ v : Word, WritesS (.bswap d a) s d v ∧
       ∀ k, k < 8 → v.extractLsb' (8 * k) 8 = (s.src1 a).extractLsb' (56 - 8 * k) 8))

/-- R87: the immediate instructions on the register and the immediate that hints extend. -/
def Obligations.ImmediateInstructionsWriteTheirValue : Prop :=
  ∀ (s : State) (d a : BitVec 4) (j : BitVec 18) (t : BitVec 17) (n : BitVec 6), let x := s.me.sreg a
    let one (c : Prop) [Decidable c] : Word := if c then 1 else 0
    (Accepts (.addI d a j) s → WritesS (.addI d a j) s d (x + s.imm 18 j.toNat)) ∧
    (Accepts (.andI d a j) s → WritesS (.andI d a j) s d (x &&& s.imm 18 j.toNat)) ∧
    (Accepts (.orI d a j) s → WritesS (.orI d a j) s d (x ||| s.imm 18 j.toNat)) ∧
    (Accepts (.xorI d a j) s → WritesS (.xorI d a j) s d (x ^^^ s.imm 18 j.toNat)) ∧
    (Accepts (.sltI d a t) s → WritesS (.sltI d a t) s d (one (x.toInt < (s.imm 17 t.toNat).toInt))) ∧
    (Accepts (.sltuI d a t) s → WritesS (.sltuI d a t) s d (one (x.toNat < (s.imm 17 t.toNat).toNat))) ∧
    (Accepts (.shlI d a n) s → WritesS (.shlI d a n) s d (BitVec.ofNat 64 (x.toNat * 2 ^ n.toNat))) ∧
    (Accepts (.shrI d a n) s → WritesS (.shrI d a n) s d (BitVec.ofNat 64 (x.toNat / 2 ^ n.toNat))) ∧
    (Accepts (.sarI d a n) s → WritesS (.sarI d a n) s d (BitVec.ofInt 64 (x.toInt / 2 ^ n.toNat)))

/-- R65, R67, R76: a source by its tag, and the value of an immediate of each width, 18, 17 and 11 bits, under no, one and two hint.imm. -/
def Obligations.SourcesAndImmediatesByTagAndHint : Prop :=
  ∀ (s : State) (n : BitVec 5) (ext : Bool) (p q : BitVec 24) (x : Nat),
    s.scalar ⟨1, n⟩ ext = s.me.sreg (n.extractLsb' 0 4) ∧
    s.scalar ⟨2, n⟩ ext = s.here.creg n ∧
    s.scalar ⟨3, n⟩ false = n.signExtend 64 ∧
    (s.me.hints.imms = [] → s.scalar ⟨3, n⟩ true = n.signExtend 64) ∧
    (s.me.hints.imms = [p] → s.scalar ⟨3, n⟩ true = (p ++ n).signExtend 64) ∧
    (s.me.hints.imms = [p, q] → s.scalar ⟨3, n⟩ true = (p ++ q ++ n).signExtend 64) ∧
    (s.me.hints.imms = [] → s.imm 18 x = (BitVec.ofNat 18 x).signExtend 64) ∧
    (s.me.hints.imms = [p] → s.imm 18 x = (p ++ BitVec.ofNat 18 x).signExtend 64) ∧
    (s.me.hints.imms = [p, q] → s.imm 18 x = (p ++ q ++ BitVec.ofNat 18 x).truncate 64) ∧
    (s.me.hints.imms = [] → s.imm 17 x = (BitVec.ofNat 17 x).signExtend 64) ∧
    (s.me.hints.imms = [p] → s.imm 17 x = (p ++ BitVec.ofNat 17 x).signExtend 64) ∧
    (s.me.hints.imms = [p, q] → s.imm 17 x = (p ++ q ++ BitVec.ofNat 17 x).truncate 64) ∧
    (s.me.hints.imms = [] → s.imm 11 x = (BitVec.ofNat 11 x).signExtend 64) ∧
    (s.me.hints.imms = [p] → s.imm 11 x = (p ++ BitVec.ofNat 11 x).signExtend 64) ∧
    (s.me.hints.imms = [p, q] → s.imm 11 x = (p ++ q ++ BitVec.ofNat 11 x).signExtend 64)

/-- R89: a branch of a strand that runs tasks goes to PC + 4 × offset when its condition holds, and is traced; else to the next
word. R90: jumps and calls. A call leaves the next word's address in s14. A register target that is no multiple of 4 traps, any
other but 0 is gone to; 0 ends a task, which TasksJoinSpawnMigrateAndEnd states. Branches of the message strand are not stated here. R344: the trace entry of a branch that is taken. Model's choices, not the spec's: log 96 (jumps and calls are traced too). -/
def Obligations.BranchesJumpsAndCallsGoToTheirTarget : Prop :=
  (∀ (s : State) (a b : BitVec 4) (o : BitVec 15) (z : BitVec 19), isMessage s.cur.1 s.cur.2 = false →
     let x := s.me.sreg a; let y := s.me.sreg b
     let go (i : Instr) (c : Prop) (off : Word) : Prop := Accepts i s →
       (c → GoesTo i s (s.traceMe 1 0 (s.me.pc + off)) (s.me.pc + off)) ∧ (¬c → GoesTo i s s (s.me.pc + 4))
     let o4 := o.signExtend 64 <<< 2; let z4 := z.signExtend 64 <<< 2
     go (.beq a b o) (x = y) o4 ∧ go (.bne a b o) (x ≠ y) o4 ∧
     go (.blt a b o) (x.toInt < y.toInt) o4 ∧ go (.bge a b o) (y.toInt ≤ x.toInt) o4 ∧
     go (.bltu a b o) (x.toNat < y.toNat) o4 ∧ go (.bgeu a b o) (y.toNat ≤ x.toNat) o4 ∧
     go (.bz a z) (x = 0) z4 ∧ go (.bnz a z) (x ≠ 0) z4) ∧
  (∀ (s : State) (o : BitVec 26) (a : BitVec 4),
     let t := s.me.pc + (o.signExtend 64 <<< 2); let link := s.setS 14 (s.me.pc + 4)
     let byReg (i : Instr) (v : Word) (u : State) : Prop := Accepts i s →
       (v.toNat % 4 ≠ 0 → Traps i s .misaligned) ∧ (v.toNat % 4 = 0 → v ≠ 0 → GoesTo i s (u.traceMe 1 0 v) v)
     (Accepts (.jmp o) s → GoesTo (.jmp o) s (s.traceMe 1 0 t) t) ∧
     (Accepts (.call o) s → GoesTo (.call o) s (link.traceMe 1 0 t) t) ∧
     byReg (.jr a) (s.me.sreg a) s ∧ byReg (.callr a) (s.me.sreg a) link ∧ byReg .ret (s.me.sreg 14) s)

/-- R75 to R78: a hint takes one issue slot and keeps its payload for the next instruction, its consumer, whose group starts at the first hint; an instruction that completes
consumes the hints. A third hint.imm, a second hint.mod or hint.sched, a fourth hint of a group in whatever order, and a consumer that cannot take its hints raise HINT_ORPHAN. nop does nothing (R94). -/
def Obligations.HintsWaitForTheirConsumer : Prop :=
  ∀ (s : State) (p : BitVec 24),
    let keeps (i : Instr) (f : Hints → Hints) : Prop := Accepts i s → exec i s = .next (advanceHint s f)
    keeps (.hintImm p) (fun h => { h with imms := h.imms ++ [p] }) ∧
    keeps (.hintMod p) (fun h => { h with mod := some p }) ∧
    keeps (.hintSched p) (fun h => { h with sched := some p }) ∧
    (∀ f, s.me.ops = [] → let t := advanceHint s f
      t.me.hints = { f s.me.hints with start := some (s.me.hints.start.getD s.me.pc) } ∧ t.me.pc = s.me.pc + 4 ∧
      t.mem = s.mem ∧ t.me.s = s.me.s ∧ t.me.v = s.me.v ∧ t.me.p = s.me.p) ∧
    (s.me.ops = [] → (advance s).me.hints = Hints.none) ∧
    (s.me.hints.imms.length = 2 → encodingTrap (.hintImm p) s = some .hintOrphan) ∧ (s.me.hints.mod ≠ none → encodingTrap (.hintMod p) s = some .hintOrphan) ∧
    (s.me.hints.sched ≠ none → schedReserved p = false → encodingTrap (.hintSched p) s = some .hintOrphan) ∧
    (s.me.hints.imms.length = 2 → s.me.hints.mod ≠ none → schedReserved p = false → encodingTrap (.hintSched p) s = some .hintOrphan) ∧
    (s.me.hints.imms.length = 2 → s.me.hints.sched ≠ none → encodingTrap (.hintMod p) s = some .hintOrphan) ∧
    (s.me.hints.imms.length = 1 → s.me.hints.mod ≠ none → s.me.hints.sched ≠ none → encodingTrap (.hintImm p) s = some .hintOrphan) ∧
    (∀ i, WellFormed i → illegalHere i s.cur.1 s.cur.2 s.me.mode = false → isMessage s.cur.1 s.cur.2 = false → i.info.major ≠ 0x10 →
      (s.me.hints.mod ≠ none → i.info.mods = 0 → encodingTrap i s = some .hintOrphan) ∧
      (s.me.hints.imms ≠ [] → i.info.imm = false → (i.info.mods ≠ 0 → modFault s.me.hmod i.info.mods = false) → encodingTrap i s = some .hintOrphan)) ∧
    (Accepts .nop s → Completes .nop s s)

/-! Memory. -/

namespace Sys2Proof.Machine

/-- Access number 0 of an instruction may issue now at the address ea itself: no fence, acquire or reply stands against it (R117, R120,
R130), and ea is a multiple of al. -/
abbrev Free (s : State) (ea : Word) (al : Nat) : Prop := gate s 0 = .ok () ∧ s.answer 0 ea = some ea ∧ ea.toNat % al = 0

/-- An access to the local window that may issue now: no access of the strand to its own SRAM is still under way (R115). -/
abbrev FreeLocal (s : State) (ea : Word) (al : Nat) : Prop := Free s ea al ∧ ea.toNat < Config.sramBytes ∧ s.ownBusy = false

/-- The physical address of a local-window offset of the moving strand's brick. -/
def State.hereAt (s : State) (ea : Word) : Nat := sramPa s.cur.1 ea.toNat

/-- The state with an operation whose result, v for scalar register d, is there, under a window of L instructions (R70). -/
def State.loaded (s : State) (L : BitVec 4) (d : BitVec 4) (v : Word) : State :=
  s.addOp { (newOp s L .plain none) with done := true, commit := ⟨some (d, v), [], false⟩ }

/-- The effective address of a Format M access of n bytes. -/
def State.mAddr (s : State) (b : BitVec 4) (o : BitVec 11) (n : Nat) : Word := s.me.sreg b + s.imm 11 o.toNat * BitVec.ofNat 64 n

end Sys2Proof.Machine

/-- R110, R111: a load from the local window delivers the little-endian bytes at its address, zero- or sign-extended, when its window
closes. -/
def Obligations.LocalLoadsDeliverTheBytesExtended : Prop :=
  ∀ (s : State) (d b : BitVec 4) (o : BitVec 11) (l : BitVec 4),
    let gives (i : Instr) (n : Nat) (f : Nat → Word) : Prop := let ea := s.mAddr b o n
      Accepts i s → FreeLocal s ea n → s.readPoison (s.hereAt ea) n = false →
        Completes i s ((s.traceMe 3 0 ea).loaded l d (f (s.num (s.hereAt ea) n)))
    gives (.ldB d b o l) 1 (fun x => BitVec.ofNat 64 x) ∧ gives (.ldH d b o l) 2 (fun x => BitVec.ofNat 64 x) ∧
    gives (.ldW d b o l) 4 (fun x => BitVec.ofNat 64 x) ∧ gives (.ldD d b o l) 8 (fun x => BitVec.ofNat 64 x) ∧
    gives (.ldBs d b o l) 1 (fun x => (BitVec.ofNat 8 x).signExtend 64) ∧
    gives (.ldHs d b o l) 2 (fun x => (BitVec.ofNat 16 x).signExtend 64) ∧
    gives (.ldWs d b o l) 4 (fun x => (BitVec.ofNat 32 x).signExtend 64)

/-- R70, R71: with a window of 0 and no other operation under way the result is in its register after the instruction; with a longer one
the register keeps its value and the operation has L instructions to run. Nothing else changes but the PC and the hints. R72: of two windows that close at one boundary the older result is written first, so the younger one stands; an operation that is not
complete holds back every younger one. A window that closes before an older one commits before it, an L of 0 before the next instruction, and the
older result overwrites it when its own window closes. -/
def Obligations.WindowsDelayAndOrderTheRegisterWrites : Prop :=
  (∀ (s : State) (L : BitVec 4) (d : BitVec 4) (v : Word), s.me.ops = [] → let t := advance (s.loaded L d v)
     t.me.pc = s.me.pc + 4 ∧ t.me.v = s.me.v ∧ t.me.p = s.me.p ∧ t.me.fpstat = s.me.fpstat ∧ t.mem = s.mem ∧
     (L = 0 → t.me.sreg d = v ∧ (∀ e, e ≠ d → t.me.sreg e = s.me.sreg e) ∧ t.me.ops = []) ∧
     (L ≠ 0 → t.me.s = s.me.s ∧ ∃ o, t.me.ops = [o] ∧ o.left = some L.toNat ∧ o.done = true ∧ o.commit.sc = some (d, v))) ∧
  (∀ (d : BitVec 4) (v w : Word) (o p : Op), o.commit = ⟨some (d, v), [], false⟩ → p.commit = ⟨some (d, w), [], false⟩ →
     (∀ x : Strand, x.ops = [o, p] → o.left = some 0 → p.left = some 0 → o.isScatter = false → p.done = true →
       (o.done = true → x.settle.sreg d = w ∧ x.settle.ops = []) ∧
       (o.done = false → x.settle.sreg d = x.sreg d ∧ x.settle.ops = [o, p] ∧ x.settle.waiting = some o)) ∧
     (∀ (x : Strand) (n : Nat), x.ops = [o, p] → o.left = some (n + 1) → p.left = some 0 → p.done = true → x.settle.sreg d = w ∧ x.settle.ops = [o]) ∧
     (∀ x : Strand, x.ops = [o] → o.left = some 0 → o.done = true → x.settle.sreg d = v ∧ x.settle.ops = []) ∧
     (∀ (s : State) (n : Nat), s.me.ops = [o] → o.left = some (n + 2) → let t := advance (s.loaded 0 d w)
       t.me.sreg d = w ∧ t.me.ops = [{ o with left := some (n + 1) }]))

/-- R109, R111, R112: a load whose home is not the brick, and which the remote read buffer does not hold, goes on its way: it delivers
once LOAD_RESPONSE has performed it at its home. -/
def Obligations.RemoteLoadsArePerformedByTheirResponse : Prop :=
  (∀ (s s' : State) (d b : BitVec 4) (o : BitVec 11) (l : BitVec 4) (p : Place), let ea := s.mAddr b o 8; let u := s'.traceMe 3 0 ea
    Accepts (.ldD d b o l) s → Free s ea 8 → s.check s.cur.1 s.me.space ea.toNat needLoad = .ok (p, s') →
    homeHere s'.cur.1 p.pa = false → ¬(paClass p.pa = 4 ∧ p.pa < 2 ^ 52) →
    (s.me.home = true ∨ u.here.rrbHit u.me.space ea.toNat 8 = none) → s'.me.home = s.me.home →
    ∃ a : PAcc, Completes (.ldD d b o l) s (u.addOp { (newOp u l (.load 8 false d) none) with accs := [a] }) ∧
      a.ea = ea ∧ a.pa = p.pa ∧ a.len = 8 ∧ a.st = .pending) ∧
  (∀ (s : State) (b id : Nat) (k : Fin 5) (o : Op) (a : PAcc) (n : Nat) (sg : Bool) (d : BitVec 4),
    (s.brick b).findOp id = some (k, o) → o.kind = .load n sg d → o.accs = [a] → o.done = false → o.buf = 0 → a.st = .pending → a.amo = none →
    a.off = 0 → a.len = n → s.homeReady a.pa = true → s.lineBusy b k o.id o.space a.ea.toNat (some a.pa) = false →
    ¬(paClass a.pa = 4 ∧ a.pa < 2 ^ 52) → s.readBad b o.space a.ea.toNat a.pa a.len = false →
    ∃ t, exec (.loadResponse b id 0) s = .next t ∧ ∃ o', (t.brick b).findOp id = some (k, o') ∧ o'.done = true ∧
      o'.commit.sc = some (d, extend n sg (s.num a.pa n)) ∧ t.mem = s.mem)

/-- R113: a store to the local window writes the low bytes of its register, little-endian, as it issues (all but the hardware's own fields of a running chain's
CTRL, which no software store changes); in the deque's region it writes nothing and reports RIGHTS (R31). A misaligned address traps. The frame of a store to the local window: every byte outside the n stored ones reads as before, and no register changes. -/
def Obligations.LocalStoresWriteTheirBytesAlone : Prop :=
  (∀ (s : State) (d b : BitVec 4) (o : BitVec 11),
     let stores (i : Instr) (n : Nat) : Prop := let ea := s.mAddr b o n; let pa := s.hereAt ea; let u := noteCode s s.cur.1 s.cur.2 pa n
       Accepts i s → gate s 0 = .ok () → s.answer 0 ea = some ea →
         (ea.toNat % n ≠ 0 → Traps i s .misaligned) ∧
         (FreeLocal s ea n → s.inDeque pa = false → Completes i s ((u.softNum pa n (s.me.sreg d).toNat).traceMe 3 1 ea) ∧ (s.here.chains = [] → u.softNum pa n = u.writeNum pa n)) ∧
         (FreeLocal s ea n → s.inDeque pa = true →
           Completes i s ((s.traceMe 3 1 ea).report s.cur.1 s.cur.2 s.me.space .rights .store s.me.pc ea 0))
     stores (.stB d b o) 1 ∧ stores (.stH d b o) 2 ∧ stores (.stW d b o) 4 ∧ stores (.stD d b o) 8) ∧
  (∀ (s : State) (d b : BitVec 4) (o : BitVec 11), Memory.wf s.mem = true → s.me.ops = [] →
     let frame (i : Instr) (n : Nat) : Prop := let ea := s.mAddr b o n
       Accepts i s → FreeLocal s ea n → ∀ t, exec i s = .next t →
         (∀ a, (a < s.hereAt ea ∨ s.hereAt ea + n ≤ a) → s.inDeque a = false → t.byte a = s.byte a) ∧
         t.me.s = s.me.s ∧ t.me.v = s.me.v ∧ t.me.p = s.me.p ∧ t.me.fpstat = s.me.fpstat ∧ t.here.acc = s.here.acc ∧
         (∀ c k, (c, k) ≠ s.cur → t.strand c k = s.strand c k)
     frame (.stB d b o) 1 ∧ frame (.stH d b o) 2 ∧ frame (.stW d b o) 4 ∧ frame (.stD d b o) 8)

/-- R114: a store outside the local window retires: UNACKED and every bind entry that holds its address count it, its RRB lines go, and it
is on its way with its bytes. R114: REMOTE_STORE_ARRIVAL writes a retired store's bytes at their home in SRAM or HBM, or drops and reports one that finds no mapping,
as REVOKED; STORE_ACKNOWLEDGE then takes it off UNACKED and its bind entries. R112, R23: a line of the remote read buffer may go at any time; an operation whose result is known frees its ring entry unless a late
fault marked it. Model's choices, not the spec's: log 18, log 35. -/
def Obligations.RemoteStoresRetireArriveAndAreAcknowledged : Prop :=
  (∀ (s : State) (d b : BitVec 4) (o : BitVec 11), s.me.ops = [] → s.me.unacked < 4095 →
     let retires (i : Instr) (n : Nat) : Prop := let ea := s.mAddr b o n
       Accepts i s → Free s ea n → Config.sramBytes ≤ ea.toNat → ea.toNat < 2 ^ 57 →
         ∃ t f, exec i s = .next t ∧ t.me.unacked = s.me.unacked + 1 ∧ t.me.pc = s.me.pc + 4 ∧ t.me.s = s.me.s ∧ t.mem = s.mem ∧
           t.here.flights = s.here.flights ++ [f] ∧ f.ea = ea ∧ f.len = n ∧
           f.act = .write ((leBytes n (s.me.sreg d).toNat).map some) ∧ f.arrived = false ∧ f.binds = s.me.bindsOf ea.toNat ∧
           t.here.rrb = (s.here.rrbDrop s.me.space ea.toNat n).rrb
     retires (.stB d b o) 1 ∧ retires (.stH d b o) 2 ∧ retires (.stW d b o) 4 ∧ retires (.stD d b o) 8) ∧
  ((∀ (s : State) (b n : Nat) (f g : Flight) (l : List (Option Byte)) (pa : Nat), (s.brick b).flights[n]? = some f → f.arrived = false →
     let u := translateUpTo s b f.id
     (u.brick b).flights.find? (fun q => q.id = f.id && !q.arrived) = some g → g.access = .store → g.act = .write l → g.pa = some pa → g.op = none →
     u.lineBusy b g.strand g.id g.space g.ea.toNat (some pa) = false → earlierOwn u b g = false → (paClass pa = 0 ∨ paClass pa = 1) → pa < 2 ^ 52 →
     u.homeReady pa = true → u.inDeque pa = false →
     ∃ t, exec (.remoteStoreArrival b n) s = .next t ∧ t.mem = (u.poke pa (u.soft pa l)).mem ∧ ∀ q ∈ (t.brick b).flights, q.id = g.id → q.arrived = true) ∧
   (∀ (s s' : State) (b n : Nat) (f : Flight) (p : Place), (s.brick b).flights.filter (fun q => q.pa.isNone && !q.arrived && decide (q.id ≤ n)) = [f] → f.id = n →
     s.check b f.space f.ea.toNat f.act.need = .ok (p, s') → flightAperture b p.pa f = none →
     (translateUpTo s b n).mem = s.mem ∧ ∀ q ∈ ((translateUpTo s b n).brick b).flights, q.id = n → q.pa = some p.pa) ∧
   (∀ (s : State) (b n : Nat) (f : Flight), (s.brick b).flights[n]? = some f → f.arrived = false → f.access = .store → f.act.need = needStore →
     (s.brick b).flights.filter (fun q => q.pa.isNone && !q.arrived && decide (q.id ≤ f.id)) = [f] →
     s.check b f.space f.ea.toNat needStore = .error .notMapped → s.unmapped b f.space f.ea.toNat = true → f.op = none →
     ∃ t, exec (.remoteStoreArrival b n) s = .next t ∧ t.mem = s.mem ∧ (∀ g ∈ (t.brick b).flights, g.id = f.id → g.arrived = true) ∧
       ∃ u : State, u.net = s.net ∧ t.net = (u.sendFault ⟨f.space, .revoked, b, f.strand, .store, true, f.pc, f.ea, 0, 0⟩).net) ∧
   (∀ (s : State) (b : Nat) (k : Fin 5) (f : Flight), (s.brick b).flights.find? (fun g => g.id = f.id) = some f → f.arrived = true →
     f.posted = false → f.counted = true → f.strand = k.val →
     ∃ t, exec (.storeAcknowledge b f.id) s = .next t ∧ (t.strand b k).unacked = (s.strand b k).unacked - 1 ∧
       (t.strand b k).binds = bumpBinds (s.strand b k).binds f.binds (· - 1) ∧ (∀ g ∈ (t.brick b).flights, g.id ≠ f.id) ∧ t.mem = s.mem)) ∧
  ((∀ (s : State) (b n : Nat), ∃ t, exec (.rrbEviction b n) s = .next t ∧ (t.brick b).rrb = (s.brick b).rrb.eraseIdx n ∧ t.mem = s.mem) ∧
   (∀ (s : State) (b id : Nat) (k : Fin 5) (o : Op) (q : BitVec 32), (s.brick b).findOp id = some (k, o) → o.done = true → o.seq = some q →
     ∃ t, exec (.ringEntryComplete b id) s = .next t ∧
       ∀ e ∈ (t.strand b k).ring, e.tag = (s.strand b k).ctxKey → e.seq = q → e.fault.isSome = true))

/-- R119, R120: an atomic that returns, on the own brick's SRAM, is one indivisible step: the old value goes to its register at the window's
close, and memory takes the operation's value at the width that ORD[2] gives. -/
def Obligations.LocalAtomicsStepIndivisibly : Prop :=
  ∀ (s : State) (d b v : BitVec 4) (x : BitVec 3) (o l : BitVec 4), let ea := s.me.sreg b; let pa := s.hereAt ea
    let n := if o.getLsbD 2 then 8 else 4
    let old := s.num pa n; let y := (s.me.sreg v).toNat % 2 ^ (8 * n); let e := (s.me.sreg d).toNat % 2 ^ (8 * n)
    let gives (i : Instr) (w : Nat) : Prop := Accepts i s → FreeLocal s ea n → o.getLsbD 3 = false →
      (o.getLsbD 1 = false ∨ x = 0 ∨ s.me.unacked = 0) → s.inDeque pa = false → s.readPoison pa n = false →
      let u := s.traceMe 3 2 ea
      Completes i s (((noteCode u s.cur.1 s.cur.2 pa n).softNum pa n w).loaded l d (BitVec.ofNat 64 old))
    gives (.amoAdd d b v x o l) ((old + y) % 2 ^ (8 * n)) ∧ gives (.amoXchg d b v x o l) y ∧
    gives (.amoCas d b v x o l) (if old = e then y else old) ∧
    gives (.amoMin d b v x o l) (if toS old (8 * n) ≤ toS y (8 * n) then old else y) ∧
    gives (.amoMax d b v x o l) (if toS old (8 * n) < toS y (8 * n) then y else old) ∧
    gives (.amoAnd d b v x o l) (old &&& y) ∧ gives (.amoOr d b v x o l) (old ||| y) ∧ gives (.amoXor d b v x o l) (old ^^^ y)

/-- R122, R123, R126 to R130: binding, acquiring, releasing, landing words and fences on the own brick's SRAM. R124, R125: bind reads its record and makes entry n valid with a count of 0; unbind takes the valid bits that its mask and object
name. Model's choices, not the spec's: log 6, log 9, log 50. -/
def Obligations.SynchronisationAndBindingComplete : Prop :=
  (∀ (s : State) (d : BitVec 4) (a b : Src), let ea := s.srcA a b; let v := s.srcB b; let pa := s.hereAt ea; let w := s.num pa 8
     let note := noteCode s s.cur.1 s.cur.2 pa 8
     (Accepts (.acq d a b) s → FreeLocal s ea 8 → s.lineBusy s.cur.1 s.cur.2 s.nextId s.me.space ea.toNat (some pa) = false →
       s.readPoison pa 8 = false → v.toNat ≤ w → v ≠ 0 → v ≠ BitVec.allOnes 64 →
       Completes (.acq d a b) s (((s.traceMe 3 0 ea).modHere fun y => y.rrbRelease (s.traceMe 3 0 ea).me ea).setS d (BitVec.ofNat 64 w))) ∧
     (Accepts (.acq d a b) s → FreeLocal s ea 8 → s.lineBusy s.cur.1 s.cur.2 s.nextId s.me.space ea.toNat (some pa) = false →
       s.readPoison pa 8 = false → w < v.toNat → v ≠ BitVec.allOnes 64 →
       exec (.acq d a b) s = .next ((s.traceMe 3 0 ea).blockOn (.acq ea v))) ∧
     (Accepts (.rel a b) s → FreeLocal s ea 8 → s.me.bindBusy ea = false → s.inDeque pa = false → s.readPoison pa 8 = false →
       Completes (.rel a b) s ((note.softNum pa 8 (if v = 0 then 0 else (w + v.toNat) % 2 ^ 64)).traceMe 3 1 ea)) ∧
     (Accepts (.landSet a b) s → FreeLocal s ea 8 → s.inDeque pa = false →
       Completes (.landSet a b) s ((note.softNum pa 8 (if v.toNat % 2 ^ 48 = 0 then 2 ^ 63 else 2 ^ 62 + v.toNat % 2 ^ 48)).traceMe 3 1 ea)) ∧
     (Accepts .acqAll s → Completes .acqAll s ((s.modHere Brick.rrbClear).modMe fun x => { x with fetchAll := s.codeLog.length }) ∧ s.here.rrbClear.rrb = []) ∧
     (Accepts .fenceS s → (s.me.unacked = 0 → Completes .fenceS s (s.modMe fun x => { x with fetchOwn := s.codeLog.length })) ∧
       (s.me.unacked ≠ 0 → exec .fenceS s = .next s)) ∧
     (Accepts (.fenceX a b) s → ea.toNat % 32 ≠ 0 → v.toNat % 32 = 0 →
       (s.drainedFor s.cur.1 s.cur.2 s.nextId (ea.truncate 5) = false → exec (.fenceX a b) s = .next s) ∧
       (s.drainedFor s.cur.1 s.cur.2 s.nextId (ea.truncate 5) = true →
         Completes (.fenceX a b) s (if ea.getLsbD 1 then s.modHere fun y => { y with tcache := [] } else s))) ∧
     (Accepts (.fenceX a b) s → ea.toNat % 32 ≠ 0 → v.toNat % 32 ≠ 0 → s.me.fx.length < 4 →
       let h : FxHold := ⟨ea.truncate 5, v.truncate 5, s.nextId, s.cur.1, s.cur.2, s.me.ctxKey⟩; let t := s.modMe fun x => { x with fx := x.fx ++ [h] }
       Completes (.fenceX a b) s (if ea.getLsbD 1 || v.getLsbD 1 then t.modHere fun y => { y with fences := y.fences ++ [h] } else t))) ∧
  (∀ (s : State) (a b : Src), let r := s.srcA a b; let n := (s.srcB b).toNat
     (Accepts (.bind a b) s → 7 < n → Traps (.bind a b) s .reservedField) ∧
     (Accepts (.bind a b) s → n ≤ 7 → r.toNat % 8 ≠ 0 → Traps (.bind a b) s .misaligned) ∧
     (∀ l s', Accepts (.bind a b) s → n ≤ 7 → r.toNat % 8 = 0 → s.me.unacked = 0 → readRec s 0 r 8 24 needLoad 0 = .ok (l, s') →
       bindBad (numAt l 0 8) (numAt l 8 8) (numAt l 16 8) = false →
       Completes (.bind a b) s (s'.modMe fun x => x.putBind n ⟨doubleAt l 0, doubleAt l 8, doubleAt l 16, 0⟩)) ∧
     (Accepts (.unbind a b) s → ∃ t, Completes (.unbind a b) s t ∧ t.mem = s.mem ∧ ∀ j, j < 8 → t.me.bindtab.getLsbD j =
       (s.me.bindtab.getLsbD j && !(r.getLsbD j && (s.srcB b == 0 || ((s.me.binds.toList)[j]?.map (·.sync)).getD 0 == s.srcB b)))))

/-! Vector instructions. -/

namespace Sys2Proof.Machine

/-- Instruction i writes the elements of width w of vector register d and completes: an active element j gives f j, modulo its width, and an
inactive one becomes zero under ZERO, else keeps its value (R132). -/
def LanesGive (i : Instr) (s : State) (d : BitVec 5) (w : Nat) (f : Nat → Int) : Prop :=
  ∃ r, Completes i s (s.setV d r) ∧ ∀ j, j < 64 / w → (elem r w j : Int) =
    if active s.me.pred w j then f j % 2 ^ (8 * w) else if s.me.zeroing then 0 else elem (s.me.vreg d) w j

/-- Instruction i writes predicate register d and completes: the w bits of an active element j are f j, the others are clear (R143); then says
what else comes of it. -/
def BitsGive (i : Instr) (s : State) (d : BitVec 3) (w : Nat) (f : Nat → Bool) (then_ : State → State) : Prop :=
  ∃ r : PReg, Completes i s (then_ ((s.setP d r).traceMe 2 0 r)) ∧
    ∀ k, k < 64 → r.getLsbD k = (active s.me.pred w (k / w) && f (k / w))

/-- The flags fl are those that g raises at the active elements of width w (R47). -/
def FlagsOf (s : State) (w : Nat) (g : Nat → BitVec 5) (fl : BitVec 5) : Prop :=
  ∀ b, fl.getLsbD b = (List.range (64 / w)).any fun j => active s.me.pred w j && (g j).getLsbD b

/-- Place m of level n of R60's tree over the elements e that are active, and the flags of the sums in it: a pair of two gives their sum, a pair of one passes it on, and a pair of
none is empty. -/
def treePlace (f : FFmt) (rm : BitVec 2) (e : Nat → Option Nat) : Nat → Nat → Option Nat × BitVec 5
  | 0, m => (e m, 0)
  | n + 1, m =>
    let a := treePlace f rm e n (2 * m)
    let b := treePlace f rm e n (2 * m + 1)
    match a.1, b.1 with
    | some x, some y => let q := fAdd f rm (f.decode x) (f.decode y); (some q.1, a.2 ||| b.2 ||| q.2)
    | some x, none => (some x, a.2 ||| b.2)
    | none, y => (y, a.2 ||| b.2)

/-- Instruction i computes g's bits and flags at every active element of format f, writes vector register d and raises the flags. -/
def FpGives (i : Instr) (s : State) (d : BitVec 5) (f : FFmt) (g : Nat → Nat × BitVec 5) : Prop :=
  ∃ r fl, Completes i s ((s.setV d r).raise fl) ∧ FlagsOf s f.bytes (fun j => (g j).2) fl ∧
    ∀ j, j < 64 / f.bytes → elem r f.bytes j =
      if active s.me.pred f.bytes j then (g j).1 % 2 ^ f.width else if s.me.zeroing then 0 else elem (s.me.vreg d) f.bytes j

end Sys2Proof.Machine

/-- R131, R132, R142, R39, R151: every integer vector instruction, lane by lane, with saturation where its form asks for it (vpopc and vclmul by R151). A source that is no vector
gives its low bytes to every lane (R69); for vand, vor, vxor and vandn, which have no width field, that it gives its low byte to every byte is the model's reading. Model's choices, not the spec's: log 119. -/
def Obligations.IntegerVectorsComputeLaneByLane : Prop :=
  ∀ (s : State) (d : BitVec 5) (a b : Src) (g : BitVec 2), let w := widthOf g; let n := 8 * w
    let x := elem (s.vsrc a (b.k ≠ 3) w) w; let y := elem (s.vsrc b true w) w; let z := elem (s.vsrc a true w) w
    let x1 := elem (s.vsrc a (b.k ≠ 3) 1) 1; let y1 := elem (s.vsrc b true 1) 1
    let cl (lo hi v : Int) : Int := max lo (min hi v); let sat (v : Int) := cl (-2 ^ (n - 1)) (2 ^ (n - 1) - 1) v
    let ok (i : Instr) (w : Nat) (f : Nat → Int) : Prop := Accepts i s → LanesGive i s d w f
    (∀ ext j, a.k ≠ 0 → j < 64 / w → elem (s.vsrc a ext w) w j = (s.scalar a ext).toNat % 2 ^ n) ∧
    ok (.vadd d a b 0 g) w (fun j => x j + y j) ∧ ok (.vsub d a b 0 g) w (fun j => x j - y j) ∧
    ok (.vadd d a b 1 g) w (fun j => sat (toS (x j) n + toS (y j) n)) ∧ ok (.vsub d a b 1 g) w (fun j => sat (toS (x j) n - toS (y j) n)) ∧
    ok (.vadd d a b 2 g) w (fun j => cl 0 (2 ^ n - 1) (x j + y j)) ∧ ok (.vsub d a b 2 g) w (fun j => cl 0 (2 ^ n - 1) (x j - y j)) ∧
    ok (.vmul d a b g) w (fun j => x j * y j) ∧ ok (.vmulh d a b g) w (fun j => toS (x j) n * toS (y j) n / 2 ^ n) ∧
    ok (.vmin d a b g) w (fun j => min (toS (x j) n) (toS (y j) n)) ∧ ok (.vmax d a b g) w (fun j => max (toS (x j) n) (toS (y j) n)) ∧
    ok (.vabs d a 0 g) w (fun j => (toS (z j) n).natAbs) ∧ ok (.vneg d a 0 g) w (fun j => -toS (z j) n) ∧
    ok (.vabs d a 1 g) w (fun j => sat (toS (z j) n).natAbs) ∧ ok (.vneg d a 1 g) w (fun j => sat (-toS (z j) n)) ∧
    ok (.vand d a b) 1 (fun j => (x1 j &&& y1 j : Nat)) ∧ ok (.vor d a b) 1 (fun j => (x1 j ||| y1 j : Nat)) ∧
    ok (.vxor d a b) 1 (fun j => (x1 j ^^^ y1 j : Nat)) ∧ ok (.vandn d a b) 1 (fun j => (x1 j &&& (255 - y1 j) : Nat)) ∧
    ok (.vshl d a b g) w (fun j => x j * 2 ^ (y j % n)) ∧ ok (.vshr d a b g) w (fun j => x j / 2 ^ (y j % n)) ∧
    ok (.vsar d a b g) w (fun j => toS (x j) n / 2 ^ (y j % n)) ∧
    ok (.vpopc d a g) w (fun j => ((List.range n).filter fun i => (z j).testBit i).length) ∧
    (Accepts (.vclmul d a b g) s → ∃ f : Nat → Nat, LanesGive (.vclmul d a b g) s d w (fun j => f j) ∧ ∀ j k, k < n → (f j).testBit k =
      decide (((List.range n).filter fun i => decide (i ≤ k) && (y j).testBit i && (x j).testBit (k - i)).length % 2 = 1))

/-- R143, R144, R132: compares write one predicate bit per byte of an active element and clear the others; the predicate instructions work bit by
bit under the governing predicate. -/
def Obligations.ComparesAndPredicatesWriteTheirBits : Prop :=
  ∀ (s : State) (d : BitVec 3) (a b : Src) (g : BitVec 2) (p q : BitVec 3) (r : BitVec 4), let w := widthOf g; let n := 8 * w
    let x := elem (s.vsrc a (b.k ≠ 3) w) w; let y := elem (s.vsrc b true w) w; let m := s.me.pred; let u := s.me.preg p; let v := s.me.preg q
    let ok (i : Instr) (f : Nat → Bool) : Prop := Accepts i s → BitsGive i s d w f id
    let bitsOf (i : Instr) (f : Nat → Bool) : Prop := Accepts i s → ∃ z : PReg, Completes i s ((s.setP d z).traceMe 2 0 z) ∧
      ∀ k, k < 64 → z.getLsbD k = if m.getLsbD k then f k else (s.me.preg d).getLsbD k
    ok (.vcmpEq d a b g) (fun j => x j = y j) ∧ ok (.vcmpNe d a b g) (fun j => x j ≠ y j) ∧
    ok (.vcmpLt d a b g) (fun j => toS (x j) n < toS (y j) n) ∧ ok (.vcmpLe d a b g) (fun j => toS (x j) n ≤ toS (y j) n) ∧
    ok (.vcmpLtu d a b g) (fun j => x j < y j) ∧ ok (.vcmpLeu d a b g) (fun j => x j ≤ y j) ∧
    bitsOf (.pand d p q) (fun k => u.getLsbD k && v.getLsbD k) ∧ bitsOf (.por d p q) (fun k => u.getLsbD k || v.getLsbD k) ∧
    bitsOf (.pxor d p q) (fun k => u.getLsbD k ^^ v.getLsbD k) ∧ bitsOf (.pnot d p) (fun k => !u.getLsbD k) ∧
    bitsOf (.pfirst d p) (fun k => u.getLsbD k && (List.range k).all fun i => !u.getLsbD i) ∧
    bitsOf (.psMov d r) (fun k => (s.me.sreg r).getLsbD k) ∧
    (Accepts (.pcnt r p) s → WritesS (.pcnt r p) s r (BitVec.ofNat 64 ((List.range 64).filter fun k => u.getLsbD k && m.getLsbD k).length)) ∧
    (Accepts (.pmovS r p) s → ∃ z, WritesS (.pmovS r p) s r z ∧ ∀ k, k < 64 → z.getLsbD k = (u.getLsbD k && m.getLsbD k)) ∧
    decode 0x900C1004 = .ok (.pcnt 3 2) ∧ decode 0x6D080821 = .ok (.vcmpLt 2 ⟨0, 1⟩ ⟨0, 2⟩ 1)

/-- R151, R152, R146, R132: permutes and scans by places, compress and expand over the active places, reductions of the active elements, and
vsel bit by bit; that a scalar, constant or literal source of vsel gives its low byte to every byte is the model's reading. Model's choices, not the spec's: log 119. -/
def Obligations.PermutesScansAndReductions : Prop :=
  ∀ (s : State) (d : BitVec 5) (a b : Src) (g : BitVec 2) (r : BitVec 4) (v : BitVec 5), let w := widthOf g; let n := 8 * w; let N := 64 / w
    let x := elem (s.vsrc a (b.k ≠ 3) w) w; let y := elem (s.vsrc b true w) w; let on (j : Nat) := active s.me.pred w j
    let z := elem (s.me.vreg v) w
    let k : Int := if b.k = 0 then toS (elem (s.me.vreg b.n) w 0) n else (s.scalar b true).toInt
    let act := (List.range N).filter fun j => on j
    let ok (i : Instr) (f : Nat → Int) : Prop := Accepts i s → LanesGive i s d w f
    let all (i : Instr) (f : Nat → Nat) : Prop := Accepts i s → ∃ u, Completes i s (s.setV d u) ∧ ∀ j, j < N → elem u w j = f j
    let red (i : Instr) (t : Int) : Prop := Accepts i s → WritesS i s r (BitVec.ofInt 64 t)
    ok (.vbcast d a g) (fun _ => elem (s.vsrc a true w) w 0) ∧ ok (.vperm d a b g) (fun j => x (y j % N)) ∧
    ok (.vshuf d a b g) (fun j => x (if k % 4 = 0 then (if j < N / 2 then 2 * j else 2 * (j - N / 2) + 1)
      else if k % 4 = 1 then (if j % 2 = 0 then j / 2 else N / 2 + j / 2) else if k % 4 = 2 then N - 1 - j
      else if j % 2 = 0 then j + 1 else j - 1)) ∧
    ok (.vslide d a b g) (fun j => if 0 ≤ j + k ∧ j + k < N then x (j + k).toNat else 0) ∧
    ok (.vprefixAdd d a b g) (fun j => (y 0 + (((List.range (j + 1)).filter fun i => on i).map x).sum : Nat)) ∧
    all (.vcompress d a b g) (fun j => ((act[j]?).map x).getD (y 0)) ∧
    all (.vexpand d a b g) (fun j => if on j then x ((List.range j).filter fun i => on i).length else y 0) ∧
    red (.vredadd r v b g) (toS (y 0 + (act.map z).sum) n) ∧
    red (.vredmin r v b g) ((act.map fun j => toS (z j) n).foldl min (toS (y 0) n)) ∧
    red (.vredmax r v b g) ((act.map fun j => toS (z j) n).foldl max (toS (y 0) n)) ∧
    (∀ (c : Src), let m := s.vsrc c true 1; let o := s.vsrc b (c.k ≠ 3) 1
      Accepts (.vsel d v b c) s → LanesGive (.vsel d v b c) s d 1 (fun j => ((elem m 1 j &&& elem (s.me.vreg v) 1 j) |||
        ((255 - elem m 1 j) &&& elem o 1 j) : Nat)))

/-- R133, R143, R145, R146, R47: floating-point lanes. Each active element gives the rounded result of its operation; the flags of the active
elements are ORed into FPSTAT. R41, R42, R45, R46: special operands. NaN results are canonical, a signaling NaN raises NV, and the invalid and infinite cases give their
value and flag. -/
def Obligations.FloatingVectorsRoundLaneByLane : Prop :=
  (∀ (s : State) (d v : BitVec 5) (p : BitVec 3) (a b c : Src) (k : BitVec 2), let f := fmtOf k; let rm := s.me.rounding
     let x j := elem (s.fsrc a (b.k ≠ 3) f) f.bytes j; let y j := elem (s.fsrc b true f) f.bytes j; let z j := elem (s.fsrc a true f) f.bytes j
     let D := f.decode
     let ok (i : Instr) (g : Nat → Nat × BitVec 5) : Prop := Accepts i s → FpGives i s d f g
     let cmp (i : Instr) (q : FCmp) : Prop := Accepts i s → ∃ fl, FlagsOf s f.bytes (fun j => (fCompare f q (x j) (y j)).2) fl ∧
       BitsGive i s p f.bytes (fun j => (fCompare f q (x j) (y j)).1) (fun u => u.raise fl)
     let h := fmtOf s.me.fmt
     let t j := h.decode (elem (s.me.vreg v) h.bytes j); let m j := h.decode (elem (s.fsrc b (c.k ≠ 3) h) h.bytes j)
     let e j := h.decode (elem (s.fsrc c true h) h.bytes j)
     ok (.vfadd d a b k) (fun j => fAdd f rm (D (x j)) (D (y j))) ∧ ok (.vfsub d a b k) (fun j => fAdd f rm (D (x j)) (D (y j)).negate) ∧
     ok (.vfmul d a b k) (fun j => fMul f rm (D (x j)) (D (y j))) ∧ ok (.vfmin d a b k) (fun j => fMinMax f false (x j) (y j)) ∧
     ok (.vfmax d a b k) (fun j => fMinMax f true (x j) (y j)) ∧ ok (.vrcp d a k) (fun j => fDiv f rm (.fin false 1 0) (D (z j))) ∧
     ok (.vrsqrt d a k) (fun j => fRsqrt f rm (D (z j))) ∧
     cmp (.vfcmpEq p a b k) .eq ∧ cmp (.vfcmpLt p a b k) .lt ∧ cmp (.vfcmpLe p a b k) .le ∧ cmp (.vfcmpUn p a b k) .un ∧
     (Accepts (.vfma d v b c) s → FpGives (.vfma d v b c) s d h (fun j => fFma h rm (t j) (m j) (e j))) ∧
     (Accepts (.vfms d v b c) s → FpGives (.vfms d v b c) s d h (fun j => fFma h rm (t j) (m j) (e j).negate))) ∧
  (∀ (k rm : BitVec 2) (n m : Bool) (q : Nat) (e : Int), let f := fmtOf k; let nan := f.nan; let inf (b : Bool) := f.signed b f.infBits
     fAdd f rm (.inf n) (.inf !n) = (nan, NV) ∧ fAdd f rm (.inf n) (.inf n) = (inf n, 0) ∧ fAdd f rm (.inf n) (.fin m q e) = (inf n, 0) ∧
     fMul f rm (.inf n) (.fin m 0 e) = (nan, NV) ∧ fMul f rm (.fin m 0 e) (.inf n) = (nan, NV) ∧ (q ≠ 0 → fMul f rm (.inf n) (.fin m q e) = (inf (n != m), 0)) ∧
     (∀ z, fFma f rm (.inf n) (.fin m 0 e) z = (nan, NV)) ∧ (q ≠ 0 → fFma f rm (.inf n) (.fin m q e) (.inf (n == m)) = (nan, NV)) ∧
     fDiv f rm (.fin n 0 e) (.fin m 0 e) = (nan, NV) ∧ fDiv f rm (.inf n) (.inf m) = (nan, NV) ∧
     (q ≠ 0 → fDiv f rm (.fin n q e) (.fin m 0 e) = (inf (n != m), DZ)) ∧ fDiv f rm (.fin n q e) (.inf m) = (f.signed (n != m) 0, 0) ∧
     (q ≠ 0 → fSqrt f rm (.fin true q e) = (nan, NV)) ∧ fSqrt f rm (.fin n 0 e) = (f.signed n 0, 0) ∧ fSqrt f rm (.inf false) = (inf false, 0) ∧
     fRsqrt f rm (.fin n 0 e) = (inf n, DZ) ∧ (q ≠ 0 → fRsqrt f rm (.fin true q e) = (nan, NV)) ∧ fRsqrt f rm (.inf false) = (0, 0) ∧
     (∀ b x, fAdd f rm (.nan b) (.fin n q x) = (nan, if b then NV else 0) ∧ fMul f rm (.fin n q x) (.nan b) = (nan, if b then NV else 0) ∧
       fDiv f rm (.nan b) (.fin n q x) = (nan, if b then NV else 0) ∧ fSqrt f rm (.nan b) = (nan, if b then NV else 0)) ∧
     fAdd f rm (.fin n 0 e) (.fin n 0 e) = (f.signed n 0, 0) ∧ fAdd f rm (.fin n 0 e) (.fin (!n) 0 e) = (f.signed (rm = 3) 0, 0))

/-- R145, R147, R149, R150, R152, R71, R23: divisions, square roots and decodes take a ring entry of KIND 2 and commit with their flags when the
window closes; conversions, encodes and the tree sum write at once, with the flags of every active lane's conversion, of every block, and of every sum of R60's tree, whatever the predicate; that an
unextended literal b of vfredadd is converted to the format is the model's reading (log 121). R40, R43, R44: a datum that the format holds exactly is delivered as it is in every rounding mode, with no flag. Model's choices, not the spec's: log 45, log 121. -/
def Obligations.LongOperationsAndConversionsDeliver : Prop :=
  (∀ (s : State) (d v : BitVec 5) (a b : Src) (k : BitVec 2) (l : BitVec 4),
     let f := fmtOf k; let rm := s.me.rounding; let D := f.decode; let free := ∀ e ∈ s.me.ring, e.seq.toNat % 64 ≠ s.me.seqNext.toNat % 64
     let x j := D (elem (s.fsrc a (b.k ≠ 3) f) f.bytes j); let y j := D (elem (s.fsrc b true f) f.bytes j)
     let z j := D (elem (s.fsrc a true f) f.bytes j)
     let long (i : Instr) (w : Nat) (g : Nat → Nat × BitVec 5) : Prop := Accepts i s → free →
       ∃ t o e r fl, Completes i s t ∧ t.me.ops = s.me.ops ++ [o] ∧ o.left = some (l.toNat + 1) ∧ o.done = true ∧ o.seq = some s.me.seqNext ∧
         o.flags = fl ∧ o.commit.vs = [(d, r, activeLanes s.me.pred w)] ∧ o.commit.zero = s.me.zeroing ∧
         t.me.ring = s.me.ring ++ [e] ∧ e.kind = 2 ∧ e.seq = s.me.seqNext ∧ t.me.seqNext = s.me.seqNext + 1 ∧
         FlagsOf s w (fun j => (g j).2) fl ∧ ∀ j, j < 64 / w → active s.me.pred w j = true → elem r w j = (g j).1 % 2 ^ (8 * w)
     long (.vfdiv k d a b l) f.bytes (fun j => fDiv f rm (x j) (y j)) ∧ long (.vfsqrt k d a l) f.bytes (fun j => fSqrt f rm (z j)) ∧
     (vdecBad s.me.pred (toBytes (s.me.vreg v)) k.toNat 32 = none → k ≠ 2 → long (.vdec4 d v k l) 2 (fun j =>
       (decode4 (((toBytes (s.me.vreg v)).drop (j / geomCodes k.toNat * geomBytes k.toNat)).take (geomBytes k.toNat)) (j % geomCodes k.toNat), 0))) ∧
     (vdecBad s.me.pred (toBytes (s.me.vreg v)) 2 64 = none → Accepts (.vdec4 d v 2 l) s → free → ∃ t o q r, Completes (.vdec4 d v 2 l) s t ∧
       t.me.ops = s.me.ops ++ [o] ∧ o.done = true ∧ o.commit.vs = [(d, q, activeLanes s.me.pred 2), (d + 1, r, activeLanes s.me.pred 2)] ∧
       ∀ j, j < 64 → elem (if j < 32 then q else r) 2 (j % 32) = decode4 ((toBytes (s.me.vreg v)).take 36) j % 2 ^ 16) ∧
     (vdecBad s.me.pred (toBytes (s.me.vreg v)) k.toNat (if k = 2 then 64 else 32) ≠ none → s.me.task ≠ none → Accepts (.vdec4 d v k l) s → free →
       ∃ t, Completes (.vdec4 d v k l) s t ∧ t.me.lates = s.me.lates ++ [⟨.scaleInvalid, s.me.seqNext⟩]) ∧
     (∀ (c t : BitVec 3) (h : BitVec 1) (m n : BitVec 2), let ws := cvtWidth c n; let wd := cvtWidth t m; let N := 64 / max ws wd
       let hit (e : Nat) : Bool := if ws < wd then decide (e < N) else decide (h.toNat * N ≤ e ∧ e < h.toNat * N + N)
       Accepts (.vcvt c d v h m n t) s → ∃ r fl, Completes (.vcvt c d v h m n t) s ((s.setV d r).raise fl) ∧
         FlagsOf s wd (fun e => if hit e then (convert c t ws wd rm s.me.sat (elem (s.me.vreg v) ws (if ws < wd then e + h.toNat * N else e - h.toNat * N))).2 else 0) fl ∧
         ∀ e, e < 64 / wd → let from_ := if ws < wd then e + h.toNat * N else e - h.toNat * N
           let inPart := if ws < wd then e < N else h.toNat * N ≤ e ∧ e < h.toNat * N + N
           elem r wd e = if inPart then (if active s.me.pred wd e then (convert c t ws wd rm s.me.sat (elem (s.me.vreg v) ws from_)).1 % 2 ^ (8 * wd)
             else if s.me.zeroing then 0 else elem (s.me.vreg d) wd e) else elem (s.me.vreg d) wd e) ∧
     (∀ (t : BitVec 2), let g := geomCodes k.toNat; let N := if k = 2 then 64 else 32
       Accepts (.venc4 d v k t) s → ∃ r fl, Completes (.venc4 d v k t) s ((s.setV d r).raise fl) ∧
         let lanes (i : Nat) := (List.range g).map fun j => let q := i * g + j
             (active s.me.pred 2 (q % 32), bf16.decode (elem (s.me.vreg (v + if q < 32 then 0 else 1)) 2 (q % 32)))
         (∀ b, fl.getLsbD b = (List.range (N / g)).any fun i => (encodeBlock t.toNat rm (lanes i)).2.getLsbD b) ∧
         ∀ i, i < N / g → let ln := lanes i
           ((toBytes r).drop (i * geomBytes k.toNat)).take (geomBytes k.toNat) = (encodeBlock t.toNat rm ln).1) ∧
     (∀ (r : BitVec 4), (∀ j, j < 64 / f.bytes → active s.me.pred f.bytes j = false) → Accepts (.vfredadd r v b k) s →
       let q := fAdd f rm (.fin false 0 (1 - (f.bias : Int) - f.fb)) (y 0)
       Completes (.vfredadd r v b k) s ((s.setS r (BitVec.ofNat 64 q.1)).raise q.2)) ∧
     (∀ (r : BitVec 4) (i : Nat), i < 32 / f.bytes → (∀ j, j < 64 / f.bytes → active s.me.pred f.bytes j = decide (j / 2 = i)) →
       Accepts (.vfredadd r v b k) s → let e j := D (elem (s.me.vreg v) f.bytes j)
       let p := fAdd f rm (e (2 * i)) (e (2 * i + 1)); let q := fAdd f rm (D p.1) (y 0)
       Completes (.vfredadd r v b k) s ((s.setS r (BitVec.ofNat 64 q.1)).raise (p.2 ||| q.2))) ∧
     (∀ (r : BitVec 4), Accepts (.vfredadd r v b k) s →
       let p := treePlace f rm (fun j => if active s.me.pred f.bytes j then some (elem (s.me.vreg v) f.bytes j) else none) (if f.bytes = 4 then 4 else 5) 0
       let q := fAdd f rm (D (p.1.getD 0)) (y 0)
       Completes (.vfredadd r v b k) s ((s.setS r (BitVec.ofNat 64 q.1)).raise (p.2 ||| q.2)))) ∧
  (∀ (f : FFmt) (rm : BitVec 2) (sat : Bool) (x : Nat) (n : Bool) (m : Nat) (e : Int), f ∈ [fp32, fp16, bf16, e4m3, e5m2] → x < 2 ^ f.width →
     f.decode x = .fin n m e → f.round rm sat n m e = (x, 0))

/-! Vector memory, the matrix unit and the copy channels. -/

namespace Sys2Proof.Machine

/-- The ring place of the next dispatch is free (R23). -/
abbrev RingFree (s : State) : Prop := ∀ e ∈ s.me.ring, e.seq.toNat % 64 ≠ s.me.seqNext.toNat % 64

/-- No operation of the strand has the next number. -/
abbrev NewId (s : State) : Prop := ∀ o ∈ s.me.ops, o.id ≠ s.nextId

/-- Instruction i takes a ring entry of a kind, and its result v for scalar register d is there under a window of L instructions; more
says what else comes of it. -/
def Answers (i : Instr) (s : State) (L : BitVec 4) (kind : Nat) (d : BitVec 4) (v : Word) (more : State → Prop) : Prop :=
  ∃ t o e, Completes i s t ∧ t.me.ops = s.me.ops ++ [o] ∧ o.left = some (L.toNat + 1) ∧ o.done = true ∧ o.commit.sc = some (d, v) ∧
    o.seq = some s.me.seqNext ∧ t.me.ring = s.me.ring ++ [e] ∧ e.kind = kind ∧ e.seq = s.me.seqNext ∧
    t.me.seqNext = s.me.seqNext + 1 ∧ t.mem = s.mem ∧ more t

/-- In task mode instruction i takes a ring entry of KIND 6 and answers v; in service mode it answers v and takes none (R23, R161). -/
def AnswersHere (i : Instr) (s : State) (L : BitVec 4) (d : BitVec 4) (v : Word) (more : State → Prop) : Prop :=
  (s.me.mode = .task → Answers i s L 6 d v more) ∧ (s.me.mode = .service → ∃ t o, Completes i s t ∧ t.me.ops = s.me.ops ++ [o] ∧ o.left = some (L.toNat + 1) ∧ o.done = true ∧
    o.commit.sc = some (d, v) ∧ o.seq = none ∧ t.me.ring = s.me.ring ∧ t.me.seqNext = s.me.seqNext ∧ t.mem = s.mem ∧ more t)

/-- The buffer of a descriptor lies in the local window and its pointers in the descriptor. -/
abbrev Desc.here (d : Desc) : Prop := d.base.toNat + 2 ^ d.log2 ≤ Config.sramBytes ∧ d.ppmem = false ∧ d.cpmem = false

/-- A matrix instruction may issue: no fence stands against it, its strand owns the accumulator, and no access to the own SRAM is under
way. -/
abbrev MayMatrix (s : State) : Prop := gate s 2 = .ok () ∧ s.here.ownsAcc s.me.space s.me.ctxid = true ∧ s.ownBusy = false

/-- Instruction i puts one command, of kind k with descriptors ds, at the end of its brick's queue, under a ring entry of KIND 1. -/
def Queues (i : Instr) (s : State) (k : MatKind) (ds : List Desc) : Prop :=
  ∃ t m e, Completes i s t ∧ t.here.matq = s.here.matq ++ [m] ∧ m.kind = k ∧ m.descs = ds ∧ m.fired = false ∧ m.ctx = s.me.ctxKey ∧
    m.seq = s.me.seqNext ∧ t.me.ring = s.me.ring ++ [e] ∧ e.kind = 1 ∧ e.seq = s.me.seqNext ∧ t.here.acc = s.here.acc ∧ t.mem = s.mem

end Sys2Proof.Machine

/-- R135 to R138: vector loads and stores of the local window. A load delivers the bytes of its lines to the lanes that the predicate lets
through; a store writes exactly the bytes that it lets through (a running chain's CTRL keeps the fields that only hardware writes); an address above the VA space posts NOT_MAPPED before a store
tests its line's alignment. -/
def Obligations.VectorLoadsAndStoresMoveTheirLines : Prop :=
  ∀ (s : State) (d : BitVec 5) (q b : BitVec 4) (o : BitVec 11) (l : BitVec 4), s.me.answers = [] → NewId s →
    let e1 := s.mAddr b o 64; let e2 := s.mAddr b o 128; let m := s.me.pred; let pd : BitVec 5 := q ++ 0#1
    let bytesAt (v : VReg) (pa : Nat) : Prop := ∀ j, j < 64 → byteOf v j = s.byte (pa + j)
    let stored (t : State) (v : Nat → Byte) (pa n : Nat) : Prop :=
      (∀ j, j < n → (∀ r ∈ s.here.chains, paOff (pa + j) < r ∨ r + 8 ≤ paOff (pa + j)) → t.byte (pa + j) = if m.getLsbD (j % 64) then v j else s.byte (pa + j)) ∧
      ∀ a, (a < pa ∨ pa + n ≤ a) → s.inDeque a = false → t.byte a = s.byte a
    (Accepts (.vld d b o l) s → m ≠ 0 → FreeLocal s e1 64 → s.readPoison (s.hereAt e1) 64 = false →
      ∃ t p v, Completes (.vld d b o l) s t ∧ t.me.ops = s.me.ops ++ [p] ∧ p.left = some (l.toNat + 1) ∧ p.done = true ∧
        p.commit = ⟨none, [(d, v, m)], s.me.zeroing⟩ ∧ bytesAt v (s.hereAt e1) ∧ t.mem = s.mem) ∧
    (Accepts (.vldp q b o l) s → m ≠ 0 → FreeLocal s e2 128 → s.readPoison (s.hereAt e2) 64 = false → s.readPoison (s.hereAt e2 + 64) 64 = false →
      ∃ t p v w, Completes (.vldp q b o l) s t ∧ t.me.ops = s.me.ops ++ [p] ∧ p.left = some (l.toNat + 1) ∧ p.done = true ∧
        p.commit = ⟨none, [(pd, v, m), (pd + 1, w, m)], s.me.zeroing⟩ ∧ bytesAt v (s.hereAt e2) ∧ bytesAt w (s.hereAt e2 + 64) ∧ t.mem = s.mem) ∧
    (Accepts (.vst d b o) s → m ≠ 0 → FreeLocal s e1 64 → s.inDeque (s.hereAt e1) = false → Memory.wf s.mem = true →
      ∃ t, Completes (.vst d b o) s t ∧ stored t (byteOf (s.me.vreg d)) (s.hereAt e1) 64 ∧ t.me.v = s.me.v ∧ t.me.unacked = s.me.unacked) ∧
    (Accepts (.vstp q b o) s → m ≠ 0 → FreeLocal s e2 128 → s.inDeque (s.hereAt e2) = false → s.inDeque (s.hereAt e2 + 64) = false →
      Memory.wf s.mem = true → ∃ t, Completes (.vstp q b o) s t ∧ t.me.v = s.me.v ∧ t.me.unacked = s.me.unacked ∧
        stored t (fun j => if j < 64 then byteOf (s.me.vreg pd) j else byteOf (s.me.vreg (pd + 1)) (j - 64)) (s.hereAt e2) 128) ∧
    (Accepts (.vld d b o l) s → gate s 0 = .ok () → e1.toNat % 4 ≠ 0 → Traps (.vld d b o l) s .misaligned) ∧
    (Accepts (.vldp q b o l) s → gate s 0 = .ok () → e2.toNat % 4 ≠ 0 → Traps (.vldp q b o l) s .misaligned) ∧
    (Accepts (.vst d b o) s → gate s 0 = .ok () → e1.toNat % 64 ≠ 0 → (e1.toNat % 4 ≠ 0 ∨ e1.toNat < 2 ^ 57 ∨ m = 0) → Traps (.vst d b o) s .misaligned) ∧
    (Accepts (.vstp q b o) s → gate s 0 = .ok () → e2.toNat % 128 ≠ 0 → (e2.toNat % 4 ≠ 0 ∨ e2.toNat < 2 ^ 57 ∨ m = 0) → Traps (.vstp q b o) s .misaligned) ∧
    (Accepts (.vst d b o) s → gate s 0 = .ok () → e1.toNat % 4 = 0 → 2 ^ 57 ≤ e1.toNat → m ≠ 0 → exec (.vst d b o) s = .next (postFault s ⟨.notMapped, .store, e1, 0, 0, []⟩)) ∧
    (Accepts (.vstp q b o) s → gate s 0 = .ok () → e2.toNat % 4 = 0 → 2 ^ 57 ≤ e2.toNat → m ≠ 0 → exec (.vstp q b o) s = .next (postFault s ⟨.notMapped, .store, e2, 0, 0, []⟩))

/-- R139 to R141: a gather or scatter makes one access for each active element, at the base plus its index times the element's width, under a
ring entry of KIND 2; a misaligned element traps. Model's choices, not the spec's: log 34, log 46. -/
def Obligations.GathersAndScattersMakeOneAccessPerElement : Prop :=
  ∀ (s : State) (g : BitVec 2) (d : BitVec 5) (a : Src) (b : BitVec 5) (l : BitVec 4), s.me.answers = [] → NewId s → RingFree s →
    let w := widthOf g; let ea (j : Nat) : Word := s.scalar a false + BitVec.ofInt 64 (toS (elem (s.me.vreg b) w j) (8 * w) * w)
    let act := (List.range (64 / w)).filter fun j => active s.me.pred w j
    (Accepts (.vgather g d a b l) s → gate s 3 = .ok () → (∀ j ∈ act, (ea j).toNat % w = 0 ∧ (ea j).toNat < Config.sramBytes) →
      ∃ t o e, Completes (.vgather g d a b l) s t ∧ t.me.ops = s.me.ops ++ [o] ∧ o.kind = .gather d w (activeLanes s.me.pred w) ∧
        o.accs.map (fun c => (c.ea, c.pa, c.len, c.off)) = act.map (fun j => (ea j, s.hereAt (ea j), w, w * j)) ∧ (o.done = true ↔ act = []) ∧
        t.me.ring = s.me.ring ++ (if act = [] then [] else [e]) ∧ e.kind = 2 ∧ t.mem = s.mem) ∧
    (∀ (b op : Nat) (k : Fin 5) (o : Op) (c : PAcc) (m : PReg), (s.brick b).findOp op = some (k, o) → o.kind = .gather d w m → o.accs = [c] →
      o.done = false → o.buf = 0 → c.st = .pending → c.amo = none → c.len = w → s.homeReady c.pa = true → s.readBad b o.space c.ea.toNat c.pa w = false →
      ¬(paClass c.pa = 4 ∧ c.pa < 2 ^ 52) → ∃ t p, exec (.loadResponse b op 0) s = .next t ∧ (t.brick b).findOp op = some (k, p) ∧ p.done = true ∧
        p.commit.vs = [(d, BitVec.ofNat 512 (s.num c.pa w * 256 ^ c.off), m)] ∧ t.mem = s.mem) ∧
    (Accepts (.vscatter g d a b l) s → gate s 3 = .ok () → (∀ j ∈ act, (ea j).toNat % w = 0 ∧ (ea j).toNat < Config.sramBytes) → act ≠ [] →
      ∃ t o e fs, Completes (.vscatter g d a b l) s t ∧ t.me.ops = s.me.ops ++ [o] ∧ o.kind = .scatter act.length ∧ o.done = false ∧
        t.me.ring = s.me.ring ++ [e] ∧ e.kind = 2 ∧ t.here.flights = s.here.flights ++ fs ∧
        fs.map (fun f => (f.ea, f.len, f.act)) = act.map (fun j => (ea j, w, .write ((leBytes w (elem (s.me.vreg d) w j)).map some))) ∧
        (∀ f ∈ fs, f.counted = false ∧ f.op = some o.id) ∧ t.me.unacked = s.me.unacked ∧ t.mem = s.mem) ∧
    (Accepts (.vgather g d a b l) s → gate s 3 = .ok () → (∃ j ∈ act, (ea j).toNat % w ≠ 0) → Traps (.vgather g d a b l) s .misaligned) ∧
    (Accepts (.vscatter g d a b l) s → gate s 3 = .ok () → (∃ j ∈ act, (ea j).toNat % w ≠ 0) → Traps (.vscatter g d a b l) s .misaligned)

/-- R155 to R158, R162 to R165: matrix instructions whose buffers are the brick's own put their command into the queue; remote and panel commands go
to their targets; a stranger to the accumulator traps. R58, R153, R157, R158, R160, R165: the owner's oldest command fires once its buffers are ready, and its steps add the products of its tiles to the
accumulator; a fired command stores its image and leaves. Model's choices, not the spec's: log 6, log 52. -/
def Obligations.MatrixCommandsQueueFireAndComplete : Prop :=
  (∀ (s : State) (a b o d n : BitVec 4) (m : BitVec 6) (l : BitVec 4), let p := (m.extractLsb' 0 3).toNat; let g := (m.extractLsb' 3 2).toNat; let emit := m.getLsbD 5
     let q (i : Instr) (k : MatKind) (ns : List Nat) (good : List Desc → Bool) : Prop := ∀ ds, Accepts i s → MayMatrix s → s.skipped 0 = false →
       myDescs s ns = .ok ds → good ds = true → (∀ c ∈ ds, c.here) → s.here.queued < 128 → RingFree s → Queues i s k ds
     let tile (ds : List Desc) : Bool := ds.all fun c => c.item = 12 && c.count = 1
     let stranger (i : Instr) : Prop := Accepts i s → gate s 2 = .ok () → s.here.accown.getLsbD 63 = true → s.here.ownsAcc s.me.space s.me.ctxid = false →
       Traps i s .accNotOwner
     q (.mma a b o m l) (.mma p g emit) ([a.toNat, b.toNat] ++ if emit then [o.toNat] else []) (mmaDescs p) ∧
     q (.accZero l) .zero [] (fun _ => true) ∧ q (.accLd n l) .ld [n.toNat] tile ∧ q (.accSt n l) .st [n.toNat] tile ∧
     stranger (.mma a b o m l) ∧ stranger (.accZero l) ∧ stranger (.accLd n l) ∧ stranger (.accSt n l) ∧ stranger (.mmaR a d m l) ∧ stranger (.mmaP a d m l) ∧
     (∀ r s', Accepts (.mmaR a d m l) s → MayMatrix s → (s.me.sreg a).toNat % 8 = 0 → s.skipped 20 = false →
       readRec s 10 (s.me.sreg a) 8 32 needLoad 0 = .ok (r, s') → recordOk r (15 :: (List.range 16).map (· + 16)) [12, 13, 14] = true →
       (doubleAt r 0).toNat < Config.sramBytes → RingFree s' → ∃ t c x e, Completes (.mmaR a d m l) s t ∧ t.rcmds = s'.rcmds ++ [c] ∧
         c.dst = s'.cur.1 ∧ c.src = s'.cur.1 ∧ c.by_ = s'.cur.2.val ∧ c.key = s'.me.space ∧ c.nonce = numAt r 8 4 ∧ c.mode = m ∧ c.descs = [numAt r 12 1, numAt r 13 1, numAt r 14 1] ∧ c.panel = false ∧
         c.answered = none ∧ t.me.ops = s'.me.ops ++ [x] ∧ x.kind = .remote d 1 [] ∧ t.me.ring = s'.me.ring ++ [e] ∧ e.kind = 1) ∧
     (∀ r s' da db bs s'', let rows := numAt r 8 1 + 1; let cols := numAt r 9 1 + 1
       Accepts (.mmaP a d m l) s → MayMatrix s → (s.me.sreg a).toNat % 8 = 0 → s.me.answers = [] →
       readRec s 10 (s.me.sreg a) 8 32 needLoad 0 = .ok (r, s') → recordOk r ([10, 11] ++ (List.range 13).map (· + 19)) [16, 17, 18] = true →
       rows ≤ 16 → cols ≤ 32 → myDescs s' [numAt r 16 1, numAt r 17 1] = .ok [da, db] → panelDescs p rows cols da db = true → da.here → db.here →
       panelBricks s' (doubleAt r 0) cols (List.range (rows * cols)) = .ok (bs, s'') → RingFree s'' → ∃ t cs j x e, Completes (.mmaP a d m l) s t ∧
         t.rcmds = s''.rcmds ++ cs ∧ cs.map (fun c => (c.idx, c.dst)) = bs ∧ (∀ c ∈ cs, c.panel = true ∧ c.nonce = numAt r 12 4) ∧
         t.here.panels = s''.here.panels ++ [j] ∧ j.a = da ∧ j.b = db ∧ j.rows = rows ∧ j.cols = cols ∧
         t.me.ops = s''.me.ops ++ [x] ∧ x.kind = .remote d bs.length [] ∧ t.me.ring = s''.me.ring ++ [e] ∧ e.kind = 1)) ∧
  ((∀ (s₀ : State) (b : Nat) (m : MatCmd), let s := probed s₀ b
     s.mem = s₀.mem ∧ ((s.brick b).head = some m → m.ready s b = true →
     (m.kind = .zero → m.descs = [] → ∃ t, exec (.matrixCommandFire b) s₀ = .next t ∧ (t.brick b).acc = 0 ∧ t.mem = s.mem ∧
       ∀ q ∈ (t.brick b).matq, q.id = m.id → q.fired = true) ∧
     (∀ p g e x y o s' s2 ts, m.kind = .mma p g e → m.descs = x :: y :: o → descChecks s b m.space p g (m.descs.zip m.kind.roles) = .ok s' →
       let kx := (x.live s' b m.space false).toOption.getD 0; let ky := (y.live s' b m.space false).toOption.getD 0
       itemsReady s' b m.space x kx x.count = true → itemsReady s' b m.space y ky y.count = true →
       fetchSteps s' b m.space p g x y kx ky 0 0 x.count = .ok (ts, s2) → ∃ t, exec (.matrixCommandFire b) s₀ = .next t ∧
         (t.brick b).acc = if e then 0 else fireAcc (s2.brick b).acc p g ts))) ∧
   (∀ (s : State) (b : Nat) (m : MatCmd), (s.brick b).matq.find? (·.fired) = some m →
     let stored (u : State) : State := u.modBrick b fun y => { y.engineDone 16 m.id with entries := m.pins ++ (s.brick b).entries }
     (m.image = none → m.kind.stores = false → ∃ t, exec (.matrixCommandComplete b) s = .next t ∧ (∀ q ∈ (t.brick b).matq, q.id ≠ m.id) ∧ t.mem = s.mem) ∧
     (∀ img d s' u, m.image = some img → m.descs.getLast? = some d → s' = s.modBrick b (fun y => { y with entries := m.pins ++ y.entries }) →
       let va := d.itemAt ((d.live s' b m.space true).toOption.getD 0)
       linesReady (s'.openFor m.id) b m.space (tileLines va 4096) = true → d.homes s' b m.space = true → engineWrite s' b m.engine va (leBytes 4096 img.toNat) = some (.ok u) →
       ((u.brick b).enginePosted 16 m.id = true → ∃ t, exec (.matrixCommandComplete b) s = .next t ∧ t.mem = u.mem ∧ ∀ q ∈ (t.brick b).matq, q.id = m.id → q.image = none) ∧
       ((u.brick b).enginePosted 16 m.id = false → d.homes (stored u) b m.space = true →
         ∃ t, exec (.matrixCommandComplete b) s = .next t ∧ (∀ q ∈ (t.brick b).matq, q.id ≠ m.id) ∧ t.mem = (d.bump (stored u) b m.engine true 1).mem)) ∧
     (∀ d, m.image = none → m.kind.stores = true → m.descs.getLast? = some d → (s.brick b).engineBusy 16 m.id = false → d.homes (stored s) b m.space = true →
       ∃ t, exec (.matrixCommandComplete b) s = .next t ∧ (∀ q ∈ (t.brick b).matq, q.id ≠ m.id) ∧ t.mem = (d.bump (stored s) b m.engine true 1).mem)) ∧
   (∀ (p g : Nat) (x : Acc) (t : Tiles) (n : Nat), n < 1024 → accElem (matStep p g x t) n % 2 ^ 32 =
     addChunks (accElem x n) ((tileChunks p g false t.a).getD (n / 32) []) ((tileChunks p g true t.b).getD (n % 32) []) % 2 ^ 32))

/-- R161, R163, R164: a target without the capability refuses a command, one that has it queues the command, and the answers make the issuer's
status. Model's choices, not the spec's: log 53, log 54. -/
def Obligations.RemoteCommandsAreAcceptedOrRefused : Prop :=
  (∀ (s : State) (n : Nat) (c : RemoteCmd), s.rcmds[n]? = some c → c.answered = none → c.tok = none → c.answers = [] →
    let i : Instr := if c.panel then .mmaPRequest n else .mmaRRequest n
    ((s.brick c.dst).slotFor c.key c.nonce = none → ∃ t, exec i s = .next t ∧ (t.rcmds[n]?).bind (·.answered) = some false ∧ (t.brick c.dst) = s.brick c.dst) ∧
    (∀ k z st sp save ctxid s1 q ds s2, (s.brick c.dst).slotFor c.key c.nonce = some (k, z) → (s.brick c.dst).whereIs z.ctx z.strand = some (st, sp, save, ctxid) →
      (s.brick c.dst).accown.getLsbD 63 = true → slotDescs s c.dst z c = some ds → descChecks s c.dst sp (c.mode.extractLsb' 0 3).toNat (c.mode.extractLsb' 3 2).toNat
        (ds.zip (if c.panel then [.out] else [.opA, .opB, .out])) = .ok s1 → (s1.brick c.dst).queued < 128 → ringFor s1 c.dst st z.ctx z.pc c.insn (BitVec.ofNat 32
        ((if c.panel then 255 + 256 * 255 else c.descs.getD 0 0 + 256 * c.descs.getD 1 0) + 65536 * (if c.mode.getLsbD 5 then c.descs.getLastD 0 else 255) + 2 ^ 24 * c.mode.toNat)) = some (s2, q) →
      ∃ t m, exec i s = .next t ∧ (t.brick c.dst).matq = (s2.brick c.dst).matq ++ [m] ∧ m.slot = some k ∧ m.ctx = z.ctx ∧ m.descs = ds ∧ m.issuer = some (c.src, c.by_, c.id))) ∧
  (∀ (s : State) (b op : Nat) (k : Fin 5) (o : Op) (d : BitVec 4) (c : RemoteCmd) (ok : Bool), s.rcmds = [c] → c.src = b → c.op = op → c.answered = some ok →
    (s.brick b).findOp op = some (k, o) → o.kind = .remote d 1 [] → (s.brick b).panels = [] →
    ∃ t p, exec (.capabilityAnswer b op) s = .next t ∧ t.rcmds = [] ∧ (t.brick b).findOp op = some (k, p) ∧ p.done = true ∧
      p.commit.sc = some (d, if ok then 0 else BitVec.ofNat 64 (0x63 + 0x10000 + c.idx % 512 * 2 ^ 32)))

/-- R161, R175: mx.open answers the slot it took, or −1, −2 or −3; mx.close frees a slot of its own with the commands that wait under it, or answers
−1; that a literal A has no encoding (log 34) and that mx.close waits for fired commands at its issue (log 55) are the model's readings. R23: the three take a ring entry in task mode alone. R175: mx.ring reads a double of a ring entry of the own context, or 0; in task mode it takes a ring entry of KIND 6, in service mode none, so that it never waits for one. Model's choices, not the spec's: log 34, log 55. -/
def Obligations.CapabilitySlotsOpenAndClose : Prop :=
  let read (s : State) (a b : Src) : Word := let q := s.srcA a b; let n := (s.srcB b).toNat % 4
    match s.me.ring.find? (fun e => e.seq.toNat % 64 = q.toNat % 64) with
    | some e => if e.seq.toNat ≠ q.toNat % 2 ^ 32 ∨ e.tag ≠ s.me.ctxKey then 0
      else if n = 0 then BitVec.ofNat 64 (e.seq.toNat + e.kind * 2 ^ 32 + (if e.fault.isSome then 2 else 1) * 2 ^ 40)
      else if n = 1 then e.pc else if n = 2 then e.args ++ e.insn else e.addr
    | none => 0
  (∀ (s : State) (d : BitVec 4) (a : Src) (l : BitVec 4), (s.me.mode = .task → RingFree s) → let w := s.scalar a false; let key := w.toNat % 2 ^ 20; let nonce := w.toNat / 2 ^ 32
    let taken : Prop := ∃ z, some z ∈ s.here.slots.toList ∧ z.key = key ∧ z.nonce = nonce
    let opens (v : Word) (more : State → Prop) : Prop := AnswersHere (.mxOpen d a l) s l d v more
    (Accepts (.mxOpen d a l) s →
      (w.toNat / 2 ^ 20 % 2 ^ 12 ≠ 0 → opens (-3) fun t => t.here.slots = s.here.slots) ∧
      (w.toNat / 2 ^ 20 % 2 ^ 12 = 0 → taken → opens (-2) fun t => t.here.slots = s.here.slots) ∧
      (w.toNat / 2 ^ 20 % 2 ^ 12 = 0 → ¬taken → none ∉ s.here.slots.toList → opens (-1) fun t => t.here.slots = s.here.slots) ∧
      (∀ k, w.toNat / 2 ^ 20 % 2 ^ 12 = 0 → ¬taken → s.here.slots.toList.findIdx? Option.isNone = some k → opens (BitVec.ofNat 64 k) fun t =>
        t.here.slots.toList[k]? = some (some ⟨key, nonce, s.me.ctxKey, s.cur.2, s.me.pc, s.me.bufbase⟩))) ∧
    (Accepts (.mxClose d a l) s → let k := w.toNat; let mine := (s.here.slots.toList)[k]?.any fun o => o.any fun z => z.ctx = s.me.ctxKey
      (mine = false → AnswersHere (.mxClose d a l) s l d (-1) fun t => t.here.slots = s.here.slots ∧ t.here.matq = s.here.matq) ∧
      (mine = true → s.here.matq.any (fun m => m.slot = some k && m.fired) = true → exec (.mxClose d a l) s = .next s) ∧
      (mine = true → s.here.matq.all (fun m => m.slot ≠ some k) = true → AnswersHere (.mxClose d a l) s l d 0 fun t =>
        t.here.slots.toList[k]? = some none ∧ t.here.matq = s.here.matq) ∧
      (mine = true → s.here.matq.all (fun m => !(m.slot = some k && m.fired)) = true → ∃ t, Completes (.mxClose d a l) s t ∧
        t.here.slots.toList[k]? = some none ∧ ∀ m ∈ t.here.matq, m.slot ≠ some k))) ∧
  (∀ (s : State) (d : BitVec 4) (a b : Src) (l : BitVec 4), Accepts (.mxRing d a b l) s → (s.me.mode = .task → RingFree s → Answers (.mxRing d a b l) s l 6 d (read s a b) fun _ => True) ∧
    (s.me.mode = .service → Completes (.mxRing d a b l) s (s.loaded l d (read s a b)))) ∧
  decode 0xA1153610 = .ok (.mxRing 5 ⟨1, 6⟩ ⟨3, 1⟩ 0)

/-- R30, R166, R167: buf.set copies a record over descriptor n, buf.adv adds to its PROD or CONS, buf.q reads their difference and the capacity. The
pointers of the statement lie in the descriptor. Model's choices, not the spec's: log 6, log 57. -/
def Obligations.BufferInstructionsWorkOnDescriptors : Prop :=
  ∀ (s : State) (n d : BitVec 4), let at_ := descAt s.me.bufbase n.toNat; let pa := sramPa s.cur.1 at_
    let adv (i : Instr) (off : Nat) (ptrMem : Desc → Bool) : Prop := ∀ q, Accepts i s → s.desc? s.cur.1 s.me.bufbase n.toNat false = some q → ptrMem q = false →
      FreeLocal s (BitVec.ofNat 64 (at_ + off)) 8 → s.inDeque (pa + off) = false → ∃ t, Completes i s t ∧
        t.mem = (s.softNum (pa + off) 8 ((s.num (pa + off) 8 + (s.me.sreg d).toNat % 2 ^ 32) % 2 ^ 32)).mem ∧ t.me.s = s.me.s
    (∀ r s', Accepts (.bufSet n d) s → (s.me.sreg d).toNat % 8 = 0 → at_ < Config.sramBytes → readRec s 0 (s.me.sreg d) 8 32 needLoad 0 = .ok (r, s') → descBad r true = false →
      gate s' 0 = .ok () → s'.answer 40 (BitVec.ofNat 64 at_) = some (BitVec.ofNat 64 at_) → s'.ownBusy = false → s'.inDeque (sramPa s'.cur.1 at_) = false →
      ∃ t, Completes (.bufSet n d) s t ∧ t.mem = (s'.poke (sramPa s'.cur.1 at_) (s'.soft (sramPa s'.cur.1 at_) (r.map some))).mem) ∧
    (∀ r s', Accepts (.bufSet n d) s → (s.me.sreg d).toNat % 8 = 0 → readRec s 0 (s.me.sreg d) 8 32 needLoad 0 = .ok (r, s') → descBad r true = true →
      Traps (.bufSet n d) s .bufDescInvalid) ∧
    (s.me.unacked = 0 → adv (.bufAdvP n d) 16 (·.ppmem)) ∧ (loadBusy s.me.ops s.nextId = false → adv (.bufAdvC n d) 24 (·.cpmem)) ∧
    (∀ q, Accepts (.bufQ d n) s → s.desc? s.cur.1 s.me.bufbase n.toNat false = some q → q.ppmem = false → q.cpmem = false → s.me.answers = [] → s.ownBusy = false →
      gate s 0 = .ok () → at_ + 32 ≤ Config.sramBytes →
      (∀ off ∈ [16, 24], s.lineBusy s.cur.1 s.cur.2 s.nextId s.me.space (at_ + off) (some (pa + off)) = false ∧ s.readPoison (pa + off) 8 = false) →
      WritesS (.bufQ d n) s d (BitVec.ofNat 64 ((s.num (pa + 16) 8 % 2 ^ 32 + 2 ^ 32 - s.num (pa + 24) 8 % 2 ^ 32) % 2 ^ 32 + 2 ^ (q.log2 - q.item) * 2 ^ 32)))

/-- R168, R170 to R172: a start store starts or latches its copy; the copy is checked and cut into chunks; each chunk moves its bytes and advances the
channel; with the last one performed the channel is done and COMPL takes 1. R173, R174: the copy instructions take a ring entry of KIND 3. cp.ptr reads the write pointer; cp.wait answers CHUNKS, STATUS or POISON at once where it
tests or its condition holds, else waits until it does; cp.inv empties the template cache. Model's choices, not the spec's: log 16, log 18, log 58. -/
def Obligations.CopiesRunAndAreWaitedFor : Prop :=
  ((∀ (s t : State) (b n c : Nat) (f : Flight), (s.brick b).flights[n]? = some f → f.arrived = false → (s.brick b).held = [] →
     s.lineBusy b f.strand f.id f.space f.ea.toNat (s.flightPa b f) = false → startChannel s b f = some (c, t) → ((t.brick b).chan c).latched = none → (t.brick b).held = [] →
     templateWaits s b ⟨f.id, f.ctx, BitVec.ofNat 64 f.act.value, none, none, f.strand, f.space, f.pc, []⟩ = false →
     ∃ u j, exec (.copyStart b n) s = .next u ∧ j.id = f.id ∧ j.data = BitVec.ofNat 64 f.act.value ∧
       (((t.brick b).chan c).job = none → ((u.brick b).chan c).st = .running ∧ ((u.brick b).chan c).job = some j ∧ ((u.brick b).chan c).begun = false) ∧
       (((t.brick b).chan c).job ≠ none → ((u.brick b).chan c).latched = some j) ∧ u.mem = t.mem) ∧
   (∀ (s : State) (b c : Nat) (j : CopyStart) (t : Template), c < 8 → ((s.brick b).chan c).job = some j → j.tmpl = some t →
     (((s.brick b).chan c).begun = false → j.code = none →
       (∀ v, t.bad j.data = true → bumpCompl s b j (2 ^ 32) = some v → ∃ u, exec (.copyBegin b c) s = .next u ∧ ((u.brick b).chan c).st = .failed ∧
         ((u.brick b).chan c).code = some .cpTemplateInvalid ∧ ((u.brick b).chan c).job = none ∧ u.mem = v.mem) ∧
       (∀ s', t.bad j.data = false → copyExtents s b j.space t (startOffset j.data) = .ok s' → ∃ u, exec (.copyBegin b c) s = .next u ∧
         ((u.brick b).chan c).begun = true ∧ ((u.brick b).chan c).left = t.chunks (startOffset j.data) ∧ u.mem = s'.mem)) ∧
     (((s.brick b).chan c).begun = true →
       (∀ i k, ((s.brick b).chan c).left[i]? = some k → (i = 0 ∨ t.bitmap = true) → copyHeld s j = false →
         let ended (u : State) : Prop := ((u.brick b).chan c).left = ((s.brick b).chan c).left.filter (fun q => q.idx ≠ k.idx) ∧
           ((u.brick b).chan c).written = ((s.brick b).chan c).written + k.len ∧ (t.bitmap = false → ((u.brick b).chan c).ptr = ((s.brick b).chan c).ptr + k.len)
         (∀ ps s1 pd s2 v, (s.brick b).enginePosted (8 + c) k.idx = false → linesReady s b j.space (linePieces 16 k.src k.len ++ linePieces 16 k.dst k.len) = true →
           bytePlaces s b j.space true (copyFault true false) (linePieces 16 k.src k.len) = .ok (ps, s1) →
           bytePlaces s1 b j.space false (copyFault false true) (linePieces 16 k.dst k.len) = .ok (pd, s2) →
           writeRuns s2 b (j.engine c k.idx) k.dst (runs (chunkBytesOut s (ps.any fun a => s.linkDown b j.space k.src a)
             (paRanges s b j.space ((t.rows (startOffset j.data)).map fun q => (q.1, t.xlen)))
             (paRanges s b j.space ((t.rows (startOffset j.data)).map fun q => (q.2, t.xlen))) ps pd)) = some v →
           ((v.brick b).enginePosted (8 + c) k.idx = false → t.land = 0 → ∃ u, exec (.copyChunk b c i) s = .next u ∧ ended u ∧ u.mem = v.mem) ∧
           ((v.brick b).enginePosted (8 + c) k.idx = true → ∃ u, exec (.copyChunk b c i) s = .next u ∧ ((u.brick b).chan c).left = ((s.brick b).chan c).left ∧
             u.mem = v.mem)) ∧
         ((s.brick b).enginePosted (8 + c) k.idx = true → (s.brick b).engineBusy (8 + c) k.idx = false → t.land = 0 →
           ∃ u, exec (.copyChunk b c i) s = .next u ∧ ended u ∧ u.mem = s.mem)) ∧
       (∀ v, ((s.brick b).chan c).left = [] → bumpCompl s b j 1 = some v → ∃ u, exec (.copyComplete b c) s = .next u ∧ ((u.brick b).chan c).st = .done ∧
         ((u.brick b).chan c).job = none ∧ ((u.brick b).chan c).ptr = ((s.brick b).chan c).written ∧ u.mem = v.mem)) ∧
     (∀ n, (t.compl = 0 → bumpCompl s b j n = some s) ∧
       (t.compl ≠ 0 → t.compl.toNat % 8 = 0 → t.compl.toNat < Config.sramBytes → let pa := sramPa b t.compl.toNat
         s.inDeque pa = false → s.readPoison pa 8 = false → ∃ v, bumpCompl s b j n = some v ∧ v.mem = (s.softNum pa 8 ((s.num pa 8 + n) % 2 ^ 64)).mem)))) ∧
  (∀ (s : State) (d m : BitVec 4) (c : BitVec 3) (x : BitVec 2) (l : BitVec 4), RingFree s → let q := s.here.chan c.toNat; let k := s.me.sreg m
     let holds : Prop := q.st = .done ∨ q.st = .failed ∨ (k ≠ 0 ∧ q.chunks &&& k = k)
     let v : Word := if x = 0 then q.chunks else if x = 1 then q.status else q.poison
     (Accepts (.cpPtr d c l) s → Answers (.cpPtr d c l) s l 3 d (BitVec.ofNat 64 q.ptr) fun _ => True) ∧
     (Accepts (.cpWait d c m 1 x l) s → Answers (.cpWait d c m 1 x l) s l 3 d v fun _ => True) ∧
     (Accepts (.cpWait d c m 0 x l) s → holds → Answers (.cpWait d c m 0 x l) s l 3 d v fun _ => True) ∧
     (Accepts (.cpWait d c m 0 x l) s → ¬holds → ∃ t o, Completes (.cpWait d c m 0 x l) s t ∧ t.me.ops = s.me.ops ++ [o] ∧ o.done = false ∧
       o.kind = .cpWait d c.toNat k x.toNat) ∧
     (Accepts (.cpInv l) s → ∃ t e, Completes (.cpInv l) s t ∧ t.here.tcache = [] ∧ t.me.ring = s.me.ring ++ [e] ∧ e.kind = 3 ∧ t.mem = s.mem))

/-! Tasks, messages, footings, chains, spaces and control. -/

namespace Sys2Proof.Machine

/-- Instruction i ends the running task with a status: the strand is free, and the launch counts one task less (R180). -/
def Ends (i : Instr) (s : State) (status : Word) : Prop :=
  ∃ u t, exec i s = .next u ∧ s.me.task = some t ∧ u.me.task = none ∧ u.launches = (launchEnd s t status).launches

/-- A chain operation i completes from state s1 with the result c: ring entry of KIND 5 and an operation that is done (R195). -/
def Chained (i : Instr) (s s1 : State) (c : Commit) : Prop :=
  ∃ t o e, Completes i s t ∧ t.me.ops = s1.me.ops ++ [o] ∧ o.done = true ∧ o.commit = c ∧ t.me.ring = s1.me.ring ++ [e] ∧ e.kind = 5 ∧ t.mem = s1.mem

/-- A double of the brick's own SRAM may be read at its home now: no earlier access to it is under way and it is not poisoned. -/
abbrev ReadsHere (s : State) (ea : Word) : Prop := ea.toNat + 8 ≤ Config.sramBytes ∧ s.answer 0 ea = some ea ∧ s.ownBusy = false ∧
  s.lineBusy s.cur.1 s.cur.2 s.nextId s.me.space ea.toNat (some (s.hereAt ea)) = false ∧ s.readPoison (s.hereAt ea) 8 = false

end Sys2Proof.Machine

/-- R177: fork counts the child on its join counter, then pushes a record with the entry and s0, s1 at the bottom of the deque; with the deque full the
child runs inline. -/
def Obligations.ForkPushesARecord : Prop :=
  ∀ (s : State) (a b : Src), let e := s.srcA a b; let j := s.srcB b; let i := Instr.fork a b; Accepts i s →
    (e.toNat % 4 ≠ 0 ∨ j.toNat % 8 ≠ 0 → Traps i s .misaligned) ∧
    (e.toNat % 4 = 0 → j.toNat % 8 = 0 → ((j = 0 ∧ s.me.phase = 0) ∨ s.me.phase = 1) → s.creatorDrained = true →
      (s.here.deque.length < 64 → ∃ t r, GoesTo i s t (s.me.pc + 4) ∧ t.here.deque = r :: s.here.deque ∧ r.entry = e ∧ r.joinAddr = j ∧
        r.nojoin = decide (j = 0) ∧ r.arg0 = s.me.sreg 0 ∧ r.arg1 = s.me.sreg 1 ∧ t.me.s = s.me.s ∧ t.mem = s.mem) ∧
      (64 ≤ s.here.deque.length → j = 0 → isMessage s.cur.1 s.cur.2 = false → GoesTo i s ((s.setS 2 0).setS 14 (s.me.pc + 4)) e)) ∧
    (e.toNat % 4 = 0 → j ≠ 0 → s.me.phase = 0 → FreeLocal s j 8 → s.inDeque (s.hereAt j) = false → s.readPoison (s.hereAt j) 8 = false →
      ∃ u, exec i s = .next u ∧ u.me.phase = 1 ∧ u.me.pc = s.me.pc ∧ u.mem = (s.softNum (s.hereAt j) 8 ((s.num (s.hereAt j) 8 + 1) % 2 ^ 64)).mem) ∧
    (e.toNat % 4 = 0 → j.toNat % 8 = 0 → s.me.phase = 2 → s.me.unacked = 0 → GoesTo i s ((s.setS 2 j).setS 14 (s.me.pc + 4)) e)

/-- R93, R178 to R180, R182: join waits for a counter that is zero; texit, exit and a jump to 0 end the task; spawn.g adds a launch that waits, or
answers −1 with 64 waiting. R181: migrate traps while the task owns the accumulator, a ring entry or a slot; else the task leaves in a frame with its s registers for another
brick, or goes on at its own. Model's choices, not the spec's: log 6, log 59, log 60, log 63. -/
def Obligations.TasksJoinSpawnMigrateAndEnd : Prop :=
  (∀ (s : State) (d r : BitVec 4) (a : Src), s.me.ops = [] → let v := s.src1 a; let ends (i : Instr) (st : Word) : Prop := Accepts i s → s.me.task ≠ none → s.me.lates = [] → endBusy s s.cur.1 s.cur.2 = false → Ends i s st
     (Accepts (.join a) s → v = 0 → ∃ t, Completes (.join a) s t ∧ t.here.rrb = [] ∧ t.me.s = s.me.s ∧ t.mem = s.mem) ∧
     (Accepts (.join a) s → v ≠ 0 → v.toNat % 8 = 0 → gate s 0 = .ok () → ReadsHere s v →
       (s.num (s.hereAt v) 8 = 0 → ∃ t, Completes (.join a) s t ∧ t.here.rrb = [] ∧ t.me.s = s.me.s ∧ t.mem = s.mem) ∧
       (s.num (s.hereAt v) 8 ≠ 0 → ∃ u, exec (.join a) s = .next u ∧ u.me.block = some (.join v) ∧ u.me.pc = s.me.groupPc ∧ u.me.s = s.me.s)) ∧
     ends (.texit a) v ∧ ends .exit 0 ∧ (s.me.sreg r = 0 → ends (.jr r) (s.me.sreg 0)) ∧ (s.me.sreg 14 = 0 → ends .ret (s.me.sreg 0)) ∧
     (∀ l s', Accepts (.spawnG d a) s → v.toNat % 64 = 0 → s.creatorDrained = true → readRec s 0 v 64 64 needLoad 0 = .ok (l, s') →
       ((s'.deviceQueue (dieOf s'.cur.1) s'.me.space).length < 64 → ∃ (t : State) (L : Launch), Completes (.spawnG d a) s (t.setS d 0) ∧ t.launches = s'.launches ++ [L] ∧
         L.space = s'.me.space ∧ L.child = true ∧ L.st = .waiting ∧ t.mem = s'.mem) ∧
       (64 ≤ (s'.deviceQueue (dieOf s'.cur.1) s'.me.space).length → Completes (.spawnG d a) s (s'.setS d (BitVec.allOnes 64))))) ∧
  (∀ (s : State) (a : Src) (t : Task), s.me.ops = [] → s.me.task = some t → Accepts (.migrate a) s → let x := s.src1 a
     (migrateRefused s = true → Traps (.migrate a) s .migrateWithAcc) ∧
     (∀ dst s', migrateRefused s = false → sramHome s 0 x false = .ok (some (dst, s')) → s'.me = s.me → dst ≠ s'.cur.1 → s.me.unacked = 0 →
       ∃ u f, exec (.migrate a) s = .next u ∧ u.frames = s'.frames ++ [f] ∧ f.s = s.me.s ∧ f.pc = s.me.pc + 4 ∧ f.ctxid = s.me.ctxid ∧ f.space = s.me.space ∧
         f.dst = dst ∧ f.task.launch = t.launch ∧ f.task.stages = [] ∧ u.me.task = none) ∧
     (migrateRefused s = false → s.me.unacked = 0 → s.answer 0 x = some x → x.toNat < Config.sramBytes →
       ∃ u, exec (.migrate a) s = .next u ∧ u.me.pc = s.me.pc + 4 ∧ u.me.s = s.me.s ∧ u.me.bindtab = 0 ∧ u.here.rrb = [] ∧ u.me.task = some t ∧ u.mem = s.mem))

/-- R184, R185, R188, R189: send and sendh put their message on the network and wait for its status; mend ends the handler; wfm takes the oldest message
that matches, or blocks. Model's choices, not the spec's: log 6, log 68. -/
def Obligations.MessagesAreSentAndTaken : Prop :=
  ∀ (s : State) (d : BitVec 4) (a b : Src) (l : BitVec 4), let x := s.srcA a b; let y := s.srcB b
    let sends (i : Instr) (h : Bool) : Prop := Accepts i s → gate s 4 = .ok () →
      (y.toNat % 8 ≠ 0 → Traps i s .misaligned) ∧
      (∀ r s', y.toNat % 8 = 0 → readRec s 0 y 8 16 needBlock 0 = .ok (r, s') → hdrBad (numAt r 0 8) h = true → Traps i s .reservedField) ∧
      (∀ m s1 land s2 dst s3, y.toNat % 8 = 0 → readBlock s y h = .ok (m, s1) → checkLand s1 m.land = .ok (land, s2) →
        sramHome s2 31 x true = .ok (some (dst, s3)) → ∃ t o q, Completes i s t ∧ t.net = s3.net ++ [q] ∧ q.dst = dst ∧ q.data = m.data ∧ q.code = m.code ∧
          q.hdr = BitVec.ofNat 64 m.hdr ∧ q.op = some o.id ∧ q.srcBrick = s3.cur.1 ∧ t.me.ops = s3.me.ops ++ [o] ∧ o.kind = .msg d land (land = 0) none ∧ o.done = false)
    let tag : Option (BitVec 16) := if y = BitVec.allOnes 64 then none else some (y.truncate 16)
    sends (.send d a b l) false ∧ sends (.sendh d a b l) true ∧
    (Accepts .mend s → s.me.ops = [] → s.me.unacked = 0 → ∃ u, exec .mend s = .next u ∧ u.here.handler = none ∧ u.here.inbox = s.here.inbox ∧ u.mem = s.mem) ∧
    (Accepts (.wfm d a b) s → x.toNat % 64 ≠ 0 ∨ Config.sramBytes ≤ x.toNat → Traps (.wfm d a b) s .misaligned) ∧
    (Accepts (.wfm d a b) s → x.toNat % 64 = 0 → x.toNat < Config.sramBytes → s.me.ops = [] → s.ownBusy = false →
      (∀ m, wfmPick s tag = some m → ∃ t : State, Completes (.wfm d a b) s (t.setS d m.hdr) ∧ t.here.inbox = s.here.inbox.erase m ∧ t.here.heap = s.here.heap.erase m ∧
        t.mem = (s.writeOpt (s.hereAt x) (s.soft (s.hereAt x) (m.image.map some))).mem ∧ t.me.s = s.me.s) ∧
      (wfmPick s tag = none → ∃ u, exec (.wfm d a b) s = .next u ∧ u.me.block = some (.wfm tag) ∧ u.mem = s.mem))

/-- R190 to R194: a footing instruction on a channel of the launch takes a ring entry of KIND 4 and arrives, fbar.m only once its stores are acknowledged;
fpoll reads phase and pending; any other channel traps. -/
def Obligations.FootingInstructionsArrive : Prop :=
  ∀ (s : State) (c : BitVec 6) (x d l : BitVec 4) (op : BitVec 5), RingFree s → let key := if c.toNat < 48 then 64 * dieOf s.cur.1 + c.toNat else 512 + c.toNat
    let may := s.here.footmask.getLsbD c.toNat
    let arrives (i : Instr) (r : Option (BitVec 4)) (w : FootOp) (drain : Bool) : Prop := Accepts i s → (may = false → Traps i s .privilege) ∧ (may = true →
      ∃ t o e, Completes i s t ∧ t.me.ops = s.me.ops ++ [o] ∧ o.kind = .foot key r drain ∧ o.done = false ∧ o.seq = some s.me.seqNext ∧
        t.me.ring = s.me.ring ++ [e] ∧ e.kind = 4 ∧ t.mem = s.mem ∧ t.foots = if drain then s.foots else
          s.foots.map fun f => if f.key = key then f.arrive ⟨s.cur.1, s.me.ctxKey, s.nextId, w, s.cycle, false⟩ else f)
    arrives (.fbar c l) none .bar false ∧ arrives (.fbarM c l) none .barM true ∧ arrives (.fbcast c d l) (some d) (.bcast none) false ∧
    arrives (.fbcastTx c x d l) (some d) (.bcast (some (s.me.sreg x))) false ∧
    arrives (.fcomb c x d op l) (some d) (.comb op.toNat ((s.me.sreg x).truncate 32)) false ∧
    (Accepts (.fpoll c d l) s → (may = false → Traps (.fpoll c d l) s .privilege) ∧ (may = true →
      Answers (.fpoll c d l) s l 4 d (BitVec.ofNat 64 (((s.foots.find? fun f => f.key = key).map fun f => f.phase.toNat).getD 0 +
        if s.arrivalPending key s.cur.1 s.me.ctxKey then 2 ^ 32 else 0)) fun t => t.foots = s.foots))

/-- R195 to R198: get takes the item at CONS and put writes one at PROD, in spread form; in folded form they go by the slot, or hand control to the
neighbouring stage. Model's choices, not the spec's: log 6, log 30. -/
def Obligations.GetAndPutMoveItems : Prop :=
  ∀ (s : State) (d : BitVec 4) (v : BitVec 5) (a b : Src) (l : BitVec 4) (r : Nat) (q : Desc), let n := (s.srcB b).toNat; let h := s.cur.1; let c := chainCtrl s h r
    chainRec s (s.srcA a b) = .ok r → s.me.ops = [] → RingFree s → let closed := s.modMe Strand.closeWindows
    let gets (i : Instr) (m : Item) : Prop := Accepts i s → linkOf s h r n m.log2 = .ok q →
      ((ctrlRun c && ctrlFolded c) = false →
        (q.items s h = 0 → ∃ u, exec i s = .next u ∧ u.me.block = some (.get r n) ∧ u.mem = (setStage s h r (n + 1) 2).mem) ∧
        (∀ w t, q.items s h ≠ 0 → itemRead s q = .ok (w, t) → RingFree t →
          Chained i s (setStage (q.bump t h (s.me.mover s.cur.2) false 1) h r (n + 1) 0) (m.result w))) ∧
      ((ctrlRun c && ctrlFolded c) = true → ctrlCur c ≠ n + 1 → Traps i s .bufDescInvalid) ∧
      ((ctrlRun c && ctrlFolded c) = true → ctrlCur c = n + 1 →
        (∀ w t, q.items s h ≠ 0 → itemRead s q = .ok (w, t) → RingFree t → Chained i s (q.bump t h (s.me.mover s.cur.2) false 1) (m.result w)) ∧
        (q.items s h = 0 → ctrlFull c n = true →
          Chained i s (setChainCtrl s h r (putBit c (8 + n) false)) (m.result (s.bytes (sramPa h (slotAt r n)) (2 ^ m.log2)))) ∧
        (q.items s h = 0 → ctrlFull c n = false → exec i s = .next (chainTransfer closed r n s.me.groupPc 2)))
    let puts (i : Instr) (k : Nat) (w : List Byte) : Prop := Accepts i s → linkOf s h r n k = .ok q →
      ((ctrlRun c && ctrlFolded c) = false → s.me.unacked = 0 →
        (q.cap ≤ q.items s h → ∃ u, exec i s = .next u ∧ u.me.block = some (.put r n) ∧ u.mem = (setStage s h r n 3).mem) ∧
        (∀ t, q.items s h < q.cap → itemWrite s q w = .ok t → RingFree t →
          Chained i s (setStage (q.bump t h (s.me.mover s.cur.2) true 1) h r n 0) .nothing)) ∧
      ((ctrlRun c && ctrlFolded c) = true → (ctrlCur c ≠ n → Traps i s .bufDescInvalid) ∧
        (ctrlCur c = n → (ctrlFull c n || decide (q.cap ≤ q.items s h)) = true → exec i s = .next (chainTransfer closed r (n + 1) s.me.groupPc 3)) ∧
        (∀ s1 p, ctrlCur c = n → ctrlFull c n = false → q.items s h < q.cap → ringTake closed i 5 0 0 = .ok (s1, p) →
          exec i s = .next (chainTransfer ((setChainCtrl (recWrite s1 h (slotAt r n) w) h r (putBit c (8 + n) true)).modMe fun x =>
            { x with ring := ringFree x.ring (some p) }) r (n + 1) (s.me.pc + 4) 0)))
    gets (.get d a b l) (.scalar d) ∧ gets (.getv v a b l) (.vector v) ∧ puts (.put d a b l) 3 (leBytes 8 (s.me.sreg d).toNat) ∧
    puts (.putv v a b l) 6 (toBytes (s.me.vreg v))

/-- R199, R200, R281, R282: equiv passes unless a switch is pending, at which it blocks; chsw starts a chain, answers 1 for the form it has, 2 after a
stage left and 3 for a spread form of more than four stages, or sets PEND and waits for the switch, its limit counted from its issue though it waited on PEND first. Model's choices, not the spec's: log 30, log 31. -/
def Obligations.EquivAndChswFollowTheForm : Prop :=
  ∀ (s : State) (d : BitVec 4) (a b : Src) (l : BitVec 4) (r : Nat), let h := s.cur.1; let c := chainCtrl s h r; let v := (s.srcB b).toNat
    let i := Instr.chsw d a b l; let q := Instr.equiv a l; let ans (w : Word) : Commit := ⟨some (d, w), [], false⟩; let c0 := startCtrl c
    (Accepts q s → chainRec s (s.src1 a) = .ok r →
      ((ctrlRun c && ctrlPend c) = true → ∃ u, exec q s = .next u ∧ u.me.block = some (.equiv r (s.me.pc + 4))) ∧
      ((ctrlRun c && ctrlPend c) = false → RingFree s → Chained q s (if ctrlRun c then markStage s r 0 else s) .nothing)) ∧
    (Accepts i s → chainRec s (s.srcA a b) = .ok r → RingFree s →
      (bits v 31 1 ≠ 0 → Traps i s .reservedField) ∧
      (bits v 31 1 = 0 → ctrlRun c = false → 4 ≤ s.here.chains.length → Chained i s (setChainCtrl s h r c0) (ans 3)) ∧
      (bits v 31 1 = 0 → ctrlRun c = false → s.here.chains.length < 4 → v % 2 = 1 → let s1 := chainStart s r (putBit (putBit c0 4 true) 3 true)
        Chained i s s1 (ans 0) ∧ s1.here.chains = s.here.chains ++ [r] ∧ s1.me.task = s.me.task.map fun t => { t.leave r with stages := (t.leave r).stages ++ [(r, 0)] }) ∧
      (bits v 31 1 = 0 → ctrlRun c = false → v % 2 = 0 → 3 < ctrlLast c0 → Chained i s (setChainCtrl s h r c0) (ans 3)) ∧
      (∀ t g, bits v 31 1 = 0 → ctrlRun c = false → s.here.chains.length < 4 → v % 2 = 0 → ctrlLast c0 ≤ 3 → s.creatorDrained = true → s.me.task = some t →
        s.launch? t.launch = some g → (stageStrands s h g (ctrlLast c0) = none → Chained i s (setChainCtrl s h r c0) (ans 3)) ∧
        (∀ ks, stageStrands s h g (ctrlLast c0) = some ks → let s1 := startStages (setStageStrand (chainStart s r (putBit (putBit c0 4 false) 3 true)) h r 0 s.cur.2).bumpFree h r g ks
          s.blocksReady h g = true → RingFree s1 → Chained i s s1 (ans 0))) ∧
      (bits v 31 1 = 0 → ctrlRun c = true → ctrlPend c = true → ∃ u, exec i s = .next u ∧ u.me.block = some (.chsw r) ∧
        (chswIssue s < 2 ^ 64 → ∀ n, chswIssue { u with cycle := n } = chswIssue s)) ∧
      (s.me.answers = [] → chswIssue s = s.cycle) ∧
      (bits v 31 1 = 0 → ctrlRun c = true → ctrlPend c = false → ctrlFolded c = decide (v % 2 = 1) → Chained i s s (ans 1)) ∧
      (bits v 31 1 = 0 → ctrlRun c = true → ctrlPend c = false → ctrlFolded c ≠ decide (v % 2 = 1) → ctrlLeft c = true → Chained i s s (ans 2)) ∧
      (bits v 31 1 = 0 → ctrlRun c = true → ctrlPend c = false → ctrlFolded c ≠ decide (v % 2 = 1) → ctrlLeft c = false → v % 2 = 0 → 3 < ctrlLast c → Chained i s s (ans 3)) ∧
      (bits v 31 1 = 0 → ctrlRun c = true → ctrlPend c = false → ctrlFolded c ≠ decide (v % 2 = 1) → ctrlLeft c = false → v % 2 = 1 ∨ ctrlLast c ≤ 3 → ∃ t o w, Completes i s t ∧
        t.me.ops = s.me.ops ++ [o] ∧ o.kind = .chsw d ∧ o.done = false ∧ t.here.switches = s.here.switches ++ [w] ∧ w.crec = r ∧ w.op = some o.id ∧
        w.form = decide (v % 2 = 1) ∧ w.limit = (if v / 2 ^ 32 % 2 ^ 32 = 0 then none else some (chswIssue s + v / 2 ^ 32 % 2 ^ 32)) ∧
        t.mem = (setChainCtrl s h r (putBit c 5 true)).mem))

/-- R202 to R204: the four requests zero their status word and go to the map unit; mapw answers the status word once its code is not zero, else waits. Model's choices, not the spec's: log 6. -/
def Obligations.MapRequestsAreSentAndAwaited : Prop :=
  ∀ (s : State) (d : BitVec 4) (a b : Src) (l : BitVec 4), let x := s.srcA a b; let y := s.srcB b; let z := s.src1 a
    let asks (i : Instr) (fn : MapFn) (un : Bool) : Prop := Accepts i s → (x.toNat % 8 ≠ 0 ∨ y.toNat % 8 ≠ 0 → Traps i s .misaligned) ∧
      (∀ r t, x.toNat % 8 = 0 → y.toNat % 8 = 0 → readRec s 0 x 8 32 needLoad 0 = .ok (r, t) → (mapRecBad r un = true → Traps i s .reservedField) ∧
        (∀ u, mapRecBad r un = false → storeAccess t 10 y 8 8 (.write ((leBytes 8 0).map some)) .store = .ok u → ∃ v q o, Completes i s v ∧
          v.mapq = u.mapq ++ [q] ∧ q.fn = fn ∧ q.brick = s.cur.1 ∧ q.space = s.me.space ∧ q.base = doubleAt r 0 ∧ q.len = doubleAt r 8 ∧ q.dest = doubleAt r 16 ∧
          q.dspace = numAt r 24 2 + 65536 * (numAt r 26 1 % 16) ∧ q.status = y ∧ v.me.ops = u.me.ops ++ [o] ∧ o.done = true ∧ v.mem = u.mem))
    asks (.map a b l) .map false ∧ asks (.grant a b l) .grant false ∧ asks (.unmap a b l) .unmap true ∧ asks (.unmapSelf a b l) .unmapSelf true ∧
    (Accepts (.mapw d a l) s → gate s 0 = .ok () → (z.toNat % 8 ≠ 0 → Traps (.mapw d a l) s .misaligned) ∧ (z.toNat % 8 = 0 → ReadsHere s z →
      let w := s.num (s.hereAt z) 8
      (w % 256 ≠ 0 → Completes (.mapw d a l) s (s.loaded l d (BitVec.ofNat 64 w))) ∧
      (w % 256 = 0 → ∃ t o, Completes (.mapw d a l) s t ∧ t.me.ops = s.me.ops ++ [o] ∧ o.kind = .mapw d z ∧ o.done = false ∧ t.mem = s.mem)))

/-- R26 to R28, R107: csrr reads each control register at its number, unused bits as zero. R26 to R28, R32, R103, R107: csrw writes the writable fields of its register and leaves the others; a privileged one traps in task mode; a write of ACCOWN
waits for its own step. R321: PAIRSTAT and HEARTBEAT read on the service cores, and the leader's heartbeat is published; that csrw does what HEARTBEAT_WRITE does (log 82), and that WATCHDOG is due at once
only for a strand that runs a task (log 48), are the model's choices. Model's choices, not the spec's: log 48, log 82. -/
def Obligations.ControlRegistersReadAndTakeTheirFields : Prop :=
  (∀ (s : State) (d : BitVec 4), let x := s.me; let y := s.here; let z {n : Nat} (v : BitVec n) : Word := v.zeroExtend 64
     let r (c : BitVec 12) (v : Word) : Prop := Accepts (.csrr d c) s → WritesS (.csrr d c) s d v
     r 0x001 (z x.rm) ∧ r 0x002 (z x.fpstat) ∧ r 0x010 (BitVec.ofNat 64 x.unacked) ∧ r 0x011 (z x.bindtab) ∧ r 0x012 (z x.bufbase <<< 9) ∧ r 0x020 (z x.deadline) ∧
     r 0x021 (z (x.yieldLeft ++ (if x.yieldPend then 1#32 else 0#32))) ∧ r 0x022 (z (x.wdCount ++ 0#27 ++ x.wdLog2)) ∧
     r 0x030 (z x.trapvec <<< 2) ∧ r 0x031 x.trappc ∧ r 0x032 (z x.trapcause) ∧ r 0x033 (z x.fltseq) ∧ r 0x034 (x.seqNext ++ x.seqBase) ∧ r 0x040 y.accown ∧
     r 0x041 (z x.ctxid) ∧ r 0x042 (z x.savearea <<< 12) ∧ r 0x050 (BitVec.ofNat 64 x.space) ∧ r 0x060 (z y.coursewin <<< 30) ∧ r 0x061 (z y.courseorg) ∧
     r 0x062 (z y.courseshape) ∧ r 0x063 y.footmask ∧ r 0x070 (BitVec.ofNat 64 s.cur.1) ∧
     r 0x071 (BitVec.ofNat 64 (s.cur.2.val + if x.mode = .service then 256 else 0)) ∧ r 0x0C0 (BitVec.ofNat 64 s.cycle) ∧
     r 0x051 (((s.space? x.space).map Space.tmpl).getD 0 &&& 0x01FFFFFFFFFFFFC0) ∧ r 0x090 (s.pairstat (dieOf s.cur.1)) ∧ r 0x091 (z s.heartbeat)) ∧
  (∀ (s : State) (x : BitVec 4), let v := s.me.sreg x; let m := s.me.mode
     let w (c : BitVec 12) (f : Strand → Strand) : Prop := Accepts (.csrw x c) s → Completes (.csrw x c) s (s.modMe f)
     let p (c : BitVec 12) (f : Strand → Strand) : Prop := Accepts (.csrw x c) s → (m = .task → Traps (.csrw x c) s .privilege) ∧
       (m = .service → Completes (.csrw x c) s (s.modMe f))
     w 0x001 (fun y => { y with rm := v.truncate 2 }) ∧ w 0x002 (fun y => { y with fpstat := y.fpstat &&& ~~~(v.truncate 5) }) ∧
     w 0x011 (fun y => { y with bindtab := y.bindtab &&& v.truncate 8 }) ∧ w 0x012 (fun y => { y with bufbase := v.extractLsb' 9 8 }) ∧
     p 0x020 (fun y => { y with deadline := v.truncate 32 }) ∧ p 0x030 (fun y => { y with trapvec := v.extractLsb' 2 55 }) ∧ p 0x031 (fun y => { y with trappc := v }) ∧
     p 0x032 (fun y => { y with trapcause := v.truncate 10 }) ∧ p 0x033 (fun y => { y with fltseq := v.truncate 32 }) ∧
     p 0x041 (fun y => { y with ctxid := v.truncate 32 }) ∧ p 0x042 (fun y => { y with savearea := v.extractLsb' 12 45 }) ∧
     (∀ c ∈ [(0x010 : BitVec 12), 0x021, 0x034, 0x050, 0x051, 0x060, 0x061, 0x062, 0x063, 0x070, 0x071, 0x0C0, 0x090], w c id) ∧
     (Accepts (.csrw x 0x022) s → (m = .task → Traps (.csrw x 0x022) s .privilege) ∧ (m = .service → ∃ t, Completes (.csrw x 0x022) s t ∧
       t.me.wdLog2 = v.truncate 5 ∧ t.me.wdCount = s.me.wdCount ∧ (t.me.wdDue = (s.me.wdDue || (s.me.task.isSome && decide (t.me.wdLimit ≤ s.me.wdCount.toNat)))))) ∧
     (Accepts (.csrw x 0x040) s → (m = .task → Traps (.csrw x 0x040) s .privilege) ∧
       (m = .service → s.me.phase ≠ 1 → s.here.ownPending = none → ∃ u, exec (.csrw x 0x040) s = .next u ∧ u.me = s.me ∧
         u.here.ownPending = some ⟨v &&& 0x800FFFFFFFFFFFFF, s.cur.2, none, [], false, s.me.space, s.me.saveBase, none, false⟩) ∧
       (m = .service → s.me.phase = 1 → Completes (.csrw x 0x040) s s)) ∧
     (Accepts (.csrw x 0x091) s → (m = .task → Traps (.csrw x 0x091) s .privilege) ∧ (m = .service → ∃ t, Completes (.csrw x 0x091) s t ∧
       t.heartbeat = if ((s.pairs.toList)[dieOf s.cur.1]?.map fun q => q.leader && q.healthy).getD false then v.truncate 32 else s.heartbeat)))

/-- R96 to R98: a trap of a strand of a brick leaves the address of its hint group in TRAPPC and its code in TRAPCAUSE, with bit 9 for service mode, and goes
to TRAPVEC in service mode; memory and the s registers stay. R73, R187: while an operation with a window is not complete a trap waits; on the message strand it ends the handler. Model's choices, not the spec's: log 40. -/
def Obligations.TrapsEnterServiceModeOnceWindowsClosed : Prop :=
  (∀ (s : State) (c : Code), isMessage s.cur.1 s.cur.2 = false → s.me.ops = [] → let t := takeTrap s c
     t.me.trappc = s.me.hints.start.getD s.me.pc ∧ t.me.trapcause.toNat = c.num + (if s.me.mode = .service then 512 else 0) ∧ t.me.mode = .service ∧
     t.me.pc = (s.me.trapvec ++ 0#2).zeroExtend 64 ∧ t.me.hints = Hints.none ∧ t.me.s = s.me.s ∧ t.me.v = s.me.v ∧ t.me.p = s.me.p ∧ t.me.fpstat = s.me.fpstat ∧
     t.me.fltseq = s.me.fltseq ∧ t.me.task = s.me.task ∧ t.mem = s.mem ∧ ∀ b k, (b, k) ≠ s.cur → t.strand b k = s.strand b k) ∧
  (∀ (s : State) (c : Code), (s.me.drained = false → (takeTrap s c).me.trapDue = some (c, s.me.groupPc) ∧ (takeTrap s c).me.s = s.me.s ∧ (takeTrap s c).me.pc = s.me.pc ∧
       (takeTrap s c).me.mode = s.me.mode ∧ (takeTrap s c).me.block = ((s.stuck s.me).orElse fun _ => s.me.block) ∧ (takeTrap s c).mem = s.mem) ∧
     (isMessage s.cur.1 s.cur.2 = true → s.me.ops = [] → s.me.unacked = 0 → let t := takeTrap s c
       t.here.handler = none ∧ t.me.trapDue = none ∧ t.me.mode = s.me.mode ∧ t.me.s = s.me.s ∧ t.mem = s.mem))

/-- R99: trap and brk have their words, and each takes its trap: TRAPPC names the instruction or the first hint of its group, TRAPCAUSE its code, and the strand goes to TRAPVEC in service
mode; on the message strand it ends the handler. R95: pause stalls for 64 cycles. R100: eret traps in task mode or with a misaligned TRAPPC, else goes to TRAPPC in the prior mode and
frees the late fault's entry (a service core stays in service mode, R29: the model's reading, log 97). R105: halt traps in task mode, else stops issue. R92: yield goes on at the next word, or leaves the strand, with
WATCHDOG.COUNT 0 and YIELDREQ taken. Model's choices, not the spec's: log 97. -/
def Obligations.SystemInstructionsDoTheirPart : Prop :=
  (decode 0x3C000005 = .ok .trap ∧ decode 0xC0000004 = .ok .brk) ∧
  (∀ (s : State), let x := s.me
    let takes (i : Instr) (c : Code) : Prop := Accepts i s → exec i s = .next (takeTrap s c) ∧
      (isMessage s.cur.1 s.cur.2 = false → x.ops = [] → ∃ u, exec i s = .next u ∧ u.me.trappc = x.hints.start.getD x.pc ∧
        u.me.trapcause.toNat = c.num + (if x.mode = .service then 512 else 0) ∧ u.me.mode = .service ∧ u.me.pc = (x.trapvec ++ 0#2).zeroExtend 64 ∧ u.me.s = x.s ∧ u.mem = s.mem) ∧
      (isMessage s.cur.1 s.cur.2 = true → x.ops = [] → x.unacked = 0 → ∃ u, exec i s = .next u ∧ u.here.handler = none ∧ u.me.s = x.s ∧ u.mem = s.mem)
    takes .trap .trapInsn ∧ takes .brk .breakpoint ∧
    (Accepts .pause s → exec .pause s = .next (advance (s.modMe fun y => { y with pause := some 64 }))) ∧
    (Accepts .eret s → (x.mode = .task → exec .eret s = .next (takeTrap s .privilege)) ∧
      (x.mode = .service → x.ops = [] → x.trappc.toNat % 4 ≠ 0 → exec .eret s = .next (takeTrap s .misaligned)) ∧
      (x.mode = .service → x.ops = [] → x.trappc.toNat % 4 = 0 → ∃ u, exec .eret s = .next u ∧ u.me.pc = x.trappc ∧
        u.me.mode = (if isPair s.cur.1 = true ∨ x.trapcause.getLsbD 9 = true then .service else .task) ∧
        u.me.ring = (if x.trapcause.getLsbD 8 then x.ring.filter (fun e => !(e.fault.isSome && e.seq == x.fltseq && e.tag == x.ctxKey)) else x.ring) ∧
        u.me.hints = Hints.none ∧ u.me.s = x.s ∧ u.me.v = x.v ∧ u.mem = s.mem)) ∧
    (Accepts .halt s → (x.mode = .task → exec .halt s = .next (takeTrap s .privilege)) ∧
      (x.mode = .service → x.ops = [] → x.unacked = 0 → ∃ u, exec .halt s = .next u ∧ u.me.halted = some .halt ∧ u.me.pc = x.pc + 4 ∧ u.me.s = x.s ∧ u.mem = s.mem ∧
        (isPair s.cur.1 = true → ∀ p, u.pairs.toList[dieOf s.cur.1]? = some p → p.healthy = false))) ∧
    (Accepts .yield s → x.ops = [] → x.unacked = 0 →
      (x.yieldPend = false → x.phase ≠ 2 → s.here.hasWork s.cur.2 = false → ∃ u, exec .yield s = .next u ∧ u.me.pc = x.pc + 4 ∧ u.me.s = x.s ∧ u.me.wdCount = 0 ∧
        u.me.yieldPend = false ∧ u.me.yieldLeft = 0 ∧ u.me.task = x.task ∧ u.mem = s.mem) ∧
      (∀ t u, x.task = some t → (x.yieldPend = true ∨ s.here.hasWork s.cur.2 = true) → x.saveReady s s.cur.1 = true →
        let y : Strand := { x with yieldPend := false, yieldLeft := 0, saveDue := false, wdCount := 0, wdDue := false, fetchOwn := s.codeLog.length }
        leaveStrand (s.modMe fun _ => { y with pc := y.pc + 4, hints := Hints.none, phase := 0 }) s.cur.1 s.cur.2 t false none = .ok u → exec .yield s = .next u ∧ u.me.task = none)))

/-! Events of a strand: interruptions, forced saves, blocks and replies. -/

namespace Sys2Proof.Machine

/-- Event e comes about from s, and leaves a state of which p holds. -/
def Happens (e : Instr) (s : State) (p : State → Prop) : Prop := ∃ t, exec e s = .next t ∧ p t

/-- Strand k of brick b is as in s but for what f changes, the other strands and memory are as in s. -/
def OnlyStrand (s : State) (b : Nat) (k : Fin 5) (f : Strand → Strand) (t : State) : Prop :=
  t.strand b k = f (s.strand b k) ∧ (∀ c j, (c, j) ≠ (b, k) → t.strand c j = s.strand c j) ∧ t.mem = s.mem

/-- Strand x was given the trap c, with its resume address, at pc (R96). -/
def InHandler (x y : Strand) (c : Code) (pc : Word) : Prop :=
  y.trappc = pc ∧ y.mode = .service ∧ y.pc = (x.trapvec ++ 0#2).zeroExtend 64 ∧ y.trapcause.toNat % 256 = c.num ∧ y.task = x.task

end Sys2Proof.Machine

/-- R15, R25, R27, R95, R101, R103, R104: at an interruption point a due late fault traps, with its sequence number in FLTSEQ, before a due WATCHDOG; WATCHDOG falls
due at its limit and traps with COUNT cleared; a request on channel 63 reaches its course 96 cycles after the raise and sets PEND and LEFT on every task there; LEFT at 0 makes a forced save due; and a
pause ends at 0. Model's choices, not the spec's: log 23, log 48. -/
def Obligations.InterruptionsAreTakenInTheirOrder : Prop :=
  (∀ (s : State) (b : Nat) (k : Fin 5), let x := s.strand b k
    (∀ l, x.ops = [] → x.ready = true → x.saveDue = false → x.firstLate = some l → Happens (.lateFaultTrap b k) s fun t =>
      InHandler x (t.strand b k) l.code (x.hints.start.getD x.pc) ∧ (t.strand b k).fltseq = l.seq ∧ (t.strand b k).trapcause.getLsbD 8 = true ∧
      (t.strand b k).lates = x.lates.filter (· ≠ l) ∧ (t.strand b k).s = x.s ∧ t.mem = s.mem) ∧
    (x.ops = [] → x.ready = true → x.saveDue = false → x.lates = [] → x.wdDue = true → Happens (.watchdog b k) s fun t =>
      InHandler x (t.strand b k) .watchdog (x.hints.start.getD x.pc) ∧ (t.strand b k).wdCount = 0 ∧ (t.strand b k).trapcause.getLsbD 8 = false ∧
      (t.strand b k).s = x.s ∧ t.mem = s.mem) ∧
    (x.task ≠ none → x.block = none → 2 ^ max x.wdLog2.toNat 16 ≤ x.wdCount.toNat → Happens (.watchdogDue b k) s (OnlyStrand s b k fun y => { y with wdDue := true, pause := if y.wdDue then y.pause else none })) ∧
    (x.task ≠ none → x.block = none → x.yieldPend = true → x.yieldLeft = 0 →
      Happens (.deadlineExpiry b k) s (OnlyStrand s b k fun y => { y with saveDue := true, pause := if y.saveDue then y.pause else none })) ∧
    (x.pause = some 0 → Happens (.pauseExpiry b k) s (OnlyStrand s b k fun y => { y with pause := none }))) ∧
  (∀ (s : State) (l : Launch), s.launch? l.id = some l → l.st = .running →
    Happens (.preemptionRequest l.id) s (fun t => t.launch? l.id = some { l with st := .preempting, raises := l.raises ++ [s.cycle + 96] } ∧ t.bricks = s.bricks ∧ t.mem = s.mem)) ∧
  (∀ (s : State) (l : Launch) (c : Nat), l.raises.contains c = true → let t := reachCourse s c l
    t.mem = s.mem ∧ ∀ b ∈ l.bricks, ∀ k : Fin 5, (s.strand b k).task ≠ none → (s.strand b k).yieldPend = false → (s.strand b k).deadline ≠ 0 →
      (t.strand b k).yieldPend = true ∧ (t.strand b k).yieldLeft = (s.strand b k).deadline ∧ (t.strand b k).saveDue = (s.strand b k).saveDue)

/-- R33, R118, R126, R202, R235, R236, R241: a forced save writes the save area in full, with the accumulator's image for its owner, and the context enters the ready
queue; a blocked task that work waits for, or that a pre-emption request waits for, leaves the same way but stays away; its block resolves when what it waits for
has come; a held acquire is made again once it would succeed. Model's choices, not the spec's: log 14, log 18, log 49. -/
def Obligations.SavedAndBlockedTasksGoOn : Prop :=
  (∀ (s : State) (b : Nat) (k : Fin 5) (t : Task), let x := s.strand b k
    (∀ u, x.task = some t → x.saveDue = true → x.ready = true → x.saveReady s b = true → x.ops = [] → x.unacked = 0 → (s.brick b).firedOf x.ctxKey = false →
      leaveStrand (s.modStrand b k Strand.closeWindows) b k t true (if (s.brick b).ownsAcc x.space x.ctxid then some (s.brick b).acc else none) = .ok u →
      Happens (.forcedSave b k) s fun v => (v.strand b k).task = none ∧ v.mem = u.mem ∧ (v.brick b).accown = (u.brick b).accown ∧
        (v.brick b).ready = (u.brick b).ready ∧ v.launches.map (·.forced) = s.launches.map fun l => if l.id = t.launch then l.forced + 1 else l.forced) ∧
    (∀ r u, x.task = some t → x.block = some r → x.restore = none → x.ops.all r.still = true → x.saveFaulted = false → x.unacked = 0 → x.saveTok = none → x.halted = none → x.mode = .task → k < 4 →
      isPair b = false → (x.yieldPend = true ∨ (r.departs x.ops = true ∧ x.since + 256 ≤ s.cycle ∧ (s.brick b).hasWork k = true)) → x.saveReady s b = true →
      leaveStrand (s.modStrand b k Strand.closeFor) b k t true none = .ok u → Happens (.blockDeparture b k) s fun v => v = u) ∧
    (∀ ea v, x.block = some (.acq ea v) → x.saveTok = none → acqDue s b x.space ea v = true → Happens (.acqRetry b k) s (OnlyStrand s b k fun y => { y with
      block := none, since := s.cycle })) ∧
    (x.saveTok = none → ((∃ ea, x.block = some (.join ea) ∧ s.homeDouble b x.space ea = some (.ok 0)) ∨
      (∃ r n, x.block = some (.equiv r n) ∧ ctrlPend (chainCtrl s b r) = false) ∨ (∃ r n, x.block = some (.get r n) ∧ linkOpen s b r n false = true) ∨
      (∃ r n, x.block = some (.put r n) ∧ linkOpen s b r n true = true) ∨ (x.block = some .ring ∧ ∀ e ∈ x.ring, e.seq.toNat % 64 ≠ x.seqNext.toNat % 64) ∨
      ∃ o, x.block = some (.op o.id) ∧ x.ops.find? (fun q => q.id = o.id) = some o ∧ o.done = true) →
      Happens (.blockResolve b k) s (OnlyStrand s b k fun y => { y with block := none, since := s.cycle }))) ∧
  (∀ (s : State) (b c : Nat) (q : Ctx), (s.brick b).awayOf c = some q → q ∈ (s.brick b).away → (s.launch? q.task.launch).any (fun l => l.st = .preempted) = false → q.kill = none →
    ((q.block = some .ring ∧ ∀ k ∈ q.strand, ∀ x ∈ (s.brick b).strands.toList[k]?, x.slotFree = true) →
      Happens (.blockResolve b c) s fun t => (t.brick b).ready = (s.brick b).ready ++ [{ q with block := none, since := s.cycle }] ∧ q ∉ (t.brick b).away ∧ t.mem = s.mem) ∧
    (∀ ea v, q.block = some (.acq ea v) → acqDue s b q.space ea v = true → Happens (.acqRetry b c) s fun t =>
      (t.brick b).ready = (s.brick b).ready ++ [{ q with block := none, since := s.cycle }] ∧ q ∉ (t.brick b).away ∧ t.mem = s.mem))

/-- R116, R117, R180: a reply that arrives frees the task that waits under its MBOX: RETRY makes the access again, SKIP leaves it out, REDIRECT makes it at NEWADDR,
and an unknown number or reserved bits are KILL with bit 63 and the fault's code for status; a sealed-class fault takes SKIP and KILL alone; a reply whose MBOX
names no blocked task is discarded. Model's choices, not the spec's: log 41, log 42, log 43. -/
def Obligations.FaultRepliesFreeTheTaskTheyName : Prop :=
  ∀ (s : State) (n b : Nat) (k : Fin 5) (m : Msg) (tok ord : Nat) (c : Code) (v a : Word), s.net[n]? = some m → s.msgAfter n m = false → m.dst = b →
    hdrReply m.hdr.toNat = true → m.data = [v, a] → m.op = none → v.toNat % 2 ^ 32 = tok → let x := s.strand b k; let r := v.toNat / 2 ^ 32
    let one : Prop := x.block = some (.fault tok ord c) ∧ x.saveTok = none ∧ ∀ j < k, replyStrand s b tok v a j = none
    (one → r = 0 → c.sealed = false → Happens (.faultReply n) s (OnlyStrand s b k fun y => { y with block := none, since := s.cycle })) ∧
    (one → r = 1 → Happens (.faultReply n) s (OnlyStrand s b k fun y => { y with
      block := none, since := s.cycle, answers := y.answers.filter (fun q => q.1 ≠ ord) ++ [(ord, .skip)] })) ∧
    (one → r = 2 → c.sealed = false → Happens (.faultReply n) s (OnlyStrand s b k fun y => { y with
      block := none, since := s.cycle, answers := y.answers.filter (fun q => q.1 ≠ ord) ++ [(ord, .redirect a)] })) ∧
    (one → (3 ≤ r ∨ (c.sealed = true ∧ r ≠ 1)) → Happens (.faultReply n) s fun t => (t.strand b k).kill = some (BitVec.ofNat 64 (2 ^ 63 + c.num)) ∧
      (t.strand b k).block = none ∧ t.mem = s.mem) ∧
    ((∀ j, replyStrand s b tok v a j = none) → (∀ q ∈ (s.brick b).away ++ (s.brick b).ready ++ (s.brick b).kept, replyAway s b tok v a q = none) →
      replyOwn s b tok v a = none → replyCmd s b tok v a = none →
      Happens (.faultReply n) s fun t => t = { s with net := s.net.eraseIdx n })

/-- R22, R32, R242, R27, R103, R81: a write of ACCOWN takes effect in one step: the former owner's image goes to its save area with ACCIMG set, a displaced image
of the new owner comes back with ACCIMG cleared, and the csrw goes on; the sides of csrw for BINDTAB, WATCHDOG and FPSTAT (that WATCHDOG is due at once only for a strand that runs a task is the model's choice, log 48); and a word outside the opcode map traps. Model's choices, not the spec's: log 14, log 48. -/
def Obligations.OwnershipMovesAndWordsOutsideTheMapTrap : Prop :=
  (∀ (s : State) (b : Nat) (k : Fin 5) (w : OwnWrite), let y := s.brick b; let x := s.strand b k; y.ownPending = some w → w.strand = k → w.tok = none →
    y.firedOf (bits y.accown.toNat 51 32 + 2 ^ 20 * bits y.accown.toNat 31 0) = false → w.old = none →
    let named (z : State) : State := z.modBrick b fun y => { y with accown := w.v, ownSave := BitVec.ofNat 64 w.save }
    let owned (u t : State) : Prop := (t.brick b).accown = w.v ∧ (t.brick b).ownPending = none ∧ (t.brick b).acc = (u.brick b).acc ∧ t.mem = u.mem ∧
      (w.v.getLsbD 63 = true → (t.brick b).ownSave = BitVec.ofNat 64 w.save) ∧ (w.touch = false → (t.strand b k).phase = 1)
    (y.accown.getLsbD 63 = false → (w.v.getLsbD 63 = false → Happens (.accownWrite b) s (owned s)) ∧
      (w.v.getLsbD 63 = true → let r := takeImage ⟨b, k, x.pc, w.space, w.save⟩ (named s) w.answers
        r.stop = none → Happens (.accownWrite b) s (owned r.s))) ∧
    (y.accown.getLsbD 63 = true → y.accown ≠ w.v → let r := giveImage ⟨b, k, x.pc, bits y.accown.toNat 51 32, y.ownSave.toNat⟩ s w.answers w.lost
      r.stop = none → (w.v.getLsbD 63 = false → Happens (.accownWrite b) s (owned r.s)) ∧
        (w.v.getLsbD 63 = true → let q := takeImage ⟨b, k, (r.s.strand b k).pc, w.space, w.save⟩ (named r.s) r.ans
          q.stop = none → Happens (.accownWrite b) s (owned q.s)))) ∧
  (∀ (s : State) (v : Word), Happens (.bindtabWrite v) s (· = s.modMe fun y => { y with bindtab := y.bindtab &&& v.truncate 8 }) ∧
    Happens (.fpstatWrite v) s (· = s.modMe fun y => { y with fpstat := y.fpstat &&& ~~~(v.truncate 5) }) ∧
    Happens (.watchdogWrite v) s fun t => t.me.wdLog2 = v.truncate 5 ∧ t.me.wdCount = s.me.wdCount ∧ t.mem = s.mem ∧
      t.me.wdDue = (s.me.wdDue || (s.me.task.isSome && decide (2 ^ max (v.toNat % 32) 16 ≤ s.me.wdCount.toNat)))) ∧
  (∀ (s : State) (w : IWord) (e : EncTrap), decode w = .error e → Happens (.illegalOpcode w) s (· = takeTrap s (wordTrap w.toNat s))) ∧
  (∀ (s : State) (w : IWord), (w.toNat / 2 ^ 26 = 0 ∨ 0x31 ≤ w.toNat / 2 ^ 26) → wordTrap w.toNat s = .illegalOpcode)

/-! Events of tasks, messages, footings and chains. -/

/-- R185 to R188, R272: a message that arrives enters the inbox of a brick that runs its space, or the heap when it does not fit, or is parked, or is dropped when its
space is torn down; its status returns to the sender, whose landing word takes the bytes; a heap message moves up when it fits; the oldest message with handler words
starts the handler with its data in s0 to s5, source in s6 and header in s7; the 257th instruction of a handler ends it. Model's choices, not the spec's: log 18, log 26. -/
def Obligations.MessagesArriveAndHandlersRun : Prop :=
  (∀ (s : State) (n : Nat) (m : Msg) (p : Space), s.net[n]? = some m → s.msgAfter n m = false → hdrReply m.hdr.toNat = false → isPair m.dst = false →
    s.space? m.space = some p → let x := s.brick m.dst
    let told (st : Nat) (t : State) : Prop := ∀ id k o d land skip, m.op = some id → (s.brick m.srcBrick).findOp id = some (k, o) → o.kind = .msg d land skip none → ∃ p, (t.brick m.srcBrick).findOp id = some (k, p) ∧ p.kind = .msg d land skip (some st)
    (∀ l, p.teardown = false → s.runsSpace m.dst m.space = some l → Happens (.messageArrival n) s fun t => t.net = s.net.eraseIdx n ∧ t.mem = s.mem ∧ told 0 t ∧
      (x.heap.any (fun q => q.space = m.space) = false → x.inboxUsed + m.size ≤ 4096 → (t.brick m.dst).inbox = x.inbox ++ [m] ∧ (t.brick m.dst).heap = x.heap) ∧
      (4096 < x.inboxUsed + m.size → (t.brick m.dst).inbox = x.inbox ∧ (t.brick m.dst).heap = x.heap ++ [m])) ∧
    (p.teardown = false → s.runsSpace m.dst m.space = none → Happens (.messageArrival n) s fun t => t.net = s.net.eraseIdx n ∧ t.parkq = s.parkq ++ [m] ∧ t.mem = s.mem ∧ told 1 t) ∧
    (p.teardown = true → Happens (.messageArrival n) s fun t => t.net = s.net.eraseIdx n ∧ t.parkq = s.parkq ∧ t.mem = s.mem ∧ told 0x66 t ∧ ∀ c, (t.brick c).inbox = (s.brick c).inbox)) ∧
  (∀ (s : State) (b : Nat) (k : Fin 5) (o : Op) (d : BitVec 4) (land : Word) (skip : Bool) (st : Nat), (s.brick b).findOp o.id = some (k, o) →
    o.kind = .msg d land skip (some st) → o.done = false →
    (land = 0 → Happens (.sendStatus b o.id) s fun t => t.mem = s.mem ∧ ∃ p, (t.brick b).findOp o.id = some (k, p) ∧ p.done = true ∧
      p.commit.sc = some (d, BitVec.ofNat 64 st)) ∧
    (land ≠ 0 → st ≠ 0x66 → land.toNat % 8 = 0 → land.toNat < Config.dequeBase → b < 2 ^ 15 → s.readPoison (sramPa b land.toNat) 8 = false → ∀ w, landChunk (BitVec.ofNat 64 (s.num (sramPa b land.toNat) 8)) o.buf = (w, false) →
      Happens (.sendStatus b o.id) s fun t => t.mem = (s.writeNum (sramPa b land.toNat) 8 w.toNat).mem ∧ ∃ p, (t.brick b).findOp o.id = some (k, p) ∧ p.done = true)) ∧
  (∀ (s : State) (b : Nat), let x := s.brick b
    (∀ m r, x.heap = m :: r → x.inboxUsed + m.size ≤ 4096 → Happens (.heapReplay b) s fun t => (t.brick b).heap = r ∧ (t.brick b).inbox = x.inbox ++ [m] ∧ t.mem = s.mem) ∧
    (∀ m l, x.inbox.find? (fun m => m.code ≠ []) = some m → x.handler = none → isPair b = false → s.runsSpace b m.space = some l → Happens (.handlerStart b) s fun t =>
      let y := t.strand b 4
      (t.brick b).handler = some m ∧ (t.brick b).inbox = x.inbox.erase m ∧ y.pc = 0 ∧ y.space = m.space ∧ y.handlerCount = 0 ∧
      (∀ i : Fin 16, i.val < 6 → y.sreg (BitVec.ofFin i) = m.data.getD i 0) ∧ y.sreg 6 = BitVec.ofNat 64 (m.srcBrick % 2 ^ 15 + m.srcStrand * 2 ^ 16) ∧ y.sreg 7 = m.hdr ∧
      t.mem = s.mem) ∧
    (isPair b = false → x.handler ≠ none → 256 ≤ (s.strand b 4).handlerCount → (s.strand b 4).ops = [] → (s.strand b 4).unacked = 0 →
      Happens (.handlerTrap b) s fun t => (t.brick b).handler = none ∧ t.cur = s.cur ∧ t.mem = s.mem))

/-- R178, R181, R232, R233, R235, R237, R240: a free task strand takes the oldest context of the ready queue that may run on it, else the record at the bottom of its
deque with a free block, else asks the next brick of its group; a victim gives its oldest record; the answer starts the record on the thief with its RRB emptied; after
64 cycles the round begins again; a migrated frame takes a free strand, or stands in the deque for its task, or is parked. Model's choices, not the spec's: log 18, log 61, log 65, log 66. -/
def Obligations.RecordsAndFramesReachTheirStrands : Prop :=
  let Started (l : Launch) (blk : Nat) (r : DeqRec) (x : Strand) : Prop := x.pc = BitVec.ofNat 64 (bits r.entry.toNat 56 2 * 4) ∧ x.sreg 0 = r.arg0 ∧
    x.sreg 1 = r.arg1 ∧ x.sreg 2 = (if r.nojoin then 0 else r.joinAddr) ∧ x.sreg 13 = BitVec.ofNat 64 (l.blockBase blk + 2 ^ l.cmd.ctxlog2) ∧
    x.ctxid = BitVec.ofNat 32 (l.tag * 2 ^ 20 + blk) ∧ x.space = l.space ∧ x.mode = .task ∧ x.task.map (·.blk) = some blk
  (∀ (s : State) (b : Nat) (k : Fin 5) (blk : Nat) (l : Launch), let y := s.brick b; s.runsHere b = some l → y.strandFree k = true →
    (∀ c, y.ready.find? (fun c => c.mayRun y k) = some c → Happens (.strandDispatch b k blk) s fun t => (t.brick b).ready = y.ready.erase c ∧
      (t.strand b k).task = some c.task ∧ (t.strand b k).ctxid = c.ctxid ∧ (t.strand b k).restore = some c.full ∧ (c.task.stages = [] → t.mem = s.mem)) ∧
    (∀ r q, y.ready.find? (fun c => c.mayRun y k) = none → y.deque = r :: q → y.frames = [] → r.frame = none → l.blockFree blk = true → s.blockReady b l blk = true → Happens (.strandDispatch b k blk) s fun t =>
      (t.brick b).deque = q ∧ Started l blk r (t.strand b k) ∧ ∃ g, t.launch? l.id = some g ∧ blk ∈ g.blocks ∧ g.live = l.live + 1) ∧
    (y.ready = [] → y.deque = [] → (y.strand k).steal = .idle → Happens (.strandDispatch b k blk) s fun t => t.mem = s.mem ∧
      (∀ v, (stealGroup l b)[0]? = some v → t.steals = s.steals ++ [⟨b, k, v, l.id, none⟩] ∧ (t.strand b k).steal = .ask 0) ∧
      (stealGroup l b = [] → (t.strand b k).steal = .backoff (s.cycle + 64)))) ∧
  (∀ (s : State) (m : StealMsg) (blk : Nat) (l : Launch), s.steals = [m] → m.answer = none → s.launch? m.launch = some l → l.id = m.launch →
    ((s.brick m.victim).deque = [] → Happens (.stealRequest m.thief m.strand blk) s (· = { s with steals := [{ m with answer := some none }] })) ∧
    (∀ r q, (s.brick m.victim).deque = q ++ [r] → r.frame = none → (s.runsHere m.victim) = some l → l.blockFree blk = true → s.blockReady m.victim l blk = true → (s.brick m.victim).frames = [] →
      Happens (.stealRequest m.thief m.strand blk) s fun t => t.steals = [{ m with answer := some (some (r, blk)) }] ∧ (t.brick m.victim).deque = q ∧ t.mem = s.mem)) ∧
  (∀ (s : State) (k : Fin 5) (m : StealMsg) (blk : Nat) (r : DeqRec) (l : Launch), s.steals = [m] → m.strand = k.val → s.launch? m.launch = some l → l.id = m.launch →
    m.answer = some (some (r, blk)) → (s.brick m.thief).deque.length < 64 → s.blockReady m.thief l blk = true → (s.brick m.thief).strandFree k = true →
    (s.runsHere m.thief) = some l → Happens (.stealAnswer m.thief k) s fun t =>
      t.steals = [] ∧ Started l blk r (t.strand m.thief k) ∧ (t.brick m.thief).rrb = []) ∧
  (∀ (s : State) (b : Nat) (k : Fin 5) (c : Nat), (s.strand b k).steal = .backoff c → c ≤ s.cycle →
    Happens (.stealBackoffExpiry b k) s (OnlyStrand s b k fun x => { x with steal := .idle })) ∧
  (∀ (s : State) (n : Nat) (k : Fin 5) (f : Frame) (p : Space), s.frames[n]? = some f → s.space? f.space = some p → p.teardown = false →
    (∀ l, s.runsSpace f.dst f.space = some l → l.st = .running → (s.brick f.dst).strandFree k = true → Happens (.migrateArrival n k) s fun t =>
      let x := t.strand f.dst k
      t.frames = s.frames.eraseIdx n ∧ x.task = some f.task ∧ x.pc = f.pc ∧ x.s = f.s ∧ x.rm = f.rm ∧ x.fpstat = f.fpstat ∧ x.ctxid = f.ctxid ∧ x.space = f.space ∧
      x.bindtab = 0 ∧ (t.brick f.dst).rrb = [] ∧ t.mem = s.mem) ∧
    (∀ l, s.runsSpace f.dst f.space = some l → (∀ j, (s.brick f.dst).strandFree j = false) → (s.brick f.dst).deque.length < 64 → (s.brick f.dst).frames = [] →
      Happens (.migrateArrival n k) s fun t => t.frames = s.frames.eraseIdx n ∧ (t.brick f.dst).deque = f.record :: (s.brick f.dst).deque ∧ t.mem = s.mem) ∧
    (s.runsSpace f.dst f.space = none → Happens (.migrateArrival n k) s (· = { s with frames := s.frames.eraseIdx n, parkFrames := s.parkFrames ++ [f] })))

/-- R191 to R193, R200, R275, R282, R283, R286: fbar.m arrives once UNACKED is 0, with the RRB emptied; a channel whose expected arrivals are there releases 32 or 96
cycles after the last: PHASE counts one more and every member's operation completes with the phase's value; a pending switch completes when every stage is at an
equivalence point and the writes of its stages are visible, FOLDED and PEND changed, is refused with 2 after a stage left or at the limit of a spread chain that
has not come to its points, with 3 for more than four stages, and the scheduler may ask for one. Model's choices, not the spec's: log 31, log 70, log 71, log 105. -/
def Obligations.FootingsAndChainSwitchesComplete : Prop :=
  (∀ (s : State) (b : Nat) (k : Fin 5) (o : Op) (key : Nat) (d : Option (BitVec 4)) (f : Foot), (s.brick b).findOp o.id = some (k, o) → o.kind = .foot key d true →
    (s.strand b k).unacked = 0 → s.foot? key = some f → f.held = [] → f.arrivals.length < f.expected →
    f.arrivals.any (fun q => q.ctx = (s.strand b k).ctxKey && q.brick = b) = false → Happens (.fbarMArrival b o.id) s fun t => (t.brick b).rrb = [] ∧ t.mem = s.mem ∧
      ∃ g, t.foot? key = some g ∧ g.phase = f.phase ∧ g.arrivals = f.arrivals ++ [⟨b, (s.strand b k).ctxKey, o.id, .barM, s.cycle, false⟩]) ∧
  (∀ (s : State) (die c : Nat) (f : Foot), s.foot? (footKey die c) = some f → f.key = footKey die c → f.arrivals ≠ [] → f.expected ≤ f.arrivals.length →
    (∀ l, s.launch? f.launch = some l → l.st ≠ .preempted) →
    (∀ a ∈ f.arrivals, a.cycle + (if c < 48 then 32 else 96) ≤ s.cycle) → die < 8 → Happens (.footingRelease die c) s fun t => t.mem = s.mem ∧
      (∃ g, t.foot? (footKey die c) = some g ∧ g.phase = f.phase + 1 ∧ g.arrivals = f.nextArrivals.1 ∧ g.held = f.nextArrivals.2 ∧ (f.held = [] → g.arrivals = [] ∧ g.held = [])) ∧
      ∀ a ∈ f.arrivals, ∀ k o key d, (s.brick a.brick).findOp a.op = some (k, o) → o.kind = .foot key d false → ∃ p, (t.brick a.brick).findOp a.op = some (k, p) ∧ p.done = true ∧
        p.commit.sc = d.bind fun r => (phaseValue (f.arrivals.map (·.what))).map fun w => (r, w)) ∧
  (∀ (s : State) (b r : Nat) (w : Switch) (l : Launch), let c := chainCtrl s b r; (s.brick b).switches.find? (fun w => w.crec = r) = some w →
    (ctrlLeft c = false → (∃ t, w.limit = some t ∧ t ≤ s.cycle) → ¬(w.form = true ∧ switchSpots s b w = none) → Happens (.chswLimitExpiry b r) s
      (· = s.modBrick b fun x => { x with switches := x.switches.map fun q => if q = w then { q with limit := none } else q })) ∧
    ((ctrlLeft c = true ∨ (w.form = true ∧ switchSpots s b w = none ∧ ∃ t, w.limit = some t ∧ t ≤ s.cycle)) → Happens (.chswLimitExpiry b r) s fun t =>
      t.mem = (setChainCtrl s b r (putBit c 5 false)).mem ∧ (t.brick b).switches = (s.brick b).switches.filter (fun w => w.crec ≠ r) ∧
      ∀ id k o d, w.op = some id → (s.brick b).findOp id = some (k, o) → o.kind = .chsw d → ∃ p, (t.brick b).findOp id = some (k, p) ∧ p.done = true ∧ p.commit.sc = some (d, 2)) ∧
    (s.runsHere b = some l → ctrlPend c = true → ctrlLeft c = false → w.limit = none →
      let here (k : Fin 5) (t : State) : Prop := (t.brick b).switches = (s.brick b).switches.filter (fun w => w.crec ≠ r) ∧ (t.strand b k).block = none ∧
        ((t.strand b k).task.bind fun y => y.stageIn r) = some 0
      (∀ k, w.form = false → stageSpot s b l.id r none = some (.on k) → (Spot.on k).draining s b w = false → s.blocksReady b l = true → 3 < ctrlLast c →
        Happens (.chainSwitchComplete b r) s (· = refuseSwitch s b w 3)) ∧
      (∀ k qs, w.form = false → stageSpot s b l.id r none = some (.on k) → (Spot.on k).draining s b w = false → s.blocksReady b l = true → ctrlLast c ≤ 3 →
        stageStrands s b l (ctrlLast c) = some qs → let x := (Spot.on k).view s b w
        let s1 := (List.range 7).foldl (fun s n => slotOut s b r x.space n) (saveFrame s b r (ctrlCur c) x (resumeAt x).1 (resumeAt x).2)
        Happens (.chainSwitchComplete b r) s fun t => ∃ u, here k u ∧ t = startStages u b r l qs ∧
          u.mem = (setStageStrand (setChainCtrl s1 b r (clearFull (putBit (putBit (chainCtrl s1 b r) 4 false) 5 false))) b r 0 k).mem) ∧
      (∀ k j, w.form = true → ctrlLast c = 1 → stageSpot s b l.id r (some 0) = some (.on k) → stageSpot s b l.id r (some 1) = some (.on j) →
        (Spot.on j).busy s b w = false → (Spot.on k).draining s b w = false → (s.strand b j).task.map (·.stages) = some [(r, 1)] →
        let x := (Spot.on k).view s b w; let s1 := saveFrame s b r 0 x (resumeAt x).1 (resumeAt x).2
        let y := (Spot.on j).view s1 b w; let s2 := (Spot.on j).end_ (saveFrame s1 b r 1 y (resumeAt y).1 (resumeAt y).2) b r
        Happens (.chainSwitchComplete b r) s fun t => here k t ∧ (t.strand b j).task = none ∧
          t.mem = (setChainCtrl s2 b r (clearFull (putCur (putBit (putBit (chainCtrl s2 b r) 4 true) 5 false) 0))).mem))) ∧
  (∀ (s : State) (b r : Nat) (form : Bool) (l : Launch), let c := chainCtrl s b r; s.runsHere b = some l → r ∈ (s.brick b).chains → l.cmd.nochsw = false →
    (s.brick b).chainOf l.id r = true → ctrlPend c = false → ctrlLeft c = false → ctrlFolded c ≠ form → schedulerWants s b r l form (ctrlLast c) = true →
    Happens (.schedulerSwitchRequest b r form.toNat) s fun t => t.mem = (setChainCtrl s b r (putBit c 5 true)).mem ∧
      (t.brick b).switches = (s.brick b).switches ++ [⟨r, form, none, none, none⟩])

/-! Events of the map units, spaces, queues and launches. -/

namespace Sys2Proof.Machine

/-- The head word at a physical address takes a write now: it is in no deque or sealed range, its region is ready and has not timed out, and no link or
host that it needs is lost (R264, R304, R316, R318, R323). -/
abbrev HeadHere (s : State) (space head : Nat) : Prop := s.homeReady head = true ∧ s.lapsed ≠ some (head / 2 ^ 21 * 2 ^ 21) ∧ s.sealedPa head = false ∧
  s.inDeque head = false ∧ (paClass head = 3 → s.hostHeld space = false) ∧ (2 ≤ paClass head → ∀ p, s.portUp p = true) ∧ (paClass head = 2 → s.cxlOn = true)

/-- Queue x may take its next command, whose 64 bytes are l: it is mapped to a slot, has work, no command in hand and no LAUNCH to place, and l is well formed and need
not wait for an earlier LAUNCH (R305, R306). -/
def TakesNext (s : State) (x : Queue) (l : List Byte) : Prop :=
  s.queue? x.id = some x ∧ x.slot ≠ none ∧ x.err = 0 ∧ x.tail ≠ x.head ∧ s.queueWork x = true ∧ s.unplaced x.id = false ∧ x.cmd = none ∧ s.headReady x = true ∧
  HeadHere s x.space x.headAt ∧
  s.hwBytes x.die x.space (x.ring + 64 * (x.head.toNat % 2 ^ x.log2n)) 64 = some (.ok l) ∧ commandBad l = false ∧
  ((numAt l 0 8).testBit 12 = true → numAt l 0 1 = 1 ∨ ∀ y ∈ s.launches, y.queue ≠ some x.id)

/-- HEAD of queue x is one further in its head word, as a command is read (R304, R305). -/
def headMoved (s : State) (x : Queue) : State := s.softNum x.headAt 8 (x.head + 1).toNat

/-- An aligned VA of a queue's space names a double of SRAM, at pa, outside the deques, that a unit of the queue's die may access with need n. -/
def QueueAt (s : State) (x : Queue) (va : Nat) (n : Need) (pa : Nat) : Prop :=
  va % 8 = 0 ∧ ∃ p, s.placeHw x.die x.space va n = .ok p ∧ p.pa = pa ∧ paClass pa = 0 ∧ s.inDeque pa = false

end Sys2Proof.Machine

/-- R203, R255, R265, R269: the map unit writes the first outcome of its table to the status word; MAP_OK of map adds the node, of grant puts the new node in the place of the
sender's and withdraws that, of the unmaps marks the nodes; each brick drops its entries and closes its epoch, acknowledges once that epoch is empty, and at the withdrawal
point the nodes go and MAP_OK is written with their number. Model's choices, not the spec's: log 33, log 73, log 75, log 94. -/
def Obligations.MapUnitsDecideAndWithdraw : Prop :=
  (∀ (s : State) (q : MapReq) (n : Nat), s.mapq[n]? = some q → (∀ r ∈ s.mapq.take n, ¬(r.brick = q.brick ∧ r.strand = q.strand)) → q.brick < 2 ^ 15 →
    s.zeroBusy q = false → q.status.toNat < Config.dequeBase → q.status.toNat % 8 = 0 → let pa := sramPa q.brick q.status.toNat
    let code (c : Nat) : Prop := Happens (.mapRequest n) s fun t => t.mapq = s.mapq.eraseIdx n ∧ t.nodes = s.nodes ∧ t.withdrawals = s.withdrawals ∧ t.mem = (s.softNum pa 8 c).mem
    (s.coverOf q = none → code (if q.len = 0 then 6 else 5)) ∧
    (∀ m, s.coverOf q = some m → let b := q.base.toNat; let g := m.grain; let aligned : Prop := q.len ≠ 0 ∧ b % g = 0 ∧ q.len.toNat % g = 0 ∧ q.dest.toNat % g = 0
      let made : Prop := q.fn = .map ∨ q.fn = .grant
      (¬aligned → code 6) ∧ (aligned → noNode s q m = true → code 5) ∧
      (aligned → noNode s q m = false → m.withdrawing = true → code 2) ∧
      (aligned → noNode s q m = false → s.underWithdrawal s.nodes.length m = false →
        (made → (q.attr.rights &&& ~~~m.attr.rights) ≠ 0 → code 3) ∧ (mapRights s q m = true → code 3) ∧
        (mapRights s q m = false → made → (∃ o ∈ s.nodes, o.space = q.dspace ∧ overlaps o.va o.len q.dest.toNat q.len.toNat = true) → code 4) ∧
        (mapRights s q m = false → (∀ o ∈ s.nodes, ¬(o.space = q.dspace ∧ overlaps o.va o.len q.dest.toNat q.len.toNat = true)) →
          (q.fn = .map → Happens (.mapRequest n) s fun t => t.mem = (s.softNum pa 8 1).mem ∧ ∃ o, t.nodes = o :: s.nodes ∧ o.space = q.dspace ∧ o.va = q.dest.toNat ∧
            o.len = q.len.toNat ∧ o.attr.rights = q.attr.rights ∧ o.attr.fmt = q.attr.fmt ∧ o.attr.prot = m.attr.prot ∧ o.parent = some m.id ∧ o.pa = (m.paOf b).toOption.getD (m.pa + (b - m.va))) ∧
          (q.fn = .grant → m.parent ≠ some m.id → Happens (.mapRequest n) s fun t => t.mem = s.mem ∧ (∃ o ∈ t.nodes, o.space = q.dspace ∧ o.va = q.dest.toNat ∧ o.parent = m.parent ∧ o.id = s.nextId) ∧
            (∀ o ∈ t.nodes, o.id = m.id → o.withdrawing = true) ∧ ∃ w, t.withdrawals = s.withdrawals ++ [w] ∧ w.nodes = [m.id] ∧ w.req = some q)) ∧
        (q.fn = .unmap ∨ q.fn = .unmapSelf → Happens (.mapRequest n) s fun t => t.mem = s.mem ∧ ∃ w, t.withdrawals = s.withdrawals ++ [w] ∧ w.req = some q ∧
          w.nodes = s.subtree m.id (q.fn = .unmapSelf) ∧ w.count = w.nodes.length ∧ ∀ o ∈ t.nodes, w.nodes.contains o.id = true → o.withdrawing = true)))) ∧
  (∀ (s : State) (w : Withdrawal), s.withdrawals.find? (fun q => q.id = w.id) = some w →
    (∀ b, w.dies.contains (dieOf b) = true → (s.brick b).disabled = false → (∀ t ∈ (s.brick b).taken, t.1 ≠ w.id) → Happens (.shootdownInvalidate b w.id) s fun t =>
      (t.brick b).entries = (s.brick b).entries.filter (fun e => !w.hits e.space e.va e.len) ∧ (t.brick b).rrb = (s.brick b).rrb.filter (fun l => !w.hits l.space l.va 64) ∧
      (t.brick b).epoch = (s.brick b).epoch + 1 ∧ (t.brick b).taken = (s.brick b).taken ++ [(w.id, (s.brick b).epoch)] ∧ t.mem = s.mem) ∧
    (∀ b e, (s.brick b).taken.find? (fun t => t.1 = w.id) = some (w.id, e) → w.id ∉ (s.brick b).acked → (s.brick b).inFlight e = false → (s.brick b).pinned w = false →
      Happens (.shootdownAcknowledge b w.id) s fun t => w.id ∈ (t.brick b).acked ∧ t.mem = s.mem) ∧
    (s.allAcked w = true → (∀ i ∈ w.waits, s.node? i = none) → w.make = [] → (∀ r, w.req = some r → s.zeroBusy r = false) →
      (w.req = none → Happens (.withdrawalPoint w.id) s fun t => (∀ o ∈ t.nodes, o.id ∉ w.nodes) ∧ (∀ v ∈ t.withdrawals, v.id ≠ w.id) ∧ t.mem = s.mem) ∧
      (∀ r, w.req = some r → r.brick < 2 ^ 15 → r.status.toNat < Config.dequeBase → Happens (.withdrawalPoint w.id) s fun t => (∀ o ∈ t.nodes, o.id ∉ w.nodes) ∧
        t.mem = (s.softNum (sramPa r.brick r.status.toNat) 8 (if r.fn = .grant then 1 else 1 + w.count * 2 ^ 32)).mem)))

/-- R254, R262, R272, R273, R326, R352: a space is created with the runtime's code alone, under a free number with the next generation, and torn down node by node; what the driver sets for a space
holds from then on; heat goes down by one each millisecond; a closed node is withdrawn. Model's choices, not the spec's: log 88, log 92, log 112. -/
def Obligations.SpacesAreCreatedSetAndTornDown : Prop :=
  (∀ (s : State) (num world tmpl tok : Nat), num ≠ 0 → num < 65536 → (∀ p ∈ s.spaces, p.id % 65536 ≠ num) → (∀ w ∈ s.worlds, w.id = world → w.locked.testBit 0 = false) →
    Happens (.spaceCreate num world tmpl tok) s fun t => t.mem = ((List.range 8).foldl putRuntime s).mem ∧ ∃ p, t.nodes = s.nodes ++ [{ runtimeNode p.id with id := s.nextId }] ∧ t.spaces = s.spaces ++ [p] ∧ p.id = num + 65536 * ((findKey num s.gens).map fun g => (g + 1) % 16).getD 0 ∧
      p.world = world ∧ p.tmpl = BitVec.ofNat 64 tmpl &&& 0x01FFFFFFFFFFFFC0 ∧ p.target = .unset ∧ p.policy = .kill ∧ p.teardown = false) ∧
  (∀ (s : State) (p : Space) (tok : Nat), s.space? p.id = some p → (∀ w ∈ s.worlds, w.id = p.world → w.locked = 0) → let put (f : Space → Space) : State := { s with
      spaces := s.spaces.map fun q => if q.id = p.id then f q else q }
    (p.id ≠ 0 → p.teardown = false → (s.nodes.map (·.id)).Nodup → Happens (.spaceTeardown p.id tok) s fun t => (∀ q ∈ t.spaces, q.id = p.id → q.teardown = true) ∧ t.mem = s.mem ∧
      (∀ o ∈ t.nodes, o.space = p.id → o.withdrawing = true) ∧ ∃ w, t.withdrawals = s.withdrawals ++ [w]) ∧
    (∀ a, Happens (.faultServiceTargetSet p.id 0 a 0 0 0 tok) s (· = put fun q => { q with target := .unset })) ∧
    (∀ a u k, Happens (.faultServiceTargetSet p.id 1 a u k 0 tok) s (· = put fun q => { q with target := .strand (BitVec.ofNat 64 a) u k })) ∧
    (∀ d, d < 8 → Happens (.faultServiceTargetSet p.id 2 d 0 0 0 tok) s (· = put fun q => { q with target := .pair d })) ∧
    Happens (.faultServiceTargetSet p.id 3 0 0 0 1 tok) s (· = put fun q => { q with policy := .skip }) ∧
    (∀ va, Happens (.runtimeEntrySet p.id va) s (· = put fun q => { q with trapEntry := some va }))) ∧
  (∀ (s : State), s.lastSweep + 2100000 ≤ s.cycle → Happens .heatSweep s fun t => t.heat = s.heat.map (fun h => (h.1, if h.2.1 = 0 then 0 else h.2.1 - 1,
    if h.2.2 = 0 then 0 else h.2.2 - 1)) ∧ t.lastSweep = s.lastSweep + 2100000 ∧ t.mem = s.mem) ∧
  (∀ (s : State) (n : Node), s.node? n.id = some n → n.space = 0 → n.kind = .closed → n.withdrawing = false → Happens (.closedNodeRemoval n.id) s fun t => t.mem = s.mem ∧
    (∀ o ∈ t.nodes, o.id = n.id → o.withdrawing = true) ∧ ∃ w, t.withdrawals = s.withdrawals ++ [w] ∧ n.id ∈ w.nodes)

/-- R304 to R306, R309, R310: a doorbell sets TAIL, and more than the ring holds stops the queue; a mapped queue takes its next command and HEAD advances: a LAUNCH waits for
its placement, a SIGNAL or MARK is performed at its address, a WAIT holds the queue until its word meets the condition; queues are created and reset; and each tick maps the
queues that have work to slots. Model's choices, not the spec's: log 37, log 92, log 106, log 114. -/
def Obligations.QueueCommandsTakeEffect : Prop :=
  (∀ (s : State) (x : Queue) (v : Word), s.queue? x.id = some x → x.err = 0 →
    ((v.truncate 32 - x.head : BitVec 32).toNat ≤ 2 ^ x.log2n → Happens (.doorbell x.id 0 8 v) s (· = s.modQueue x.id fun y => { y with tail := v.truncate 32 })) ∧
    (2 ^ x.log2n < (v.truncate 32 - x.head : BitVec 32).toNat → Happens (.doorbell x.id 0 8 v) s fun t => ∃ y, t.queue? x.id = some y ∧ y.tail = v.truncate 32 ∧ y.err = 3)) ∧
  (∀ (s : State) (x : Queue) (l : List Byte), TakesNext s x l → let a := numAt l 8 8; let v := numAt l 16 8; let k := bits (numAt l 0 8) 17 16
    let taken (t : State) (w : Option QWait) : Prop := ∃ y, t.queue? x.id = some y ∧ y.head = x.head + 1 ∧ y.err = 0 ∧ y.wait = w ∧ y.cmd = none
    let u := headMoved s x
    (numAt l 0 1 = 1 → Happens (.launch x.id) s fun t => t.mem = u.mem ∧ taken t x.wait ∧ ∃ g, t.launches = s.launches ++ [g] ∧ g.cmd = parseLaunch l ∧ g.st = .waiting ∧
      g.space = x.space ∧ g.queue = some x.id ∧ g.id = (takeCommand s x.id l).nextId ∧ g.after = if (numAt l 0 8).testBit 12 then (s.launches.filter fun y => y.queue = some x.id).map (·.id) else []) ∧
    (numAt l 0 1 = 2 → k = 0 → ∀ pa, QueueAt s x a needStore pa → Happens (.signalStore x.id) s fun t => t.mem = (u.softNum pa 8 v).mem ∧ taken t x.wait) ∧
    (numAt l 0 1 = 2 → k = 1 → ∀ pa, QueueAt s x a needAtomic pa → u.readPoison pa 8 = false → Happens (.signalAdd x.id) s fun t =>
      t.mem = (u.softNum pa 8 ((u.num pa 8 + v) % 2 ^ 64)).mem ∧ taken t x.wait) ∧
    (numAt l 0 1 = 2 → k = 2 → ∀ pa, QueueAt s x a needRel pa → let m := v % 2 ^ 48
      Happens (.signalLandSet x.id) s fun t => t.mem = (u.softNum pa 8 (if m = 0 then 2 ^ 63 else 2 ^ 62 + m)).mem ∧ taken t x.wait) ∧
    (numAt l 0 1 = 4 → ∀ pa, QueueAt s x a needStore pa → Happens (.mark x.id) s fun t => t.mem = (u.softNum pa 8 s.cycle).mem ∧ taken t x.wait) ∧
    (numAt l 0 1 = 3 → (k % 2 = 0 → Happens (.waitCounter x.id) s fun t => t.mem = u.mem ∧
      taken t (some (.counter (doubleAt l 8) (doubleAt l 16)))) ∧
      (k % 2 = 1 → Happens (.waitLanding x.id) s fun t => t.mem = u.mem ∧ taken t (some (.landing (doubleAt l 8)))))) ∧
  (∀ (s : State) (x : Queue) (a v : Word) (l : List Byte), s.queue? x.id = some x → a.toNat % 8 = 0 → s.hwBytes (s.queueDie x) x.space a.toNat 8 = some (.ok l) →
    (x.wait = some (.counter a v) → v ≠ BitVec.allOnes 64 → v.toNat ≤ leNat l → Happens (.waitSatisfied x.id) s (· = s.modQueue x.id fun y => { y with wait := none })) ∧
    (x.wait = some (.landing a) → 2 ≤ bits (leNat l) 63 62 → Happens (.waitSatisfied x.id) s (· = s.modQueue x.id fun y => { y with wait := none }))) ∧
  (∀ (s : State) (p : Space) (ring lg head prio tok : Nat) (root : Node), s.rootOver (head / 4096 * 4096) = some root → (∀ w, s.memWorld root (root.va + (head / 4096 * 4096 - root.pa)) = some w → w = p.world) → HeadHere s p.id head →
    (s.twoPages p.id).isSome = true → s.space? p.id = some p → (∀ w ∈ s.worlds, w.id = p.world → w.locked.testBit 2 = false) → 4 ≤ lg → lg ≤ 16 →
    ring % 4096 = 0 → head % 8 = 0 → prio ≤ 7 → s.queues.length < 65536 → s.covered p.id ring (64 * 2 ^ lg) needLoad ringClass = true → (∀ q ∈ s.queues, q.id ≠ s.nextId) →
    Happens (.queueCreate p.id ring lg head prio tok) s fun t => t.mem = (s.softNum head 8 0).mem ∧
      (∃ hva dva m e, s.freePage p.id hva = true ∧ s.freePage p.id dva = true ∧ hva ≠ dva ∧ t.nodes = e :: m :: s.nodes ∧ m.space = p.id ∧ m.va = hva ∧ m.len = 4096 ∧ m.pa = head / 4096 * 4096 ∧ m.attr.rights = 1 ∧ m.parent = some root.id ∧
        e.space = p.id ∧ e.va = dva ∧ e.kind = .doorbell s.freeDoor ∧ e.attr.rights = 2) ∧ ∃ q, t.queues = s.queues ++ [q] ∧ q.id = s.nextId ∧ q.space = p.id ∧ q.ring = ring ∧
      q.log2n = lg ∧ q.headAt = head ∧ q.head = 0 ∧ q.tail = 0 ∧ q.err = 0 ∧ q.prio = prio ∧ q.slot = none ∧ q.door = s.freeDoor) ∧
  (∀ (s : State) (x : Queue), s.queue? x.id = some x → x.err ≠ 0 → HeadHere s x.space x.headAt → Happens (.queueReset x.id) s fun t => t.mem = (s.softNum x.headAt 8 x.head.toNat).mem ∧
    ∃ y, t.queue? x.id = some y ∧ y.err = 0 ∧ y.head = x.head ∧ y.tail = x.head ∧ y.wait = none ∧ y.cmd = none) ∧
  (∀ (s : State) (x : Queue), s.queues = [x] → s.launches = [] → s.lastTick + 210000 ≤ s.cycle → s.takeover = false → Happens .slotTick s fun t =>
    let whole := x.waited + (s.cycle - x.begun.getD s.cycle) / 210000
    t.lastTick = s.lastTick + 210000 ∧ (s.queueWork x = false → s.queueWork { x with slot := none } = false →
      t.queues = [{ x with slot := none, mapped := 0, waited := if x.slot.isSome then 0 else whole, begun := none }]) ∧
    (∀ i, s.queueWork x = true → x.slot = some i → t.queues = [{ x with mapped := x.mapped + 1, waited := 0, begun := none }]) ∧
    (s.queueWork x = true → x.slot = none → s.wantedDie x = none → t.queues = [{ x with slot := some 0, mapped := 0, waited := whole, begun := none }]))

/-- R230 to R234, R240, R307, R308, R313, R314: a launch is refused with its reason, or placed at an origin whose bricks may hold it; on an idle course it starts, its bricks taking the
launch's state, footprint and root; a course whose strands are free goes to the scheduler, and comes back with its records and contexts; a launch without tasks, records and
pending writes completes and leaves its course. Model's choices, not the spec's: log 18, log 38, log 86, log 87. -/
def Obligations.LaunchesArePlacedSuspendedAndCompleted : Prop :=
  (∀ (s : State) (l : Launch), s.launch? l.id = some l → s.placeable l = true →
    (∀ nn u, (l.refused.orElse fun _ => s.refusal l) = some nn → writeCompl s l (BitVec.ofNat 64 (0xC000000000000000 + nn)) = some u → ∀ o g w, Happens (.launchPlacement l.id o g w) s fun t =>
      t.launches = u.launches.filter (fun q => q.id ≠ l.id) ∧ t.mem = u.mem) ∧
    (∀ org tag win ch cs, let c := l.cmd; let bs := courseBricks org c.rows c.cols; let g := placedLaunch s l org tag win ch cs; let u := holdCourse s g ch
      l.refused = none → s.refusal l = none → s.outranked l = false → (c.origin.testBit 15 = false ∨ c.origin % 2 ^ 15 = org) → org < 2 ^ 15 → fitsMesh org c.rows c.cols = true → (∀ b ∈ bs, s.mayHold l b = true) → tag < 4096 →
      (∀ h ∈ s.launches, h.space = l.space → h.st ≠ .waiting → h.tag ≠ tag) → 0 < win → win < 2 ^ 27 - 1 →
      (∀ n ∈ s.nodes, n.space = l.space → overlaps n.va n.len (win * 2 ^ 30) 0x80000000 = false) → (spansDies org c.rows c.cols = false ∨ c.nfd = 0) →
      s.channels c (bits org 14 12) = some ch → constBank s l = some (.ok cs) → Happens (.launchPlacement l.id org tag win) s fun t => ∃ q, t.launch? l.id = some q ∧
        q.org = org ∧ q.tag = tag ∧ q.win = win ∧ q.cmd = c ∧ q.start = s.cycle ∧
        (u.courseIdle g = true → u.turnOf g = true → u.rootsReady g = true → c.gang = false → c.ctxcount ≠ 0 → q.st = .running ∧ q.live = l.live + 1 ∧ (∀ b ∈ bs, (t.brick b).launch = some l.id ∧
          (t.brick b).c = cs ∧ (t.brick b).courseorg = BitVec.ofNat 15 org ∧ (t.brick b).footmask = BitVec.ofNat 64 (ch.map (2 ^ ·)).sum) ∧
          let x := t.strand (courseBrick org 0 0) 0
          x.pc = BitVec.ofNat 64 (c.code.toNat / 4 * 4) ∧ x.sreg 3 = BitVec.ofNat 64 (c.rows + 256 * c.cols) ∧ x.space = l.space ∧ x.mode = .task ∧ x.task.map (·.root) = some (some 0)) ∧
        (u.courseIdle g = false → q.st = .preempted))) ∧
  (∀ (s : State) (l : Launch) (b o : Nat), l.cmd.footprint.1 ≤ o → o < l.cmd.footprint.2 → Memory.wf s.mem = true → cellAt (writePrint s l b).mem (sramPa b o) = l.image.getD o 0) ∧
  (∀ (s : State) (l : Launch), s.launch? l.id = some l → l.st = .preempting → (∀ p ∈ l.bricks.zipIdx, (s.brick p.1).deque = [] ∨ s.poolReady p.1 l.space (l.dequeImage p.2) 2048 = true) →
    (∀ b ∈ l.bricks, (s.brick b).handler = none ∧ ∀ k : Fin 5, k.val ≠ 4 → (s.strand b k).task = none ∧
    (s.strand b k).saveTok = none) → Happens (.coursePreempted l.id) s fun t => ∃ q, t.launch? l.id = some q ∧ q.st = .preempted ∧ q.waited = s.cycle ∧
      (∀ b ∈ l.bricks, (t.brick b).launch = none ∧ (t.brick b).ready = [] ∧ (t.brick b).deque = [] ∧ (t.brick b).frames = []) ∧
      ∀ b, l.bricks = [b] → (t.brick b).kept = (s.brick b).kept ++ (s.brick b).ready ∧ q.deques = [(b, (s.brick b).deque)]) ∧
  (∀ (s : State) (l : Launch), s.launch? l.id = some l → l.st = .preempted → l.started = true → s.courseIdle l = true → s.turnOf l = true → s.worldMoves l.space = false →
    s.imagesReady l = true → Happens (.launchResume l.id) s fun t => t.mem = s.mem ∧ (∃ q, t.launch? l.id = some q ∧ q.st = .running ∧ q.deques = []) ∧
      (∀ b ∈ l.bricks, (t.brick b).launch = some l.id ∧ (t.brick b).c = l.consts) ∧
      ∀ b, l.bricks = [b] → let y := s.brick b
        (t.brick b).deque = ((((findKey b l.deques).getD []).zipIdx.map fun p => (p.1, l.dequeImage 0 + 32 * p.2)).foldl (recordBack b l.space) (installLaunch s l, [])).2 ∧
        (t.brick b).ready = y.ready ++ (((y.kept ++ y.away).filter fun c => c.task.launch = l.id && c.kill.isNone).mergeSort fun c d => decide (c.order ≤ d.order)).map
          fun c => { c with since := s.cycle }) ∧
  (∀ (s : State) (l : Launch), s.launch? l.id = some l → l.st = .preempted → l.started = false → s.courseIdle l = true → s.turnOf l = true → s.worldMoves l.space = false →
    s.rootsReady l = true → Happens (.launchResume l.id) s fun t => ∃ q, t.launch? l.id = some q ∧ q.st = .running ∧ q.started = true) ∧
  (∀ (s u : State) (l : Launch), s.launch? l.id = some l → l.started = true → l.live = 0 → s.traces l = false → writeCompl s l l.status = some u → Happens (.launchComplete l.id) s fun t =>
    t.mem = u.mem ∧ (∀ q ∈ t.launches, q.id ≠ l.id) ∧ (∀ f ∈ t.foots, f.launch ≠ l.id) ∧ ∀ b ∈ l.bricks, (t.brick b).launch ≠ some l.id)

/-! Events of the host, the worlds and the fleet operator. -/

namespace Sys2Proof.Machine

/-- World w has its session, and is x. -/
abbrev InSession (s : State) (w : Nat) (x : World) : Prop := s.world? w = some x ∧ x.session = true

/-- A session command e of world w is answered with the status st and counts as traffic; p holds of the state and of the world afterwards (R331). -/
def Answered (e : Instr) (s : State) (w st : Nat) (p : State → World → Prop) : Prop :=
  Happens e s fun t => (∃ l, t.replies = s.replies ++ l ++ [.status w st]) ∧ ∃ y, t.world? w = some y ∧ y.lastSeen = s.cycle ∧ p t y

end Sys2Proof.Machine

/-- R121, R245, R316 to R319, R329: a region that P owns begins to move to A, and is A's once the host answers within 2 ms, else its transfer fails; a region of A begins to move to P, and is P's
once no access translated before is under way; neither within 10 µs of the last move; a BAR2 access reaches a region of P on a die without a world; an unsupported host atomic marks its region, and the driver's
answer performs the fallback; a flushing read lets the writes posted before it be acknowledged. Model's choices, not the spec's: log 76, log 77, log 79, log 80, log 117. -/
def Obligations.RegionsMoveAndHostAccessesComplete : Prop :=
  (∀ (s : State) (r : Nat), let q := s.regionAt r; let put (f : Region → Region) (t : State) : Prop := t.regionAt r = f q ∧ t.mem = s.mem
    let moves (t : State) : Prop := put (fun q => { q with moving := true, back := false, began := s.cycle }) t ∧ (s.cxlOn = true → s.regionPort r = 1 → t.mail = s.mail) ∧
      (¬(s.cxlOn = true ∧ s.regionPort r = 1) → ∃ e, t.mail = s.mail ++ [e] ∧ e.kind = 2 ∧ e.addr = bits r 47 0)
    let given (o : Bool) (q : Region) : Region := { q with
      owner := o, moving := false, back := false, early := [], since := BitVec.ofNat 32 (s.cycle / 2 ^ 16), kept := s.cycle + 21000 }
    let gone (t : State) : Prop := put (given false) t
    let going (t : State) : Prop := put (fun q => { q with moving := true, back := false, began := s.cycle, early := s.regionIds r }) t
    (regionBase r = true → q.owner = false → q.moving = false → s.regionWanted r = true → (s.regionKept r = false → Happens (.ownershipTransferToA r) s moves) ∧
      (s.regionKept r = true → Happens (.ownershipTransferToA r) s (put fun q => { q with back := true }))) ∧
    (q.moving = true → q.owner = false → s.hostUp = true → s.cycle < q.began + 4200000 → Happens (.transferAnswer r) s
      (put (given true))) ∧
    (q.moving = true → q.owner = false → q.began + 4200000 ≤ s.cycle → s.queues = [] → s.launches = [] → s.mapq = [] → s.withdrawals = [] →
      (s.bricks = [] → Happens (.ownershipTimeout r) s (· = { (s.putRegion { q with moving := false }) with lapsed := none, asks := s.asks.filter (· ≠ r) })) ∧
      (∀ b y, s.bricks = [(b, y)] → y.flights = [] → y.matq = [] → y.held = [] → y.deque = [] → y.away = [] → y.ready = [] → y.kept = [] → y.switches = [] → y.ownPending = none → y.dbg.state ≠ 1 →
        (∀ c ∈ y.chans.toList, c.job = none) → ∀ (k : Fin 5) ord cls ea, (∀ j, (s.strand b j).ops = [] ∧ (s.strand b j).restore = none ∧ (s.strand b j).saveDue = false ∧ (s.strand b j).phase = 0 ∧
          (s.strand b j).yieldPend = false ∧ (j ≠ k → (s.strand b j).block = none)) → (s.strand b k).block = some (.region r ord cls ea) → Happens (.ownershipTimeout r) s fun t =>
          put (fun q => { q with moving := false }) t ∧ (∃ tok, (t.strand b k).block = some (.fault tok ord .ownershipTimeout)) ∧ (s.strand b k).s = (t.strand b k).s ∧ t.net.length = s.net.length + 1)) ∧
    (regionBase r = true → q.owner = true → q.moving = false → s.hostUp = true → (s.regionKept r = false → (s.regionIds r = [] → Happens (.ownershipTransferToP r) s gone) ∧
      (s.regionIds r ≠ [] → Happens (.ownershipTransferToP r) s going)) ∧
      (s.regionKept r = true → Happens (.ownershipTransferToP r) s (put fun q => { q with back := true }))) ∧
    (regionBase r = true → q.owner = true → q.moving = true → s.hostUp = true → (s.regionBusy q = false → Happens (.ownershipTransferToP r) s gone) ∧
      (s.regionBusy q = true → Happens (.ownershipTransferToP r) s (· = s))) ∧
    (q.back = true → q.moving = false → s.regionKept r = false → (q.owner = true → (s.regionIds r = [] → Happens (.regionHoldExpiry r) s gone) ∧
      (s.regionIds r ≠ [] → Happens (.regionHoldExpiry r) s going)) ∧
      (q.owner = false → Happens (.regionHoldExpiry r) s moves))) ∧
  (∀ (s : State) (a : Nat) (v : Word), let h := s.bar2 + a; let pa := 2 ^ 48 + h; let q := s.regionAt (pa / 2 ^ 21 * 2 ^ 21); s.hostUp = true → a % 8 = 0 → a < 2 ^ 36 →
    (h < Config.hbmBytes → h % Config.dieHbm < Config.hbmOpen → s.worldOf (hbmDie h) = 0 → q.owner = false → q.moving = false → Happens (.bar2Access a true v) s (fun t => t.mem = (s.writeNum pa 8 v.toNat).mem) ∧
      Happens (.bar2Access a false v) s (· = { s with replies := s.replies ++ [.bar2 a (BitVec.ofNat 64 (s.num pa 8))] })) ∧
    ((Config.hbmBytes ≤ h ∨ s.worldOf (hbmDie h) ≠ 0 ∨ Config.hbmOpen ≤ h % Config.dieHbm) → ∀ w, Happens (.bar2Access a w v) s (· = { s with replies := s.replies ++ [.unsupported a] }))) ∧
  (∀ (s : State) (b pa : Nat) (f : Flight), (s.brick b).findOp f.id = none → (s.brick b).flights.find? (fun g => g.id = f.id && !g.arrived && g.act.native) = some f →
    s.flightPa b f = some pa → paClass pa = 3 → pa < 2 ^ 52 → s.homeReady pa = true → (s.regionAt (pa / 2 ^ 21 * 2 ^ 21)).noatom = false →
    Happens (.hostAtomicUnsupported b f.id) s fun t => (t.regionAt (pa / 2 ^ 21 * 2 ^ 21)).noatom = true ∧ t.mem = s.mem) ∧
  (∀ (s : State) (b : Nat) (k : Fin 5) (o : Op) (a : PAcc), (s.brick b).findOp o.id = some (k, o) → o.accs.find? (fun a => a.amo.any Amo.native && a.st = .pending) = some a →
    paClass a.pa = 3 → a.pa < 2 ^ 52 → s.homeReady a.pa = true → (s.regionAt (a.pa / 2 ^ 21 * 2 ^ 21)).noatom = false →
    Happens (.hostAtomicUnsupported b o.id) s fun t => (t.regionAt (a.pa / 2 ^ 21 * 2 ^ 21)).noatom = true ∧ t.mem = s.mem) ∧
  (∀ (s : State) (b n : Nat), (s.brick b).findOp n = none → (s.brick b).flights.find? (fun g => g.id = n && !g.arrived && g.act.native) = none →
    (∀ u sp a pa, s.unitAdd b n = some (u, sp, a) → s.paAt u sp a.toNat = some pa → paClass pa = 3 → pa < 2 ^ 52 → s.homeReady pa = true → (s.regionAt (pa / 2 ^ 21 * 2 ^ 21)).noatom = false →
      Happens (.hostAtomicUnsupported b n) s fun t => (t.regionAt (pa / 2 ^ 21 * 2 ^ 21)).noatom = true ∧ t.mem = s.mem) ∧
    (∀ i p, n = 2 ^ 40 + i → s.unitAdd b n = none → s.park[i]? = some p → p.act.native = true → Happens (.hostAtomicUnsupported b n) s fun t =>
      (t.regionAt (p.addr / 2 ^ 21 * 2 ^ 21)).noatom = true ∧ t.mem = s.mem)) ∧
  (∀ (s : State) (e : MailEntry) (v : Word) (f : Flight), s.mail = [e] → e.kind = 1 → s.hostUp = true → e.brick ≠ 65536 → e.acc = 4096 → (s.brick e.brick).flights.find? (fun f => f.id = e.opId) = some f →
    Happens (.fallbackAnswer e.tag v) s fun t => t.mail = [] ∧ (∀ g ∈ (t.brick e.brick).flights, g.id = f.id → g.arrived = true ∧ g.posted = false) ∧
      t.mem = (s.writeNum (3 * 2 ^ 48 + e.addr) e.width ((⟨amoOpOf e.op, e.width, e.v, e.e⟩ : Amo).apply (v.toNat % 2 ^ (8 * e.width)))).mem) ∧
  (∀ (s : State) (p : Nat), let q := s.port p
    (q.posted ≠ [] → q.up = true → (q.lastFlush = 0 ∨ q.lastFlush + 64 ≤ s.cycle) → Happens (.flushRead p) s fun t =>
      t.port p = { q with flushing := q.flushing ++ [q.posted.length], lastFlush := s.cycle } ∧ t.mem = s.mem) ∧
    (∀ n l, q.flushing = n :: l → q.up = true → s.hostUp = true → Happens (.flushReadComplete p) s fun t => t.port p = { q with posted := q.posted.drop n, flushing := l.map (· - n) } ∧
      t.mem = s.mem ∧ ∀ w ∈ q.posted.take n, ∀ g ∈ (t.brick w.1).flights, g.id = w.2 → g.posted = false))

/-- R316, R320 to R326, R349: the leader's heartbeat is published, another healthy pair leads after 3 ms without one, and a pair whose cores differ halts; the host is lost with both links or
after 500 ms, and resync performs what was parked; QUERY_STATE answers the device's summary; ports go down and up; far extents are added, released and removed, and lines are poisoned and
repaired. Model's choices, not the spec's: log 10, log 20, log 81, log 82. -/
def Obligations.PairsLinksAndFarMemoryFollowTheirEvents : Prop :=
  (∀ (s : State) (d : Nat) (v : Word) (p : Pair), s.pairs.toList[d]? = some p → (p.leader = true → p.healthy = true → Happens (.heartbeatWrite d v) s fun t => t.heartbeat = v.truncate 32 ∧
      t.lastBeat = (if s.lastBeat + 6300000 ≤ s.cycle ∧ s.successor.isSome = true then s.lastBeat else s.cycle) ∧ (∀ i : Fin 8, (t.pairs.get i).beat = v.truncate 32) ∧ t.mem = s.mem) ∧ (p.leader = false ∨ p.healthy = false → Happens (.heartbeatWrite d v) s (· = s)) ∧
    (p.healthy = true → Happens (.pairMismatch d) s fun t => t.pairs.toList[d]? = some { p with healthy := false } ∧ t.mem = s.mem)) ∧
  (∀ (s : State) (d : Nat), s.successor = some d → s.lastBeat + 6300000 ≤ s.cycle → Happens .heartbeatTimeout s fun t =>
    (∀ i : Fin 8, (t.pairs.get i).leader = decide (i.val = d)) ∧ t.lastBeat = s.cycle ∧ t.mem = s.mem) ∧
  (∀ (s : State) (v : Word), Happens (.livenessWrite v) s (· = { s with liveness := s.cycle }) ∧
    ((s.portUp 0 = false ∧ s.portUp 1 = false) ∨ s.liveness + 1050000000 ≤ s.cycle → Happens .hostLoss s (· = { s with hostUp := false })) ∧
    Happens .queryState s (· = { s with replies := s.replies ++ [.query s.summary] }) ∧
    (s.hostUp = false → (s.portUp 0 = true ∨ s.portUp 1 = true) → (s.park = [] → Happens .resync s (· = { s with hostUp := true, liveness := s.cycle })) ∧
      (∀ p v, s.park = [p] → p.vector = some v → s.inGrace p.world = false → Happens .resync s fun t => t.hostUp = true ∧ t.park = [] ∧ t.mem = s.mem ∧
        t.replies = s.replies ++ [.msix v]) ∧
      ∀ p l, s.park = [p] → p.vector = none → p.act = .write l → s.inGrace p.world = false → paClass p.addr = 3 → Happens .resync s fun t => t.hostUp = true ∧ t.park = [] ∧
        t.mem = (s.writeOpt p.addr l).mem)) ∧
  (∀ (s : State) (p : Nat), (s.portUp p = true → Happens (.linkDown p) s fun t => t.port p = { s.port p with up := false } ∧ t.health.getLast? = some ⟨s.cycle, 3, 255, p, 0⟩ ∧ t.mem = s.mem) ∧
    (s.portUp p = false → Happens (.linkUp p) s fun t => t.port p = { s.port p with up := true } ∧ t.health.getLast? = some ⟨s.cycle, 4, 255, p, 0⟩ ∧ t.mem = s.mem) ∧
    (s.portUp p = false → Happens (.linkDown p) s (· = s)) ∧ (s.portUp p = true → Happens (.linkUp p) s (· = s))) ∧
  (∀ (s : State) (base len : Nat) (sh : Bool), let pa := 2 ^ 49 + base; len ≠ 0 → base % 4096 = 0 → len % 4096 = 0 → base + len ≤ 2 ^ 48 → (s.cxlOn = false → Happens (.extentAdd base len sh) s (· = s)) ∧ (s.cxlOn = true →
    (∀ e ∈ s.extents, e.gone = false → overlaps e.base e.len pa len = false) → (∀ n ∈ s.nodes, n.space = 0 → overlaps n.va n.len (2 ^ 56 + pa) len = false) → Happens (.extentAdd base len sh) s fun t =>
      (∃ e, t.extents = s.extents.filter (fun e => !overlaps e.base e.len pa len) ++ [e] ∧ e.base = pa ∧ e.len = len ∧ e.shared = sh ∧ e.gone = false) ∧ (∃ n, t.nodes = n :: s.nodes ∧ n.space = 0 ∧ n.va = 2 ^ 56 + pa ∧ n.pa = pa ∧
        n.len = len ∧ n.kind = .linear) ∧ t.mem = s.mem)) ∧
  (∀ (s : State) (e : Extent), s.extents.find? (fun x => x.base = e.base && !x.gone) = some e →
    let closed (t : State) : Prop := (∀ x ∈ t.extents, x.base = e.base → x.gone = true ∧ x.dirty = []) ∧ ∀ m ∈ s.nodes, m.kind = .linear → overlaps m.pa m.len e.base e.len = true →
      ∃ n ∈ t.nodes, n.id = m.id ∧ n.kind = .closed
    ((∀ m ∈ s.nodes, m.kind = .linear → overlaps m.pa m.len e.base e.len = true → m.space = 0 ∧ m.parent = none) → Happens (.extentRelease e.base) s fun t => closed t ∧
      t.replies = s.replies ++ [.poolReleased e.base] ∧ t.mem = s.mem) ∧
    Happens (.extentForcedRemoval e.base) s fun t => closed t ∧ t.mem = s.mem) ∧
  (∀ (s : State) (a : Nat), (a % 64 = 0 → (∃ e ∈ s.extents, e.base ≤ a ∧ a < e.base + e.len) → a ∉ s.poison → Happens (.farLinePoison a) s (· = { s with poison := s.poison ++ [a] })) ∧
    (paClass a = 2 → a < 2 ^ 52 → Happens (.farLineRepair a) s (· = { s with poison := s.poison.filter (· ≠ a) })) ∧
    (paClass a = 0 → paOff a < Config.sramBytes → a / 8 * 8 ∉ s.poison → Happens (.uncorrectableSoftError a) s (· = { s with poison := s.poison ++ [a / 8 * 8] })))

/-- R327 to R338: a container that the leader checks is mapped into its space and measured; worlds are given dies, and their sessions set keys, protect and seal extents, lock interfaces,
take tokens and attestations, migrate and end; a die that a world left is cleared to zero, or quarantined after 10 ms. Model's choices, not the spec's: log 11, log 12, log 27, log 28, log 84. -/
def Obligations.WorldsSessionsAndLoadsFollowTheirCommands : Prop :=
  (∀ (s : State) (d w : Nat), d < 8 → w ≠ 0 → w < 65536 → (s.die d).world = 0 → (s.die d).cleared = true → (s.die d).quarantined = false → s.dieHeld d = false →
    let foreign (n : Node) : Prop := n.space ≠ 0 ∧ s.spaceWorld n.space ≠ w ∧ n.onDie d = true
    ((∀ n ∈ s.nodes, ¬foreign n) → Happens (.worldAssign d w) s fun t => (t.die d).world = w ∧ (t.die d).cleared = false ∧ (t.world? w).isSome = true ∧ t.mem = s.mem) ∧
    ((∃ n ∈ s.nodes, foreign n) → Happens (.worldAssign d w) s fun t => t.dies = s.dies ∧ t.mem = s.mem ∧ ∀ n ∈ s.nodes, foreign n → s.node? n.id = some n → ∃ m ∈ t.nodes, m.id = n.id ∧
      m.withdrawing = true)) ∧
  (∀ (s : State) (w : Nat) (x : World), s.world? w = some x →
    (x.session = false → (∀ g, x.grace = some g → s.cycle < g) → (s.identity = (true, true) → s.hostUp = true → s.park = [] → Happens (.sessionEstablish w) s fun t => ∃ y, t.world? w = some y ∧
      y.session = true ∧ y.lastSeen = s.cycle ∧ y.grace = none ∧ y.tokens = [] ∧ y.sessionNo = x.sessionNo + 1 ∧ y.period = 1 ∧ y.keys = x.keys ∧ t.replies = s.replies ++ [.session w 1] ∧
      t.mem = s.mem) ∧ (s.identity ≠ (true, true) → Happens (.sessionEstablish w) s (· = s))) ∧
    (x.session = true → x.lastSeen + 4200000000 ≤ s.cycle → Happens (.sessionTimeout w) s fun t => ∃ y, t.world? w = some y ∧ y.session = false ∧ y.tokens = [] ∧
      y.grace = some (s.cycle + x.gracePeriod * 2100000000) ∧ y.keys = x.keys ∧ t.mem = s.mem) ∧
    (∀ g, x.grace = some g → g ≤ s.cycle → Happens (.graceExpiry w) s fun t => (∀ y ∈ t.worlds, y.id ≠ w) ∧ ∀ d : Fin 8, (s.dies.get d).world = w → (t.dies.get d).clearing = some s.cycle) ∧
    (x.move = .received → Happens (.migrationActive w) s (fun t => ∃ y, t.world? w = some y ∧ y.move = .active) ∧
      Happens (.abortedLost w) s fun t => ∃ y, t.world? w = some y ∧ y.move = .abortedLost ∧ y.keys = [])) ∧
  (∀ (s : State) (w : Nat) (x : World), InSession s w x → let has (slot usage : Nat) : Prop := ∃ k ∈ x.keys, k.slot = slot ∧ k.usage = usage
    Happens (.sessionHeartbeat w) s (fun t => ∃ y, t.world? w = some y ∧ y.lastSeen = s.cycle ∧ t.mem = s.mem) ∧
    (∀ n, 1 ≤ n → n ≤ 60 → Answered (.gracePeriodSet w n) s w 0 fun t y => y.gracePeriod = n ∧ t.mem = s.mem) ∧
    (∀ slot u k, slot < 16 → (u = 1 ∨ u = 2) → k < 2 ^ 256 → (s.slotUsed w slot = true → Answered (.keySet w slot u k) s w 2 fun _ y => y.keys = x.keys) ∧
      (s.slotUsed w slot = false → Answered (.keySet w slot u k) s w 0 fun _ y => y.keys = x.keys.filter (fun q => q.slot ≠ slot) ++ [⟨slot, u, k⟩])) ∧
    (∀ slot, slot < 16 → s.slotUsed w slot = false → Answered (.keyClear w slot) s w 0 fun _ y => y.keys = x.keys.filter fun q => q.slot ≠ slot) ∧
    (∀ base len slot, len ≠ 0 → base % 4096 = 0 → len % 4096 = 0 → slot < 16 → s.worldExtent w base len = true →
      (∀ mode, (mode = 1 ∨ mode = 2) → has slot 1 → Answered (.protect w base len mode slot) s w 0 fun t _ => t.mem = s.mem ∧
        t.versions = s.versions.filter (fun v => !overlaps v.1 v.2.1 base len) ++ (if mode = 2 then [(base, len, 0)] else []) ∧ ∃ q ∈ t.withdrawals, ∃ n, q.make = [n] ∧ n.space = 0 ∧ n.pa = base ∧
        n.len = len ∧ n.attr.prot.toNat = mode ∧ n.attr.keyslot.toNat = slot ∧ n.world = w) ∧
      (∀ tags, has slot 2 → Answered (.seal w base len slot tags) s w 0 fun t _ => t.mem = s.mem ∧ (⟨base, len, s.bytes tags (len / 256 * 16)⟩ : TagRegion) ∈ t.tagRegions ∧
        ∃ q ∈ t.withdrawals, ∃ n, q.make = [n] ∧ n.space = 0 ∧ n.pa = base ∧ n.len = len ∧ n.attr.prot = 3 ∧ n.attr.keyslot.toNat = slot ∧ n.attr.rights = 1 ∧ n.world = w)) ∧
    (∀ m, m < 32 → Answered (.lock w m) s w 0 fun _ y => y.locked = x.locked ||| m) ∧
    (∀ n, 1 ≤ n → n ≤ 64 → Answered (.tokens w n) s w 0 fun t y => let l := (List.range n).map fun i => (x.tokenSeq + i) % 2 ^ 64
      y.tokens = x.tokens ++ l ∧ y.tokenSeq = x.tokenSeq + n ∧ .tokens w (l.map x.token) ∈ t.replies) ∧
    (∀ nonce, nonce < 2 ^ 256 → Answered (.attest w nonce) s w 0 fun t _ => ∃ sig fw, .attest w (s.diesOfWorld w) (fw ++ x.measures.map (·.toNat)) x.generation.toNat x.refusals nonce sig ∈ t.replies) ∧
    (∀ d, (x.move = .none ∨ x.move = .stopping) → (∀ l ∈ s.launches, s.spaceWorld l.space = w → l.st ≠ .running ∧ l.st ≠ .preempting) → Answered (.migrateOut w d) s w 0 fun t y => y.move = .sent ∧
      t.mem = s.mem ∧ ∃ m : WorldImage, m.launches = s.launches.filter (fun l => s.spaceWorld l.space = w) ∧ m.keys = x.keys.map (fun k => (k.slot, k.usage, Config.wrapKey d k.slot k.key)) ∧
      .moved w d m ∈ t.replies) ∧
    (∀ r, x.move = .sent → Answered (.receipt w r) s w (if Config.receiptOk w r then 0 else 2) fun t y => y.move = (if Config.receiptOk w r then .received else .sent) ∧
      (Config.receiptOk w r = true → y.keys = [] ∧ ∀ d : Fin 8, (s.dies.get d).world = w → (t.dies.get d).clearing = some s.cycle)) ∧
    Happens (.release w) s fun t => (∀ y ∈ t.worlds, y.id ≠ w) ∧ (∃ l, t.replies = s.replies ++ l ++ [.status w 0]) ∧ ∀ d : Fin 8, (s.dies.get d).world = w → (t.dies.get d).clearing = some s.cycle) ∧
  (∀ (s : State) (w : Nat) (i : Incoming), s.incoming = [i] → i.world = w → i.st = .received →
    (∀ x, s.world? w = some x → x.move ≠ .received → Happens (.migrationActive w) s fun t => t.incoming = [{ i with st := .active }] ∧ ∃ y, t.world? w = some y ∧
      y.keys = x.keys.filter (fun k => !i.keys.any fun q => q.1 = k.slot) ++ i.keys.map fun k => ⟨k.1, k.2.1, Config.openKey k.1 k.2.2⟩) ∧
    Happens (.abortedLost w) s fun t => t.incoming = [] ∧ t.mem = s.mem) ∧
  (∀ (s : State) (d c : Nat), d < 8 → (s.die d).clearing = some c →
    (s.cycle < c + 21000000 → s.dieHeld d = false → (∀ n ∈ s.nodes, n.space = 0 ∨ s.spaceWorld n.space ≠ (s.die d).world ∨ n.kind = .closed) → Memory.wf s.mem = true →
      (∀ q ∈ s.bricks, q.2.stuck = 0) → Happens (.clearRoutine d) s fun t =>
      (t.die d).world = 0 ∧ (t.die d).cleared = true ∧ (t.die d).clearing = none ∧ (∀ pa, s.sramOfDie d pa = true → cellAt t.mem pa = 0) ∧
      (∀ pa, s.sramOfDie d pa = false → cellAt t.mem pa = cellAt s.mem pa) ∧ ∀ b k, isPair b = false → dieOf b = d → (s.brick b).disabled = false →
        (t.brick b).acc = 0 ∧ (t.strand b k).s = Vector.replicate 16 0 ∧ (t.strand b k).v = Vector.replicate 32 0) ∧
    (s.cycle < c + 21000000 → s.dieHeld d = false → (∀ n ∈ s.nodes, n.space = 0 ∨ s.spaceWorld n.space ≠ (s.die d).world ∨ n.kind = .closed) →
      (∃ q ∈ s.bricks, q.2.stuck ≠ 0 ∧ isPair q.1 = false ∧ dieOf q.1 = d ∧ q.2.disabled = false) → Happens (.clearRoutine d) s fun t =>
      (t.die d).quarantined = true ∧ (t.die d).clearing = none ∧ (t.die d).world = (s.die d).world) ∧
    (c + 21000000 ≤ s.cycle → Happens (.clearTimeout d) s fun t => (t.die d).quarantined = true ∧ (t.die d).clearing = none ∧ t.mem = s.mem)) ∧
  (∀ (s : State) (p : Space) (addr len va pa tok : Nat), s.space? p.id = some p → pa % 4096 = 0 → paClass pa = 1 → pa < 2 ^ 52 → addr + len ≤ 2 ^ 52 →
    (paClass addr = 1 ∨ paClass addr = 3) → s.worldOf (hbmDie (bits pa 47 0)) = p.world → (∀ w ∈ s.worlds, w.id = p.world → w.locked = 0) → let c := s.bytes addr len
    let q := loadInto s p c va pa
    (s.unready addr len ≠ [] → Happens (.load p.id addr len va pa tok) s fun t => (∀ r ∈ s.unready addr len, r ∈ t.asks) ∧ t.nodes = s.nodes ∧ t.mem = s.mem ∧ t.replies = s.replies) ∧
    (s.unready addr len = [] → (segsOf c = none → q.1 = 1) ∧ ((segsOf c).isSome = true ∧ signedBy c p.trust = false → q.1 = 2) ∧
    (q.1 ≠ 9 → Happens (.load p.id addr len va pa tok) s fun t => t.replies = s.replies ++ [.load q.1] ∧ (q.1 ≠ 0 → t.nodes = s.nodes ∧ t.mem = s.mem) ∧
      (q.1 = 0 → t.mem = q.2.mem ∧ (p.world ≠ 0 → ∀ w ∈ t.worlds, w.id = p.world → w.measures.getLast? = some (BitVec.ofNat 384 (leNat ((c.drop 32).take 48)))) ∧
        (p.world = 0 → t.measures = s.measures ++ [BitVec.ofNat 384 (leNat ((c.drop 32).take 48))]) ∧
        ∃ ns, t.nodes = ns ++ s.nodes ∧ ∀ n ∈ ns, n.space = p.id ∧ ∃ o, n.va = va + o ∧ n.pa = pa + o))))

/-- R2, R271, R337, R339 to R345: reset bypasses failed bricks, as long as 25,000 stay, and clears the rest; a faulty router's brick retires; sensors, droop cuts, the arbiter and the module cap
follow their rules and change timing alone, and the shares never exceed the cap; snapshots latch 96 cycles after the raise; trace control; and the debug agent stops, resumes, reads and writes a
strand that is not of a world, and refuses what its table refuses. Model's choices, not the spec's: log 29, log 32, log 91, log 92, log 94. -/
def Obligations.FleetEventsFollowTheirRules : Prop :=
  (∀ (s : State) (l : List Nat), let bad := harvested l; bad.length ≤ 88 ∧ (∀ b ∈ bad, b ∈ l) ∧
    ((∀ b ∈ l, b < 32768 ∧ b / 64 % 64 < 56 ∧ b % 64 < 56) → l.Nodup → l.length ≤ 88 → bad = l) ∧
    ∃ t, exec (.moduleReset l) s = .next t ∧ (∀ b ∈ bad, (t.brick b).disabled = true) ∧ (∀ b, b < 32768 → b ∉ bad → t.brick b = { Brick.fresh with stuck := (t.brick b).stuck }) ∧
      ((∀ q ∈ s.bricks, q.2.stuck = 0) → ∀ b, b < 32768 → b ∉ bad → t.brick b = Brick.fresh) ∧ t.identity = s.identity ∧
      t.mem = s.mem.filter (fun c => decide (paClass c.1 ≠ 0)) ∧ t.launches = [] ∧ t.queues = [] ∧ t.spaces = State.reset.spaces ∧ t.nodes = rootNodesWithout bad ∧ t.cycle = 0 ∧
      t.stopped = false ∧ t.hostUp = false) ∧
  (∀ (s : State) (b : Nat), isPair b = false → (s.brick b).disabled = false →
    ((s.brick b).retiring = false → ∃ t, exec (.routerFault b) s = .next t ∧ t.brick b = { s.brick b with retiring := true } ∧ (∀ c, c ≠ b → t.brick c = s.brick c) ∧ t.mem = s.mem) ∧
    ((s.brick b).quiet = true → exec (.powerGating b) s = .next (s.modBrick b fun x => { x with gated := true, entries := [], rrb := [] }))) ∧
  (∀ (s : State) (d i v : Nat), d < 8 →
    (i < 64 → ∃ t, exec (.sensorSample d i 0 v) s = .next t ∧ (t.die d).temp.toList[i]? = some v ∧ (∀ j, j ≠ i → (t.die d).temp.toList[j]? = (s.die d).temp.toList[j]?) ∧
      (t.die d).hot = (t.die d).temp.toList.any (fun x => decide (380 ≤ x)) ∧ (t.die d).share = (if 380 ≤ v then 200 else (s.die d).share) ∧
      t.health = (if 380 ≤ v ∧ (s.die d).temp.toList[i]?.getD 0 < 380 then (s.logHealth 7 d i v).health else s.health) ∧ t.stopped = (s.stopped || decide (440 ≤ v)) ∧ t.mem = s.mem) ∧
    (i < 32 → ∃ t, exec (.sensorSample d i 1 v) s = .next t ∧ (t.die d).droop.toList[i]? = (s.die d).droop.toList[i]?.map (max · v) ∧
      (t.die d).droopUntil = (if 60 < v then some (s.cycle + 2100000) else (s.die d).droopUntil) ∧
      (t.die d).share = (s.die d).share ∧
      t.health = (if 60 < v then (s.logHealth 8 d i v).health else s.health) ∧ t.mem = s.mem) ∧
    (i < 8 → ∃ t, exec (.sensorSample d i 2 v) s = .next t ∧ (t.die d).process.toList[i]? = some v ∧ (t.die d).share = (s.die d).share ∧ t.mem = s.mem) ∧
    (∀ c, (s.die d).droopUntil = some c → c ≤ s.cycle → exec (.droopCutExpiry d) s = .next (s.modDie d fun q => { q with droopUntil := none })) ∧
    (∀ l : List Nat, let dem (j : Nat) : Nat := l.getD j 0; let sum := ((List.range 8).map dem).sum; ∃ x, exec (.powerPeriod l) s = .next { s with dies := x } ∧
      let q := s.die d; let die (j : Nat) : Die := ({ s with dies := x } : State).die j; let r := die d
      let now := if q.droopUntil.any (fun c => decide (s.cycle < c)) = true then max 200 (r.share - r.share / 8) else r.share
      (∃ low : List Nat, low.Nodup ∧ (∀ j ∈ low, j < 8) ∧ (∀ j, j < 8 → (s.die j).hot = true → j ∈ low) ∧ ∀ j, j < 8 → (die j).share = (if j ∈ low then 200 else
        let rest := s.cap - 200 * low.length; let total := (((List.range 8).filter fun i => decide (i ∉ low)).map dem).sum
        if total = 0 then rest / (8 - low.length) else rest * dem j / total)) ∧
      ((∀ j, j < 8 → (s.die j).hot = false ∧ 200 ≤ s.cap * dem j / sum) → sum ≠ 0 → r.share = s.cap * dem d / sum) ∧
      ((∀ j, j < 8 → (s.die j).hot = false) → sum = 0 → 1600 ≤ s.cap → r.share = s.cap / 8) ∧
      200 ≤ r.share ∧ (dem d ≤ now → r.throttle = 0) ∧ (now < dem d → dem d * r.throttle ≥ (dem d - now) * 8) ∧ r.throttle ≤ 8 ∧
      (1600 ≤ s.cap → ((List.range 8).map fun j => (die j).share).sum ≤ s.cap)) ∧
    (let cap := v % 2 ^ 32; (1600 ≤ cap → cap ≤ 3600 → ((∀ w ∈ s.worlds, w.locked.testBit 4 = false) → exec (.moduleCapSet v) s = .next { s with cap := cap }) ∧
      (∀ w : World, s.worlds = [w] → w.locked.testBit 4 = true → let tok := v / 2 ^ 32 % 2 ^ 192; let seq := tok % 2 ^ 64
        let good : Prop := seq ∈ w.tokens ∧ tok / 2 ^ 64 = Config.tokenMac (Config.sessionKey w.id w.sessionNo) seq [5, cap] % 2 ^ 128
        (good → exec (.moduleCapSet v) s = .next { s with cap := cap, worlds := [{ w with tokens := w.tokens.erase seq, generation := w.generation + 1 }] }) ∧
        (¬good → exec (.moduleCapSet v) s = .next { s with worlds := [{ w with refusals := w.refusals + 1 }], replies := s.replies ++ [.status w.id 3] })) ∧
      ((∃ w ∈ s.worlds, w.locked.testBit 4 = true ∧ w.tokens = []) → ∃ l r, exec (.moduleCapSet v) s = .next { s with worlds := l, replies := s.replies ++ r } ∧
        ∀ (i : Nat) (w : World), s.worlds[i]? = some w → w.locked.testBit 4 = true → w.tokens = [] → l[i]? = some { w with refusals := w.refusals + 1 } ∧ .status w.id 3 ∈ r)) ∧
      (cap < 1600 ∨ 3600 < cap → exec (.moduleCapSet v) s = .next s))) ∧
  (∀ (s : State) (n : Nat), exec .snapshotTrigger s = .next { s with snapRaised := s.snapRaised ++ [s.cycle] } ∧
    (∀ c l, s.snapRaised = c :: l → c + 96 ≤ s.cycle → ∃ x, exec .snapshotLatch s = .next { s with snap := x, snapRaised := l } ∧ x.seq = (s.snap.seq + 1) % 2 ^ 32 ∧
      x.block n = (true, (s.snap.block n).2 || (s.snap.block n).1) ∧ x.shares = s.dies.toList.map (·.current s.cycle) ∧
      x.links = s.dies.toList.flatMap (·.refusals.toList) ∧ x.coping = (List.range 8).map s.copingCounters ∧ ∀ q ∈ s.bricks, (q.1, q.2.counters) ∈ x.bricks ∧ (q.1, s.routerCounters q.1) ∈ x.routers) ∧
    ∃ x, exec (.snapshotRead n) s = .next { s with snap := x, replies := s.replies ++ [.snapshot n s.snap.seq (s.snap.block n).2 (s.snap.counters n)] } ∧ x.block n = (false, (s.snap.block n).2) ∧ x.seq = s.snap.seq ∧ ∀ j, j ≠ n → x.block j = s.snap.block j) ∧
  (∀ (s : State) (b : Nat) (v : Word),
    exec (.traceControlWrite b 0 v) s = .next (s.modBrick b fun x => { x with trctl := (x.trctl &&& 0x1FF0000) ||| (v &&& 0x73F) }) ∧
    exec (.traceControlWrite b 8 v) s = .next (s.modBrick b fun x => { x with trmatch := BitVec.ofNat 64 (bits v.toNat 56 2 * 4) }) ∧
    exec (.traceClear b) s = .next (s.modBrick b fun x => { x with trctl := x.trctl &&& ~~~(0x1FF0000 : Word) })) ∧
  (∀ (s : State) (b : Nat) (k : Fin 5), let x := s.strand b k; let y := (s.brick b).dbg; let n := y.sel.toNat
    let runs (c : Nat) : Prop := y.state = 1 ∧ y.op = c ∧ y.who = k.val
    let ended (t : State) (st code : Nat) : State := t.modBrick b fun z => { z with dbg := { z.dbg with state := st, code := code } }
    let put (d : BitVec 512) : State := s.modBrick b fun z => { z with dbg := { z.dbg with data := d } }
    let refused (e : Instr) : Prop := exec e s = .next (ended s 3 0)
    let reads (d : BitVec 512) : Prop := exec (.readReg b k) s = .next (ended (put d) 2 0)
    let writes (z : Strand) : Prop := exec (.writeReg b k) s = .next (ended (s.modStrand b k fun _ => z) 2 0)
    (runs 1 → (x.halted = none → x.task ≠ none → exec (.stop b k) s = .next (s.modStrand b k fun z => { z with stopReq := true })) ∧
      (x.halted ≠ none ∨ x.task = none → refused (.stop b k))) ∧
    (runs 1 → x.stopReq = true → x.halted = none → x.block = none → x.phase = 0 → x.hints.any = false → (x.windowFree = true ∨ 64 ≤ x.issued) → x.drained = true →
      exec (.stopTaken b k) s = .next (ended (s.modStrand b k fun z => { z.closeWindows with halted := some .stop, stopReq := false }) 2 0)) ∧
    (runs 1 → x.stopReq = true → x.halted = none → x.block ≠ none → exec (.stopTaken b k) s = .next (ended (s.modStrand b k fun z => { z with halted := some .stop, stopReq := false }) 2 0)) ∧
    (runs 2 → (x.halted ≠ none → exec (.resume b k) s = .next (ended (s.modStrand b k fun z => { z with halted := none, pc := if y.cmd.getLsbD 16 then y.pc else z.pc }) 2 0)) ∧
      (x.halted = none → refused (.resume b k))) ∧
    (s.worldOf (dieOf b) = 0 → (runs 3 → x.halted = none → refused (.readReg b k)) ∧ (runs 4 → x.halted = none → refused (.writeReg b k)) ∧
      (runs 3 → x.halted ≠ none → (∀ i : BitVec 4, n = i.toNat → reads ((x.sreg i).zeroExtend 512)) ∧ (n = 16 → reads (x.pc.zeroExtend 512)) ∧
        (∀ i : BitVec 5, n = 32 + i.toNat → reads (x.vreg i)) ∧ (∀ i : BitVec 3, n = 64 + i.toNat → reads ((x.preg i).zeroExtend 512)) ∧
        (∀ m ∈ csrNumbers, n = 0x1000 + m → reads ((csrValue s b k m).zeroExtend 512)) ∧
        ((16 < n ∧ n < 32) ∨ (72 ≤ n ∧ n < 0x1000) ∨ 0x2000 ≤ n → refused (.readReg b k))) ∧
      (runs 4 → x.halted ≠ none → (∀ i : BitVec 4, n = i.toNat → writes (x.setS i (y.data.truncate 64))) ∧ (∀ i : BitVec 5, n = 32 + i.toNat → writes (x.setV i y.data)) ∧
        (∀ i : BitVec 3, i ≠ 0 → n = 64 + i.toNat → writes (x.setP i (y.data.truncate 64))) ∧ ((16 ≤ n ∧ n < 32) ∨ n = 64 ∨ 72 ≤ n → refused (.writeReg b k)))) ∧
    (s.worldOf (dieOf b) ≠ 0 → let fails (e : Instr) : Prop := exec e s = .next ((ended (put 0) 3 0x46).report b k x.space .sealedDebug .load 0 0 0)
      (runs 3 → fails (.readReg b k)) ∧ (runs 4 → fails (.writeReg b k)))) ∧
  (∀ (s : State) (b : Nat), let y := (s.brick b).dbg; let a := y.sel.toNat / 64 * 64; let sp := y.space.toNat
    let ended (t : State) (st code : Nat) : State := t.modBrick b fun z => { z with dbg := { z.dbg with state := st, code := code } }
    let put (t : State) (d : BitVec 512) : State := t.modBrick b fun z => { z with dbg := { z.dbg with data := d } }
    let fails (c : Code) : Prop := exec (.readMem b) s = .next ((ended (put s 0) 3 c.num).report b y.who sp c .load 0 (BitVec.ofNat 64 a) 0)
    y.state = 1 → y.op = 5 → (s.worldOf (dieOf b) ≠ 0 ∨ s.dbgForeign b sp a = true → fails .sealedDebug) ∧
      (s.worldOf (dieOf b) = 0 → s.dbgForeign b sp a = false → (∀ c, s.check b sp a needDebug = .error c → fails c) ∧
        (∀ p t, s.check b sp a needDebug = .ok (p, t) → (paClass p.pa = 4 → p.pa < 2 ^ 52 → fails .rights) ∧
          ((paClass p.pa ≠ 4 ∨ 2 ^ 52 ≤ p.pa) → s.homeReady p.pa = true → (s.readBad b sp a p.pa 64 = true → fails .poison) ∧
            (s.readBad b sp a p.pa 64 = false → exec (.readMem b) s = .next (ended (put t (BitVec.ofNat 512 (s.num p.pa 64))) 2 0)))) ∧
        (b < 32768 → a < Config.sramBytes → s.readPoison (sramPa b a) 64 = false → exec (.readMem b) s = .next (ended (put s (BitVec.ofNat 512 (s.num (sramPa b a) 64))) 2 0))))

/-! The encoding, a step, reset, and what instructions leave alone. -/

/-- R62 to R67, R80, R81: decoding the word of an instruction gives it back, with every operand at every value its field admits, and a word that decodes is the word of the
instruction it gives: no bit of it is dropped and no two words mean one instruction. -/
def Obligations.DecodingAndEncodingAgree : Prop :=
  (∀ i : Instr, i.info.event = false → decode (BitVec.ofNat 32 (encode i)) = .ok i ∧ encode i < 2 ^ 32) ∧
  (∀ (w : IWord) (i : Instr), decode w = .ok i → i.info.event = false ∧ encode i = w.toNat)

/-- R62 to R67, R80: words written out from the spec's encodings, one or two a format, decode to the instructions they stand for. -/
def Obligations.DecodedWordsAreTheSpecWords : Prop :=
  let s (n : BitVec 5) : Src := ⟨1, n⟩; let v (n : BitVec 5) : Src := ⟨0, n⟩; let k (n : BitVec 5) : Src := ⟨3, n⟩
  decode 0x040D2250 = .ok (.add 3 (s 4) (s 5)) ∧ decode 0x0C093C93 = .ok (.sltu 2 (s 7) (⟨2, 9⟩)) ∧ decode 0x5C041632 = .ok (.vadd 1 (v 2) (k 3) 0 2) ∧
  decode 0x301A0008 = .ok (.beq 3 4 8) ∧ decode 0x44A98022 = .ok (.ldD 5 4 2 2) ∧ decode 0x46470020 = .ok (.ldWs 2 3 2 0) ∧ decode 0x29520003 = .ok (.sarI 5 4 3) ∧
  decode 0xAC013270 = .ok (.fork (s 6) (s 7)) ∧ decode 0xB8152610 = .ok (.get 5 (s 4) (k 1) 0) ∧ decode 0xBC012250 = .ok (.map (s 4) (s 5) 0) ∧
  decode 0xB0152261 = .ok (.send 5 (s 4) (s 6) 1) ∧ decode 0x50012614 = .ok (.rel (s 4) (k 1)) ∧ decode 0x501527F2 = .ok (.acq 5 (s 4) (k 31)) ∧
  decode 0x7C220610 = .ok (.vfma 1 2 (v 3) (v 4)) ∧ decode 0x4D518343 = .ok (.amoAdd 5 4 6 3 4 3) ∧ decode 0x98048000 = .ok (.mma 1 2 0 0 0) ∧
  decode 0xB58A8C30 = .ok (.fcomb 5 4 6 3 0) ∧ decode 0x800C0802 = .ok (.vcvt 0 3 1 0 0 0 2) ∧ decode 0x59152062 = .ok (.vgather 2 5 (s 4) 6 2) ∧
  decode 0 = .error .illegal ∧ decode 0xFFFFFFFF = .error .illegal

/-- R64, R75, R77, R81, R82: a trap of the encoding comes before anything the instruction does; of several conditions the first of ILLEGAL_OPCODE, RESERVED_FIELD, KIND_TAG and
HINT_ORPHAN is raised; a well-formed instruction that its strand implements, without hints, has none. R82: the message strand and the service cores implement a part of the map, and eret and
halt raise PRIVILEGE in task mode. Which operand kinds an instruction takes (log 34) and that reserved bits of hint.mod trap on the consumer (log 47) are the model's readings. Model's choices, not the spec's: log 34, log 47. -/
def Obligations.EncodingTrapsComeFirstInOrder : Prop :=
  (∀ (i : Instr) (s : State) (c : Code), i.info.event = false → encodingTrap i s = some c → exec i s = .next (takeTrap s c)) ∧
  (∀ (i : Instr) (s : State), let here := illegalHere i s.cur.1 s.cur.2 s.me.mode
    (i.encTrap = some .illegal ∨ here = true → encodingTrap i s = some .illegalOpcode) ∧
    (here = false → i.encTrap = some .reserved → encodingTrap i s = some .reservedField) ∧
    (here = false → i.encTrap = some .kindTag → s.me.hints = Hints.none → isMessage s.cur.1 s.cur.2 = false → encodingTrap i s = some .kindTag) ∧
    (here = false → WellFormed i → s.me.hints = Hints.none → isMessage s.cur.1 s.cur.2 = false → Accepts i s) ∧
    (here = false → WellFormed i → s.me.hints.mod = none → isMessage s.cur.1 s.cur.2 = false → s.me.hints.imms ≠ [] → i.info.imm = false → i.info.event = false → i.info.major ≠ 0x10 →
      encodingTrap i s = some .hintOrphan)) ∧
  (∀ (i : Instr) (s : State), s.cur.1 < 32768 → s.cur.2.val < 4 → s.me.mode = .task → i.info.event = false →
    (∀ d c, i ≠ .csrr d c ∧ i ≠ .csrw d c) → i ≠ .mend → illegalHere i s.cur.1 s.cur.2 s.me.mode = false) ∧
  (∀ (i : Instr) (s : State), i.info.event = false → let m := i.info.major
    (isMessage s.cur.1 s.cur.2 = true → (0x15 ≤ m ∧ m ≤ 0x2A) ∨ m = 0x2D ∨ m = 0x2E ∨ i = .yield → encodingTrap i s = some .illegalOpcode) ∧
    (32768 ≤ s.cur.1 → (¬(1 ≤ m ∧ m ≤ 0x14) ∧ m ≠ 0x30) ∨ i = .yield ∨ i = .exit → encodingTrap i s = some .illegalOpcode) ∧
    (32768 ≤ s.cur.1 → 1 ≤ m → m ≤ 0x14 → i ≠ .yield → i ≠ .exit → illegalHere i s.cur.1 s.cur.2 s.me.mode = false) ∧
    (s.me.mode = .task → i = .eret ∨ i = .halt → Accepts i s → Traps i s .privilege))

/-- R15, R19, R62, R81, R91: a turn of a strand that nothing holds back fetches the word at its PC, in the local window its four little-endian bytes, and is exec of the instruction that
the word decodes to, or its trap. Cycles pass before it, with what falls due in them, and the trace buffer freezes after the instruction at MATCH (R344); the runtime's own entry is log 112's. Model's choices, not the spec's: log 1, log 2, log 9, log 13,
log 112. -/
def Obligations.StepRunsTheDecodedInstruction : Prop :=
  (∀ (s : State) (d b : Nat) (k : Fin 5) (rest : List Config.Turn), s.turns = ⟨d, .strand b k⟩ :: rest →
    let t : State := { passTime { s with turns := rest } d with cur := (b, k) }; let u := (t.settleHolds b k).modMe Strand.settle
    t.stopped = false → t.live = true → t.me.kill = none → t.me.halted = none → t.me.block = none → t.me.restore = none → u.me.pause = none → u.me.waiting = none → u.me.trapDue = none → (asyncEvent u = none ∨ u.me.interruptible = false) → atRtcause u = false →
    (∀ w, isMessage u.cur.1 u.cur.2 = false → fetch u = .ok w → let v := fetchFill u
      (∀ i, decode w = .ok i → step s = freezing v (exec i v)) ∧ (∀ e, decode w = .error e → step s = freezing v (.next (takeTrap v (wordTrap w.toNat v))))) ∧
    (∀ w, isMessage u.cur.1 u.cur.2 = true → handlerWord u = some w → (∀ i, decode w = .ok i → step s = freezing u (exec i u)))) ∧
  (∀ s t : State, (∀ o, s.atMatch = false → freezing s o = o) ∧ (s.atMatch = true → (s.issuedBy t = true → freezing s (.next t) = .next (t.modBrick s.cur.1 fun x => { x with trctl := x.trctl ||| 0x100 })) ∧
    (s.issuedBy t = false → freezing s (.next t) = .next t))) ∧
  (∀ s : State, s.me.pc.toNat % 4 = 0 → s.me.pc.toNat + 4 ≤ Config.sramBytes → s.me.answers = [] → s.codeLog = [] → let pa := s.hereAt s.me.pc
    s.readPoison pa 4 = false → fetch s = .ok (s.byte (pa + 3) ++ s.byte (pa + 2) ++ s.byte (pa + 1) ++ s.byte pa) ∧ fetchFill s = s)

/-- R16, R17, R27, R321, R322: after module reset memory lists nothing, every scalar and vector register of every strand of every brick is zero, so are p1 to p7, and p0 reads as ones, the control registers hold the
reset values of their fields, accumulators, deques and rings are empty, CYCLE is 0, the host is not attached, and the pair of the
lowest-numbered die leads, every pair being healthy. Model's choices, not the spec's: log 3, log 4. -/
def Obligations.ResetLeavesTheSpecValues : Prop :=
  let s := State.reset
  s.mem = [] ∧ s.cycle = 0 ∧ s.launches = [] ∧ s.queues = [] ∧ s.heartbeat = 0 ∧ s.hostUp = false ∧
  (∀ d : Fin 8, (s.pairs.get d).leader = decide (d = 0) ∧ (s.pairs.get d).healthy = true ∧ (s.pairs.get d).mismatch = 0 ∧ (s.pairs.get d).beat = 0) ∧ ∀ (b : Nat) (k : Fin 5), b < 32768 → let y := s.brick b; let x := s.strand b k
    x.s = Vector.replicate 16 0 ∧ x.v = Vector.replicate 32 0 ∧ x.preg 0 = BitVec.allOnes 64 ∧ (∀ i : BitVec 3, i ≠ 0 → x.preg i = 0) ∧ x.mode = .task ∧ x.rm = 0 ∧ x.fpstat = 0 ∧ x.unacked = 0 ∧ x.bindtab = 0 ∧ x.bufbase = 0 ∧
    x.deadline = 20000 ∧ x.yieldPend = false ∧ x.yieldLeft = 0 ∧ x.wdLog2 = 26 ∧ x.wdCount = 0 ∧ x.trapvec = 0 ∧ x.trappc = 0 ∧ x.trapcause = 0 ∧ x.fltseq = 0 ∧ x.seqNext = 0 ∧ x.ring = [] ∧
    x.ctxid = 0 ∧ x.savearea = 0 ∧ x.space = 0 ∧ x.task = none ∧ y.acc = 0 ∧ y.accown = 0 ∧ y.deque = [] ∧ y.inbox = [] ∧ y.coursewin = 0 ∧ y.courseorg = 0 ∧ y.courseshape = 0 ∧ y.footmask = 0

/-- The memory of the reset state is in its canonical form. Model's choices, not the spec's: log 3. -/
def Obligations.ResetMeetsTheInvariant : Prop := State.reset.Inv

/-- Whatever a step does, to whichever agent's turn it falls, memory stays in its canonical form: addresses strictly rising, no entry equal to what an unlisted address reads as. Model's choices, not the spec's: log 3. -/
def Obligations.EveryStepKeepsTheInvariant : Prop := ∀ s t : State, s.Inv → step s = .next t → t.Inv

/-- R26, R29, R107: in task mode no instruction changes TRAPVEC, DEADLINE or WATCHDOG.LOG2 of any strand of any brick. -/
def Obligations.TaskModeCannotTouchServiceRegisters : Prop :=
  ∀ (i : Instr) (s t : State) (b : Nat) (k : Fin 5), i.info.event = false → s.me.mode = .task → exec i s = .next t → let x := s.strand b k; let y := t.strand b k
    y.trapvec = x.trapvec ∧ y.deadline = x.deadline ∧ y.wdLog2 = x.wdLog2

/-- R17, R68, R70, R75: what completing an instruction, and writing one register, leave alone: the other registers of that file and the other files, the status and control registers, other strands
and every byte of memory; the PC goes to the next word and the hints are consumed. -/
def Obligations.CompletionAndRegisterWritesLeaveTheRest : Prop :=
  ∀ (s : State), let kept (x y : Strand) : Prop := y.mode = x.mode ∧ y.rm = x.rm ∧ y.bindtab = x.bindtab ∧ y.binds = x.binds ∧ y.bufbase = x.bufbase ∧ y.unacked = x.unacked ∧ y.deadline = x.deadline ∧
      y.trapvec = x.trapvec ∧ y.trappc = x.trappc ∧ y.trapcause = x.trapcause ∧ y.fltseq = x.fltseq ∧ y.seqNext = x.seqNext ∧ y.ring = x.ring ∧ y.ctxid = x.ctxid ∧ y.savearea = x.savearea ∧
      y.task = x.task ∧ y.wdLog2 = x.wdLog2 ∧ y.wdCount = x.wdCount
    let elsewhere (t : State) : Prop := (∀ b k, (b, k) ≠ s.cur → t.strand b k = s.strand b k) ∧ (∀ a, t.byte a = s.byte a) ∧ t.here.acc = s.here.acc ∧ t.here.accown = s.here.accown ∧ t.cur = s.cur
    (s.me.ops = [] → let t := advance s; kept s.me t.me ∧ (t.me.s = s.me.s ∧ t.me.v = s.me.v ∧ t.me.p = s.me.p ∧ t.me.fpstat = s.me.fpstat ∧ t.me.pc = s.me.pc + 4 ∧ t.me.hints = Hints.none) ∧
      (∀ b k, (b, k) ≠ s.cur → t.strand b k = s.strand b k) ∧ t.mem = s.mem ∧ t.here.acc = s.here.acc ∧ t.cur = s.cur) ∧
    (∀ (d : BitVec 4) (w : Word), let t := s.setS d w; t.me.sreg d = w ∧ (∀ e, e ≠ d → t.me.sreg e = s.me.sreg e) ∧ t.me.v = s.me.v ∧ t.me.p = s.me.p ∧ t.me.pc = s.me.pc ∧
      t.me.fpstat = s.me.fpstat ∧ kept s.me t.me ∧ elsewhere t) ∧
    (∀ (d : BitVec 5) (w : VReg), let t := s.setV d w; t.me.vreg d = w ∧ (∀ e, e ≠ d → t.me.vreg e = s.me.vreg e) ∧ t.me.s = s.me.s ∧ t.me.p = s.me.p ∧ t.me.pc = s.me.pc ∧
      t.me.fpstat = s.me.fpstat ∧ kept s.me t.me ∧ elsewhere t) ∧
    (∀ (d : BitVec 3) (w : PReg), let t := s.setP d w; t.me.preg d = (if d = 0 then BitVec.allOnes 64 else w) ∧ (∀ e, e ≠ d → t.me.preg e = s.me.preg e) ∧ t.me.s = s.me.s ∧ t.me.v = s.me.v ∧
      t.me.pc = s.me.pc ∧ t.me.fpstat = s.me.fpstat ∧ kept s.me t.me ∧ elsewhere t) ∧
    (∀ (f : BitVec 5), let t := s.raise f; t.me.fpstat = s.me.fpstat ||| f ∧ t.me.s = s.me.s ∧ t.me.v = s.me.v ∧ t.me.p = s.me.p ∧ t.me.pc = s.me.pc ∧ kept s.me t.me ∧ elsewhere t)

/-- R9, R26, R63 to R69: an instruction of majors 0x01 to 0x0E, 0x10 and 0x11 (scalar, immediate, branch, jump, hint, load) or 0x17 to 0x25 (vector and predicate, in registers) leaves memory, other
strands and the control registers as they are, and all of them but vfdiv, vfsqrt and vdec4, which take a ring entry, also the ring and its
counter; an FP flag only goes up; while no window is open, an instruction of any family but 0x0F, 0x2B and 0x2E changes no scalar register that its fields
do not name (s14 for call), and one that is no vector instruction no vector or predicate register. -/
def Obligations.InstructionsChangeOnlyTheRegistersTheyName : Prop :=
  ∀ (i : Instr) (s t : State), i.info.event = false → s.me.ops = [] → exec i s = .next t → let m := i.info.major; let x := s.me; let y := t.me
    let long : Prop := (∃ k d a b l, i = .vfdiv k d a b l) ∨ (∃ k d a l, i = .vfsqrt k d a l) ∨ ∃ d a k l, i = .vdec4 d a k l
    ((m ≤ 0x0E ∨ m = 0x10 ∨ m = 0x11 ∨ (0x17 ≤ m ∧ m ≤ 0x25)) → t.mem = s.mem ∧ (∀ b k, (b, k) ≠ s.cur → t.strand b k = s.strand b k) ∧ t.here.acc = s.here.acc ∧
      t.here.accown = s.here.accown ∧ y.rm = x.rm ∧ y.bindtab = x.bindtab ∧ y.binds = x.binds ∧ y.bufbase = x.bufbase ∧ y.unacked = x.unacked ∧ y.deadline = x.deadline ∧ y.trapvec = x.trapvec ∧
      y.fltseq = x.fltseq ∧ (¬long → y.seqNext = x.seqNext ∧ y.ring = x.ring) ∧ y.ctxid = x.ctxid ∧ y.savearea = x.savearea ∧ y.task = x.task ∧ x.fpstat &&& y.fpstat = x.fpstat) ∧
    (m ≠ 0x0F → m ≠ 0x2B → m ≠ 0x2E → t.cur = s.cur ∧ (∀ n : BitVec 4, n.toNat ∉ i.scalars → (m = 0x0E → n ≠ 14) → y.sreg n = x.sreg n) ∧
      ((m < 0x15 ∨ 0x25 < m) → y.v = x.v ∧ y.p = x.p ∧ (m ≠ 0x30 → y.fpstat = x.fpstat)))
end

