-- ==== Sys2Proof/Laws/State.lean ====
section
/-! SUPPORT. What every update of the state leaves alone, field by field, and what it reads back: bricks, strands and registers. -/

namespace Sys2Proof.Machine

/-! Lists under keys. -/

theorem findKey_putKey_same {α : Type} (k : Nat) (x : α) (l : List (Nat × α)) : findKey k (putKey k x l) = some x := by
  induction l with
  | nil => simp [putKey, findKey]
  | cons q t ih => obtain ⟨j, y⟩ := q; by_cases h : j = k <;> simp [putKey, findKey, h, ih]

theorem findKey_putKey_ne {α : Type} {j k : Nat} (h : j ≠ k) (x : α) (l : List (Nat × α)) :
    findKey j (putKey k x l) = findKey j l := by
  induction l with
  | nil => simp [putKey, findKey, Ne.symm h]
  | cons q t ih =>
    obtain ⟨i, y⟩ := q
    by_cases hk : i = k
    · subst hk; simp [putKey, findKey, Ne.symm h]
    · simp only [putKey, findKey, hk, if_false, ih]

theorem putKey_putKey {α : Type} (k : Nat) (x y : α) (l : List (Nat × α)) : putKey k y (putKey k x l) = putKey k y l := by
  induction l with
  | nil => simp [putKey]
  | cons q t ih => obtain ⟨i, z⟩ := q; by_cases e : i = k <;> simp [putKey, e, ih]

/-! Vectors. -/

theorem get_set_same {α : Type} {n : Nat} (v : Vector α n) (i : Fin n) (x : α) : (v.set i x).get i = x :=
  Vector.getElem_set_self (xs := v) i.isLt
theorem get_set_ne {α : Type} {n : Nat} (v : Vector α n) {i j : Fin n} (x : α) (h : j ≠ i) : (v.set i x).get j = v.get j :=
  Vector.getElem_set_ne (xs := v) i.isLt j.isLt fun e => h (Fin.ext e.symm)

/-! The fields of the state under its updates. -/

section
variable (s : State) (b : Nat) (k : Fin 5) (x : Brick) (f : Brick → Brick) (g : Strand → Strand) (d : BitVec 4) (d5 : BitVec 5)
  (d3 : BitVec 3) (v : Word) (w : VReg) (q : PReg)


@[simp] theorem State.putBrick_cur : (s.putBrick b x).cur = s.cur := rfl
@[simp] theorem State.putBrick_turns : (s.putBrick b x).turns = s.turns := rfl
@[simp] theorem State.putBrick_turnCount : (s.putBrick b x).turnCount = s.turnCount := rfl
@[simp] theorem State.putBrick_free : (s.putBrick b x).free = s.free := rfl
@[simp] theorem State.putBrick_nextId : (s.putBrick b x).nextId = s.nextId := rfl
@[simp] theorem State.putBrick_cycle : (s.putBrick b x).cycle = s.cycle := rfl
@[simp] theorem State.putBrick_mem : (s.putBrick b x).mem = s.mem := rfl
@[simp] theorem State.putBrick_poison : (s.putBrick b x).poison = s.poison := rfl
@[simp] theorem State.putBrick_codeLog : (s.putBrick b x).codeLog = s.codeLog := rfl
@[simp] theorem State.putBrick_nodes : (s.putBrick b x).nodes = s.nodes := rfl
@[simp] theorem State.putBrick_heat : (s.putBrick b x).heat = s.heat := rfl
@[simp] theorem State.putBrick_spaces : (s.putBrick b x).spaces = s.spaces := rfl
@[simp] theorem State.putBrick_gens : (s.putBrick b x).gens = s.gens := rfl
@[simp] theorem State.putBrick_mapq : (s.putBrick b x).mapq = s.mapq := rfl
@[simp] theorem State.putBrick_withdrawals : (s.putBrick b x).withdrawals = s.withdrawals := rfl
@[simp] theorem State.putBrick_foots : (s.putBrick b x).foots = s.foots := rfl
@[simp] theorem State.putBrick_launches : (s.putBrick b x).launches = s.launches := rfl
@[simp] theorem State.putBrick_queues : (s.putBrick b x).queues = s.queues := rfl
@[simp] theorem State.putBrick_net : (s.putBrick b x).net = s.net := rfl
@[simp] theorem State.putBrick_parkq : (s.putBrick b x).parkq = s.parkq := rfl
@[simp] theorem State.putBrick_frames : (s.putBrick b x).frames = s.frames := rfl
@[simp] theorem State.putBrick_parkFrames : (s.putBrick b x).parkFrames = s.parkFrames := rfl
@[simp] theorem State.putBrick_steals : (s.putBrick b x).steals = s.steals := rfl
@[simp] theorem State.putBrick_rcmds : (s.putBrick b x).rcmds = s.rcmds := rfl
@[simp] theorem State.putBrick_hostUp : (s.putBrick b x).hostUp = s.hostUp := rfl
@[simp] theorem State.putBrick_liveness : (s.putBrick b x).liveness = s.liveness := rfl
@[simp] theorem State.putBrick_ports : (s.putBrick b x).ports = s.ports := rfl
@[simp] theorem State.putBrick_mail : (s.putBrick b x).mail = s.mail := rfl
@[simp] theorem State.putBrick_park : (s.putBrick b x).park = s.park := rfl
@[simp] theorem State.putBrick_regions : (s.putBrick b x).regions = s.regions := rfl
@[simp] theorem State.putBrick_lapsed : (s.putBrick b x).lapsed = s.lapsed := rfl
@[simp] theorem State.putBrick_asks : (s.putBrick b x).asks = s.asks := rfl
@[simp] theorem State.putBrick_bar2 : (s.putBrick b x).bar2 = s.bar2 := rfl
@[simp] theorem State.putBrick_pairs : (s.putBrick b x).pairs = s.pairs := rfl
@[simp] theorem State.putBrick_heartbeat : (s.putBrick b x).heartbeat = s.heartbeat := rfl
@[simp] theorem State.putBrick_lastBeat : (s.putBrick b x).lastBeat = s.lastBeat := rfl
@[simp] theorem State.putBrick_extents : (s.putBrick b x).extents = s.extents := rfl
@[simp] theorem State.putBrick_worlds : (s.putBrick b x).worlds = s.worlds := rfl
@[simp] theorem State.putBrick_tagRegions : (s.putBrick b x).tagRegions = s.tagRegions := rfl
@[simp] theorem State.putBrick_versions : (s.putBrick b x).versions = s.versions := rfl
@[simp] theorem State.putBrick_incoming : (s.putBrick b x).incoming = s.incoming := rfl
@[simp] theorem State.putBrick_measures : (s.putBrick b x).measures = s.measures := rfl
@[simp] theorem State.putBrick_identity : (s.putBrick b x).identity = s.identity := rfl
@[simp] theorem State.putBrick_dies : (s.putBrick b x).dies = s.dies := rfl
@[simp] theorem State.putBrick_health : (s.putBrick b x).health = s.health := rfl
@[simp] theorem State.putBrick_cap : (s.putBrick b x).cap = s.cap := rfl
@[simp] theorem State.putBrick_snap : (s.putBrick b x).snap = s.snap := rfl
@[simp] theorem State.putBrick_snapRaised : (s.putBrick b x).snapRaised = s.snapRaised := rfl
@[simp] theorem State.putBrick_replies : (s.putBrick b x).replies = s.replies := rfl
@[simp] theorem State.putBrick_lastSweep : (s.putBrick b x).lastSweep = s.lastSweep := rfl
@[simp] theorem State.putBrick_lastTick : (s.putBrick b x).lastTick = s.lastTick := rfl
@[simp] theorem State.putBrick_stopped : (s.putBrick b x).stopped = s.stopped := rfl

@[simp] theorem State.modBrick_cur : (s.modBrick b f).cur = s.cur := rfl
@[simp] theorem State.modBrick_turns : (s.modBrick b f).turns = s.turns := rfl
@[simp] theorem State.modBrick_turnCount : (s.modBrick b f).turnCount = s.turnCount := rfl
@[simp] theorem State.modBrick_free : (s.modBrick b f).free = s.free := rfl
@[simp] theorem State.modBrick_nextId : (s.modBrick b f).nextId = s.nextId := rfl
@[simp] theorem State.modBrick_cycle : (s.modBrick b f).cycle = s.cycle := rfl
@[simp] theorem State.modBrick_mem : (s.modBrick b f).mem = s.mem := rfl
@[simp] theorem State.modBrick_poison : (s.modBrick b f).poison = s.poison := rfl
@[simp] theorem State.modBrick_codeLog : (s.modBrick b f).codeLog = s.codeLog := rfl
@[simp] theorem State.modBrick_nodes : (s.modBrick b f).nodes = s.nodes := rfl
@[simp] theorem State.modBrick_heat : (s.modBrick b f).heat = s.heat := rfl
@[simp] theorem State.modBrick_spaces : (s.modBrick b f).spaces = s.spaces := rfl
@[simp] theorem State.modBrick_gens : (s.modBrick b f).gens = s.gens := rfl
@[simp] theorem State.modBrick_mapq : (s.modBrick b f).mapq = s.mapq := rfl
@[simp] theorem State.modBrick_withdrawals : (s.modBrick b f).withdrawals = s.withdrawals := rfl
@[simp] theorem State.modBrick_foots : (s.modBrick b f).foots = s.foots := rfl
@[simp] theorem State.modBrick_launches : (s.modBrick b f).launches = s.launches := rfl
@[simp] theorem State.modBrick_queues : (s.modBrick b f).queues = s.queues := rfl
@[simp] theorem State.modBrick_net : (s.modBrick b f).net = s.net := rfl
@[simp] theorem State.modBrick_parkq : (s.modBrick b f).parkq = s.parkq := rfl
@[simp] theorem State.modBrick_frames : (s.modBrick b f).frames = s.frames := rfl
@[simp] theorem State.modBrick_parkFrames : (s.modBrick b f).parkFrames = s.parkFrames := rfl
@[simp] theorem State.modBrick_steals : (s.modBrick b f).steals = s.steals := rfl
@[simp] theorem State.modBrick_rcmds : (s.modBrick b f).rcmds = s.rcmds := rfl
@[simp] theorem State.modBrick_hostUp : (s.modBrick b f).hostUp = s.hostUp := rfl
@[simp] theorem State.modBrick_liveness : (s.modBrick b f).liveness = s.liveness := rfl
@[simp] theorem State.modBrick_ports : (s.modBrick b f).ports = s.ports := rfl
@[simp] theorem State.modBrick_mail : (s.modBrick b f).mail = s.mail := rfl
@[simp] theorem State.modBrick_park : (s.modBrick b f).park = s.park := rfl
@[simp] theorem State.modBrick_regions : (s.modBrick b f).regions = s.regions := rfl
@[simp] theorem State.modBrick_lapsed : (s.modBrick b f).lapsed = s.lapsed := rfl
@[simp] theorem State.modBrick_asks : (s.modBrick b f).asks = s.asks := rfl
@[simp] theorem State.modBrick_bar2 : (s.modBrick b f).bar2 = s.bar2 := rfl
@[simp] theorem State.modBrick_pairs : (s.modBrick b f).pairs = s.pairs := rfl
@[simp] theorem State.modBrick_heartbeat : (s.modBrick b f).heartbeat = s.heartbeat := rfl
@[simp] theorem State.modBrick_lastBeat : (s.modBrick b f).lastBeat = s.lastBeat := rfl
@[simp] theorem State.modBrick_extents : (s.modBrick b f).extents = s.extents := rfl
@[simp] theorem State.modBrick_worlds : (s.modBrick b f).worlds = s.worlds := rfl
@[simp] theorem State.modBrick_tagRegions : (s.modBrick b f).tagRegions = s.tagRegions := rfl
@[simp] theorem State.modBrick_versions : (s.modBrick b f).versions = s.versions := rfl
@[simp] theorem State.modBrick_incoming : (s.modBrick b f).incoming = s.incoming := rfl
@[simp] theorem State.modBrick_measures : (s.modBrick b f).measures = s.measures := rfl
@[simp] theorem State.modBrick_identity : (s.modBrick b f).identity = s.identity := rfl
@[simp] theorem State.modBrick_dies : (s.modBrick b f).dies = s.dies := rfl
@[simp] theorem State.modBrick_health : (s.modBrick b f).health = s.health := rfl
@[simp] theorem State.modBrick_cap : (s.modBrick b f).cap = s.cap := rfl
@[simp] theorem State.modBrick_snap : (s.modBrick b f).snap = s.snap := rfl
@[simp] theorem State.modBrick_snapRaised : (s.modBrick b f).snapRaised = s.snapRaised := rfl
@[simp] theorem State.modBrick_replies : (s.modBrick b f).replies = s.replies := rfl
@[simp] theorem State.modBrick_lastSweep : (s.modBrick b f).lastSweep = s.lastSweep := rfl
@[simp] theorem State.modBrick_lastTick : (s.modBrick b f).lastTick = s.lastTick := rfl
@[simp] theorem State.modBrick_stopped : (s.modBrick b f).stopped = s.stopped := rfl

@[simp] theorem State.modStrand_cur : (s.modStrand b k g).cur = s.cur := rfl
@[simp] theorem State.modStrand_turns : (s.modStrand b k g).turns = s.turns := rfl
@[simp] theorem State.modStrand_turnCount : (s.modStrand b k g).turnCount = s.turnCount := rfl
@[simp] theorem State.modStrand_free : (s.modStrand b k g).free = s.free := rfl
@[simp] theorem State.modStrand_nextId : (s.modStrand b k g).nextId = s.nextId := rfl
@[simp] theorem State.modStrand_cycle : (s.modStrand b k g).cycle = s.cycle := rfl
@[simp] theorem State.modStrand_mem : (s.modStrand b k g).mem = s.mem := rfl
@[simp] theorem State.modStrand_poison : (s.modStrand b k g).poison = s.poison := rfl
@[simp] theorem State.modStrand_codeLog : (s.modStrand b k g).codeLog = s.codeLog := rfl
@[simp] theorem State.modStrand_nodes : (s.modStrand b k g).nodes = s.nodes := rfl
@[simp] theorem State.modStrand_heat : (s.modStrand b k g).heat = s.heat := rfl
@[simp] theorem State.modStrand_spaces : (s.modStrand b k g).spaces = s.spaces := rfl
@[simp] theorem State.modStrand_gens : (s.modStrand b k g).gens = s.gens := rfl
@[simp] theorem State.modStrand_mapq : (s.modStrand b k g).mapq = s.mapq := rfl
@[simp] theorem State.modStrand_withdrawals : (s.modStrand b k g).withdrawals = s.withdrawals := rfl
@[simp] theorem State.modStrand_foots : (s.modStrand b k g).foots = s.foots := rfl
@[simp] theorem State.modStrand_launches : (s.modStrand b k g).launches = s.launches := rfl
@[simp] theorem State.modStrand_queues : (s.modStrand b k g).queues = s.queues := rfl
@[simp] theorem State.modStrand_net : (s.modStrand b k g).net = s.net := rfl
@[simp] theorem State.modStrand_parkq : (s.modStrand b k g).parkq = s.parkq := rfl
@[simp] theorem State.modStrand_frames : (s.modStrand b k g).frames = s.frames := rfl
@[simp] theorem State.modStrand_parkFrames : (s.modStrand b k g).parkFrames = s.parkFrames := rfl
@[simp] theorem State.modStrand_steals : (s.modStrand b k g).steals = s.steals := rfl
@[simp] theorem State.modStrand_rcmds : (s.modStrand b k g).rcmds = s.rcmds := rfl
@[simp] theorem State.modStrand_hostUp : (s.modStrand b k g).hostUp = s.hostUp := rfl
@[simp] theorem State.modStrand_liveness : (s.modStrand b k g).liveness = s.liveness := rfl
@[simp] theorem State.modStrand_ports : (s.modStrand b k g).ports = s.ports := rfl
@[simp] theorem State.modStrand_mail : (s.modStrand b k g).mail = s.mail := rfl
@[simp] theorem State.modStrand_park : (s.modStrand b k g).park = s.park := rfl
@[simp] theorem State.modStrand_regions : (s.modStrand b k g).regions = s.regions := rfl
@[simp] theorem State.modStrand_lapsed : (s.modStrand b k g).lapsed = s.lapsed := rfl
@[simp] theorem State.modStrand_asks : (s.modStrand b k g).asks = s.asks := rfl
@[simp] theorem State.modStrand_bar2 : (s.modStrand b k g).bar2 = s.bar2 := rfl
@[simp] theorem State.modStrand_pairs : (s.modStrand b k g).pairs = s.pairs := rfl
@[simp] theorem State.modStrand_heartbeat : (s.modStrand b k g).heartbeat = s.heartbeat := rfl
@[simp] theorem State.modStrand_lastBeat : (s.modStrand b k g).lastBeat = s.lastBeat := rfl
@[simp] theorem State.modStrand_extents : (s.modStrand b k g).extents = s.extents := rfl
@[simp] theorem State.modStrand_worlds : (s.modStrand b k g).worlds = s.worlds := rfl
@[simp] theorem State.modStrand_tagRegions : (s.modStrand b k g).tagRegions = s.tagRegions := rfl
@[simp] theorem State.modStrand_versions : (s.modStrand b k g).versions = s.versions := rfl
@[simp] theorem State.modStrand_incoming : (s.modStrand b k g).incoming = s.incoming := rfl
@[simp] theorem State.modStrand_measures : (s.modStrand b k g).measures = s.measures := rfl
@[simp] theorem State.modStrand_identity : (s.modStrand b k g).identity = s.identity := rfl
@[simp] theorem State.modStrand_dies : (s.modStrand b k g).dies = s.dies := rfl
@[simp] theorem State.modStrand_health : (s.modStrand b k g).health = s.health := rfl
@[simp] theorem State.modStrand_cap : (s.modStrand b k g).cap = s.cap := rfl
@[simp] theorem State.modStrand_snap : (s.modStrand b k g).snap = s.snap := rfl
@[simp] theorem State.modStrand_snapRaised : (s.modStrand b k g).snapRaised = s.snapRaised := rfl
@[simp] theorem State.modStrand_replies : (s.modStrand b k g).replies = s.replies := rfl
@[simp] theorem State.modStrand_lastSweep : (s.modStrand b k g).lastSweep = s.lastSweep := rfl
@[simp] theorem State.modStrand_lastTick : (s.modStrand b k g).lastTick = s.lastTick := rfl
@[simp] theorem State.modStrand_stopped : (s.modStrand b k g).stopped = s.stopped := rfl

@[simp] theorem State.modHere_cur : (s.modHere f).cur = s.cur := rfl
@[simp] theorem State.modHere_turns : (s.modHere f).turns = s.turns := rfl
@[simp] theorem State.modHere_turnCount : (s.modHere f).turnCount = s.turnCount := rfl
@[simp] theorem State.modHere_free : (s.modHere f).free = s.free := rfl
@[simp] theorem State.modHere_nextId : (s.modHere f).nextId = s.nextId := rfl
@[simp] theorem State.modHere_cycle : (s.modHere f).cycle = s.cycle := rfl
@[simp] theorem State.modHere_mem : (s.modHere f).mem = s.mem := rfl
@[simp] theorem State.modHere_poison : (s.modHere f).poison = s.poison := rfl
@[simp] theorem State.modHere_codeLog : (s.modHere f).codeLog = s.codeLog := rfl
@[simp] theorem State.modHere_nodes : (s.modHere f).nodes = s.nodes := rfl
@[simp] theorem State.modHere_heat : (s.modHere f).heat = s.heat := rfl
@[simp] theorem State.modHere_spaces : (s.modHere f).spaces = s.spaces := rfl
@[simp] theorem State.modHere_gens : (s.modHere f).gens = s.gens := rfl
@[simp] theorem State.modHere_mapq : (s.modHere f).mapq = s.mapq := rfl
@[simp] theorem State.modHere_withdrawals : (s.modHere f).withdrawals = s.withdrawals := rfl
@[simp] theorem State.modHere_foots : (s.modHere f).foots = s.foots := rfl
@[simp] theorem State.modHere_launches : (s.modHere f).launches = s.launches := rfl
@[simp] theorem State.modHere_queues : (s.modHere f).queues = s.queues := rfl
@[simp] theorem State.modHere_net : (s.modHere f).net = s.net := rfl
@[simp] theorem State.modHere_parkq : (s.modHere f).parkq = s.parkq := rfl
@[simp] theorem State.modHere_frames : (s.modHere f).frames = s.frames := rfl
@[simp] theorem State.modHere_parkFrames : (s.modHere f).parkFrames = s.parkFrames := rfl
@[simp] theorem State.modHere_steals : (s.modHere f).steals = s.steals := rfl
@[simp] theorem State.modHere_rcmds : (s.modHere f).rcmds = s.rcmds := rfl
@[simp] theorem State.modHere_hostUp : (s.modHere f).hostUp = s.hostUp := rfl
@[simp] theorem State.modHere_liveness : (s.modHere f).liveness = s.liveness := rfl
@[simp] theorem State.modHere_ports : (s.modHere f).ports = s.ports := rfl
@[simp] theorem State.modHere_mail : (s.modHere f).mail = s.mail := rfl
@[simp] theorem State.modHere_park : (s.modHere f).park = s.park := rfl
@[simp] theorem State.modHere_regions : (s.modHere f).regions = s.regions := rfl
@[simp] theorem State.modHere_lapsed : (s.modHere f).lapsed = s.lapsed := rfl
@[simp] theorem State.modHere_asks : (s.modHere f).asks = s.asks := rfl
@[simp] theorem State.modHere_bar2 : (s.modHere f).bar2 = s.bar2 := rfl
@[simp] theorem State.modHere_pairs : (s.modHere f).pairs = s.pairs := rfl
@[simp] theorem State.modHere_heartbeat : (s.modHere f).heartbeat = s.heartbeat := rfl
@[simp] theorem State.modHere_lastBeat : (s.modHere f).lastBeat = s.lastBeat := rfl
@[simp] theorem State.modHere_extents : (s.modHere f).extents = s.extents := rfl
@[simp] theorem State.modHere_worlds : (s.modHere f).worlds = s.worlds := rfl
@[simp] theorem State.modHere_tagRegions : (s.modHere f).tagRegions = s.tagRegions := rfl
@[simp] theorem State.modHere_versions : (s.modHere f).versions = s.versions := rfl
@[simp] theorem State.modHere_incoming : (s.modHere f).incoming = s.incoming := rfl
@[simp] theorem State.modHere_measures : (s.modHere f).measures = s.measures := rfl
@[simp] theorem State.modHere_identity : (s.modHere f).identity = s.identity := rfl
@[simp] theorem State.modHere_dies : (s.modHere f).dies = s.dies := rfl
@[simp] theorem State.modHere_health : (s.modHere f).health = s.health := rfl
@[simp] theorem State.modHere_cap : (s.modHere f).cap = s.cap := rfl
@[simp] theorem State.modHere_snap : (s.modHere f).snap = s.snap := rfl
@[simp] theorem State.modHere_snapRaised : (s.modHere f).snapRaised = s.snapRaised := rfl
@[simp] theorem State.modHere_replies : (s.modHere f).replies = s.replies := rfl
@[simp] theorem State.modHere_lastSweep : (s.modHere f).lastSweep = s.lastSweep := rfl
@[simp] theorem State.modHere_lastTick : (s.modHere f).lastTick = s.lastTick := rfl
@[simp] theorem State.modHere_stopped : (s.modHere f).stopped = s.stopped := rfl

@[simp] theorem State.modMe_cur : (s.modMe g).cur = s.cur := rfl
@[simp] theorem State.modMe_turns : (s.modMe g).turns = s.turns := rfl
@[simp] theorem State.modMe_turnCount : (s.modMe g).turnCount = s.turnCount := rfl
@[simp] theorem State.modMe_free : (s.modMe g).free = s.free := rfl
@[simp] theorem State.modMe_nextId : (s.modMe g).nextId = s.nextId := rfl
@[simp] theorem State.modMe_cycle : (s.modMe g).cycle = s.cycle := rfl
@[simp] theorem State.modMe_mem : (s.modMe g).mem = s.mem := rfl
@[simp] theorem State.modMe_poison : (s.modMe g).poison = s.poison := rfl
@[simp] theorem State.modMe_codeLog : (s.modMe g).codeLog = s.codeLog := rfl
@[simp] theorem State.modMe_nodes : (s.modMe g).nodes = s.nodes := rfl
@[simp] theorem State.modMe_heat : (s.modMe g).heat = s.heat := rfl
@[simp] theorem State.modMe_spaces : (s.modMe g).spaces = s.spaces := rfl
@[simp] theorem State.modMe_gens : (s.modMe g).gens = s.gens := rfl
@[simp] theorem State.modMe_mapq : (s.modMe g).mapq = s.mapq := rfl
@[simp] theorem State.modMe_withdrawals : (s.modMe g).withdrawals = s.withdrawals := rfl
@[simp] theorem State.modMe_foots : (s.modMe g).foots = s.foots := rfl
@[simp] theorem State.modMe_launches : (s.modMe g).launches = s.launches := rfl
@[simp] theorem State.modMe_queues : (s.modMe g).queues = s.queues := rfl
@[simp] theorem State.modMe_net : (s.modMe g).net = s.net := rfl
@[simp] theorem State.modMe_parkq : (s.modMe g).parkq = s.parkq := rfl
@[simp] theorem State.modMe_frames : (s.modMe g).frames = s.frames := rfl
@[simp] theorem State.modMe_parkFrames : (s.modMe g).parkFrames = s.parkFrames := rfl
@[simp] theorem State.modMe_steals : (s.modMe g).steals = s.steals := rfl
@[simp] theorem State.modMe_rcmds : (s.modMe g).rcmds = s.rcmds := rfl
@[simp] theorem State.modMe_hostUp : (s.modMe g).hostUp = s.hostUp := rfl
@[simp] theorem State.modMe_liveness : (s.modMe g).liveness = s.liveness := rfl
@[simp] theorem State.modMe_ports : (s.modMe g).ports = s.ports := rfl
@[simp] theorem State.modMe_mail : (s.modMe g).mail = s.mail := rfl
@[simp] theorem State.modMe_park : (s.modMe g).park = s.park := rfl
@[simp] theorem State.modMe_regions : (s.modMe g).regions = s.regions := rfl
@[simp] theorem State.modMe_lapsed : (s.modMe g).lapsed = s.lapsed := rfl
@[simp] theorem State.modMe_asks : (s.modMe g).asks = s.asks := rfl
@[simp] theorem State.modMe_bar2 : (s.modMe g).bar2 = s.bar2 := rfl
@[simp] theorem State.modMe_pairs : (s.modMe g).pairs = s.pairs := rfl
@[simp] theorem State.modMe_heartbeat : (s.modMe g).heartbeat = s.heartbeat := rfl
@[simp] theorem State.modMe_lastBeat : (s.modMe g).lastBeat = s.lastBeat := rfl
@[simp] theorem State.modMe_extents : (s.modMe g).extents = s.extents := rfl
@[simp] theorem State.modMe_worlds : (s.modMe g).worlds = s.worlds := rfl
@[simp] theorem State.modMe_tagRegions : (s.modMe g).tagRegions = s.tagRegions := rfl
@[simp] theorem State.modMe_versions : (s.modMe g).versions = s.versions := rfl
@[simp] theorem State.modMe_incoming : (s.modMe g).incoming = s.incoming := rfl
@[simp] theorem State.modMe_measures : (s.modMe g).measures = s.measures := rfl
@[simp] theorem State.modMe_identity : (s.modMe g).identity = s.identity := rfl
@[simp] theorem State.modMe_dies : (s.modMe g).dies = s.dies := rfl
@[simp] theorem State.modMe_health : (s.modMe g).health = s.health := rfl
@[simp] theorem State.modMe_cap : (s.modMe g).cap = s.cap := rfl
@[simp] theorem State.modMe_snap : (s.modMe g).snap = s.snap := rfl
@[simp] theorem State.modMe_snapRaised : (s.modMe g).snapRaised = s.snapRaised := rfl
@[simp] theorem State.modMe_replies : (s.modMe g).replies = s.replies := rfl
@[simp] theorem State.modMe_lastSweep : (s.modMe g).lastSweep = s.lastSweep := rfl
@[simp] theorem State.modMe_lastTick : (s.modMe g).lastTick = s.lastTick := rfl
@[simp] theorem State.modMe_stopped : (s.modMe g).stopped = s.stopped := rfl

@[simp] theorem State.setS_cur : (s.setS d v).cur = s.cur := rfl
@[simp] theorem State.setS_turns : (s.setS d v).turns = s.turns := rfl
@[simp] theorem State.setS_turnCount : (s.setS d v).turnCount = s.turnCount := rfl
@[simp] theorem State.setS_free : (s.setS d v).free = s.free := rfl
@[simp] theorem State.setS_nextId : (s.setS d v).nextId = s.nextId := rfl
@[simp] theorem State.setS_cycle : (s.setS d v).cycle = s.cycle := rfl
@[simp] theorem State.setS_mem : (s.setS d v).mem = s.mem := rfl
@[simp] theorem State.setS_poison : (s.setS d v).poison = s.poison := rfl
@[simp] theorem State.setS_codeLog : (s.setS d v).codeLog = s.codeLog := rfl
@[simp] theorem State.setS_nodes : (s.setS d v).nodes = s.nodes := rfl
@[simp] theorem State.setS_heat : (s.setS d v).heat = s.heat := rfl
@[simp] theorem State.setS_spaces : (s.setS d v).spaces = s.spaces := rfl
@[simp] theorem State.setS_gens : (s.setS d v).gens = s.gens := rfl
@[simp] theorem State.setS_mapq : (s.setS d v).mapq = s.mapq := rfl
@[simp] theorem State.setS_withdrawals : (s.setS d v).withdrawals = s.withdrawals := rfl
@[simp] theorem State.setS_foots : (s.setS d v).foots = s.foots := rfl
@[simp] theorem State.setS_launches : (s.setS d v).launches = s.launches := rfl
@[simp] theorem State.setS_queues : (s.setS d v).queues = s.queues := rfl
@[simp] theorem State.setS_net : (s.setS d v).net = s.net := rfl
@[simp] theorem State.setS_parkq : (s.setS d v).parkq = s.parkq := rfl
@[simp] theorem State.setS_frames : (s.setS d v).frames = s.frames := rfl
@[simp] theorem State.setS_parkFrames : (s.setS d v).parkFrames = s.parkFrames := rfl
@[simp] theorem State.setS_steals : (s.setS d v).steals = s.steals := rfl
@[simp] theorem State.setS_rcmds : (s.setS d v).rcmds = s.rcmds := rfl
@[simp] theorem State.setS_hostUp : (s.setS d v).hostUp = s.hostUp := rfl
@[simp] theorem State.setS_liveness : (s.setS d v).liveness = s.liveness := rfl
@[simp] theorem State.setS_ports : (s.setS d v).ports = s.ports := rfl
@[simp] theorem State.setS_mail : (s.setS d v).mail = s.mail := rfl
@[simp] theorem State.setS_park : (s.setS d v).park = s.park := rfl
@[simp] theorem State.setS_regions : (s.setS d v).regions = s.regions := rfl
@[simp] theorem State.setS_lapsed : (s.setS d v).lapsed = s.lapsed := rfl
@[simp] theorem State.setS_asks : (s.setS d v).asks = s.asks := rfl
@[simp] theorem State.setS_bar2 : (s.setS d v).bar2 = s.bar2 := rfl
@[simp] theorem State.setS_pairs : (s.setS d v).pairs = s.pairs := rfl
@[simp] theorem State.setS_heartbeat : (s.setS d v).heartbeat = s.heartbeat := rfl
@[simp] theorem State.setS_lastBeat : (s.setS d v).lastBeat = s.lastBeat := rfl
@[simp] theorem State.setS_extents : (s.setS d v).extents = s.extents := rfl
@[simp] theorem State.setS_worlds : (s.setS d v).worlds = s.worlds := rfl
@[simp] theorem State.setS_tagRegions : (s.setS d v).tagRegions = s.tagRegions := rfl
@[simp] theorem State.setS_versions : (s.setS d v).versions = s.versions := rfl
@[simp] theorem State.setS_incoming : (s.setS d v).incoming = s.incoming := rfl
@[simp] theorem State.setS_measures : (s.setS d v).measures = s.measures := rfl
@[simp] theorem State.setS_identity : (s.setS d v).identity = s.identity := rfl
@[simp] theorem State.setS_dies : (s.setS d v).dies = s.dies := rfl
@[simp] theorem State.setS_health : (s.setS d v).health = s.health := rfl
@[simp] theorem State.setS_cap : (s.setS d v).cap = s.cap := rfl
@[simp] theorem State.setS_snap : (s.setS d v).snap = s.snap := rfl
@[simp] theorem State.setS_snapRaised : (s.setS d v).snapRaised = s.snapRaised := rfl
@[simp] theorem State.setS_replies : (s.setS d v).replies = s.replies := rfl
@[simp] theorem State.setS_lastSweep : (s.setS d v).lastSweep = s.lastSweep := rfl
@[simp] theorem State.setS_lastTick : (s.setS d v).lastTick = s.lastTick := rfl
@[simp] theorem State.setS_stopped : (s.setS d v).stopped = s.stopped := rfl

@[simp] theorem State.setV_cur : (s.setV d5 w).cur = s.cur := rfl
@[simp] theorem State.setV_turns : (s.setV d5 w).turns = s.turns := rfl
@[simp] theorem State.setV_turnCount : (s.setV d5 w).turnCount = s.turnCount := rfl
@[simp] theorem State.setV_free : (s.setV d5 w).free = s.free := rfl
@[simp] theorem State.setV_nextId : (s.setV d5 w).nextId = s.nextId := rfl
@[simp] theorem State.setV_cycle : (s.setV d5 w).cycle = s.cycle := rfl
@[simp] theorem State.setV_mem : (s.setV d5 w).mem = s.mem := rfl
@[simp] theorem State.setV_poison : (s.setV d5 w).poison = s.poison := rfl
@[simp] theorem State.setV_codeLog : (s.setV d5 w).codeLog = s.codeLog := rfl
@[simp] theorem State.setV_nodes : (s.setV d5 w).nodes = s.nodes := rfl
@[simp] theorem State.setV_heat : (s.setV d5 w).heat = s.heat := rfl
@[simp] theorem State.setV_spaces : (s.setV d5 w).spaces = s.spaces := rfl
@[simp] theorem State.setV_gens : (s.setV d5 w).gens = s.gens := rfl
@[simp] theorem State.setV_mapq : (s.setV d5 w).mapq = s.mapq := rfl
@[simp] theorem State.setV_withdrawals : (s.setV d5 w).withdrawals = s.withdrawals := rfl
@[simp] theorem State.setV_foots : (s.setV d5 w).foots = s.foots := rfl
@[simp] theorem State.setV_launches : (s.setV d5 w).launches = s.launches := rfl
@[simp] theorem State.setV_queues : (s.setV d5 w).queues = s.queues := rfl
@[simp] theorem State.setV_net : (s.setV d5 w).net = s.net := rfl
@[simp] theorem State.setV_parkq : (s.setV d5 w).parkq = s.parkq := rfl
@[simp] theorem State.setV_frames : (s.setV d5 w).frames = s.frames := rfl
@[simp] theorem State.setV_parkFrames : (s.setV d5 w).parkFrames = s.parkFrames := rfl
@[simp] theorem State.setV_steals : (s.setV d5 w).steals = s.steals := rfl
@[simp] theorem State.setV_rcmds : (s.setV d5 w).rcmds = s.rcmds := rfl
@[simp] theorem State.setV_hostUp : (s.setV d5 w).hostUp = s.hostUp := rfl
@[simp] theorem State.setV_liveness : (s.setV d5 w).liveness = s.liveness := rfl
@[simp] theorem State.setV_ports : (s.setV d5 w).ports = s.ports := rfl
@[simp] theorem State.setV_mail : (s.setV d5 w).mail = s.mail := rfl
@[simp] theorem State.setV_park : (s.setV d5 w).park = s.park := rfl
@[simp] theorem State.setV_regions : (s.setV d5 w).regions = s.regions := rfl
@[simp] theorem State.setV_lapsed : (s.setV d5 w).lapsed = s.lapsed := rfl
@[simp] theorem State.setV_asks : (s.setV d5 w).asks = s.asks := rfl
@[simp] theorem State.setV_bar2 : (s.setV d5 w).bar2 = s.bar2 := rfl
@[simp] theorem State.setV_pairs : (s.setV d5 w).pairs = s.pairs := rfl
@[simp] theorem State.setV_heartbeat : (s.setV d5 w).heartbeat = s.heartbeat := rfl
@[simp] theorem State.setV_lastBeat : (s.setV d5 w).lastBeat = s.lastBeat := rfl
@[simp] theorem State.setV_extents : (s.setV d5 w).extents = s.extents := rfl
@[simp] theorem State.setV_worlds : (s.setV d5 w).worlds = s.worlds := rfl
@[simp] theorem State.setV_tagRegions : (s.setV d5 w).tagRegions = s.tagRegions := rfl
@[simp] theorem State.setV_versions : (s.setV d5 w).versions = s.versions := rfl
@[simp] theorem State.setV_incoming : (s.setV d5 w).incoming = s.incoming := rfl
@[simp] theorem State.setV_measures : (s.setV d5 w).measures = s.measures := rfl
@[simp] theorem State.setV_identity : (s.setV d5 w).identity = s.identity := rfl
@[simp] theorem State.setV_dies : (s.setV d5 w).dies = s.dies := rfl
@[simp] theorem State.setV_health : (s.setV d5 w).health = s.health := rfl
@[simp] theorem State.setV_cap : (s.setV d5 w).cap = s.cap := rfl
@[simp] theorem State.setV_snap : (s.setV d5 w).snap = s.snap := rfl
@[simp] theorem State.setV_snapRaised : (s.setV d5 w).snapRaised = s.snapRaised := rfl
@[simp] theorem State.setV_replies : (s.setV d5 w).replies = s.replies := rfl
@[simp] theorem State.setV_lastSweep : (s.setV d5 w).lastSweep = s.lastSweep := rfl
@[simp] theorem State.setV_lastTick : (s.setV d5 w).lastTick = s.lastTick := rfl
@[simp] theorem State.setV_stopped : (s.setV d5 w).stopped = s.stopped := rfl

@[simp] theorem State.setP_cur : (s.setP d3 q).cur = s.cur := rfl
@[simp] theorem State.setP_turns : (s.setP d3 q).turns = s.turns := rfl
@[simp] theorem State.setP_turnCount : (s.setP d3 q).turnCount = s.turnCount := rfl
@[simp] theorem State.setP_free : (s.setP d3 q).free = s.free := rfl
@[simp] theorem State.setP_nextId : (s.setP d3 q).nextId = s.nextId := rfl
@[simp] theorem State.setP_cycle : (s.setP d3 q).cycle = s.cycle := rfl
@[simp] theorem State.setP_mem : (s.setP d3 q).mem = s.mem := rfl
@[simp] theorem State.setP_poison : (s.setP d3 q).poison = s.poison := rfl
@[simp] theorem State.setP_codeLog : (s.setP d3 q).codeLog = s.codeLog := rfl
@[simp] theorem State.setP_nodes : (s.setP d3 q).nodes = s.nodes := rfl
@[simp] theorem State.setP_heat : (s.setP d3 q).heat = s.heat := rfl
@[simp] theorem State.setP_spaces : (s.setP d3 q).spaces = s.spaces := rfl
@[simp] theorem State.setP_gens : (s.setP d3 q).gens = s.gens := rfl
@[simp] theorem State.setP_mapq : (s.setP d3 q).mapq = s.mapq := rfl
@[simp] theorem State.setP_withdrawals : (s.setP d3 q).withdrawals = s.withdrawals := rfl
@[simp] theorem State.setP_foots : (s.setP d3 q).foots = s.foots := rfl
@[simp] theorem State.setP_launches : (s.setP d3 q).launches = s.launches := rfl
@[simp] theorem State.setP_queues : (s.setP d3 q).queues = s.queues := rfl
@[simp] theorem State.setP_net : (s.setP d3 q).net = s.net := rfl
@[simp] theorem State.setP_parkq : (s.setP d3 q).parkq = s.parkq := rfl
@[simp] theorem State.setP_frames : (s.setP d3 q).frames = s.frames := rfl
@[simp] theorem State.setP_parkFrames : (s.setP d3 q).parkFrames = s.parkFrames := rfl
@[simp] theorem State.setP_steals : (s.setP d3 q).steals = s.steals := rfl
@[simp] theorem State.setP_rcmds : (s.setP d3 q).rcmds = s.rcmds := rfl
@[simp] theorem State.setP_hostUp : (s.setP d3 q).hostUp = s.hostUp := rfl
@[simp] theorem State.setP_liveness : (s.setP d3 q).liveness = s.liveness := rfl
@[simp] theorem State.setP_ports : (s.setP d3 q).ports = s.ports := rfl
@[simp] theorem State.setP_mail : (s.setP d3 q).mail = s.mail := rfl
@[simp] theorem State.setP_park : (s.setP d3 q).park = s.park := rfl
@[simp] theorem State.setP_regions : (s.setP d3 q).regions = s.regions := rfl
@[simp] theorem State.setP_lapsed : (s.setP d3 q).lapsed = s.lapsed := rfl
@[simp] theorem State.setP_asks : (s.setP d3 q).asks = s.asks := rfl
@[simp] theorem State.setP_bar2 : (s.setP d3 q).bar2 = s.bar2 := rfl
@[simp] theorem State.setP_pairs : (s.setP d3 q).pairs = s.pairs := rfl
@[simp] theorem State.setP_heartbeat : (s.setP d3 q).heartbeat = s.heartbeat := rfl
@[simp] theorem State.setP_lastBeat : (s.setP d3 q).lastBeat = s.lastBeat := rfl
@[simp] theorem State.setP_extents : (s.setP d3 q).extents = s.extents := rfl
@[simp] theorem State.setP_worlds : (s.setP d3 q).worlds = s.worlds := rfl
@[simp] theorem State.setP_tagRegions : (s.setP d3 q).tagRegions = s.tagRegions := rfl
@[simp] theorem State.setP_versions : (s.setP d3 q).versions = s.versions := rfl
@[simp] theorem State.setP_incoming : (s.setP d3 q).incoming = s.incoming := rfl
@[simp] theorem State.setP_measures : (s.setP d3 q).measures = s.measures := rfl
@[simp] theorem State.setP_identity : (s.setP d3 q).identity = s.identity := rfl
@[simp] theorem State.setP_dies : (s.setP d3 q).dies = s.dies := rfl
@[simp] theorem State.setP_health : (s.setP d3 q).health = s.health := rfl
@[simp] theorem State.setP_cap : (s.setP d3 q).cap = s.cap := rfl
@[simp] theorem State.setP_snap : (s.setP d3 q).snap = s.snap := rfl
@[simp] theorem State.setP_snapRaised : (s.setP d3 q).snapRaised = s.snapRaised := rfl
@[simp] theorem State.setP_replies : (s.setP d3 q).replies = s.replies := rfl
@[simp] theorem State.setP_lastSweep : (s.setP d3 q).lastSweep = s.lastSweep := rfl
@[simp] theorem State.setP_lastTick : (s.setP d3 q).lastTick = s.lastTick := rfl
@[simp] theorem State.setP_stopped : (s.setP d3 q).stopped = s.stopped := rfl

@[simp] theorem State.bumpId_bricks : s.bumpId.bricks = s.bricks := rfl
@[simp] theorem State.bumpId_cur : s.bumpId.cur = s.cur := rfl
@[simp] theorem State.bumpId_turns : s.bumpId.turns = s.turns := rfl
@[simp] theorem State.bumpId_turnCount : s.bumpId.turnCount = s.turnCount := rfl
@[simp] theorem State.bumpId_free : s.bumpId.free = s.free := rfl
@[simp] theorem State.bumpId_cycle : s.bumpId.cycle = s.cycle := rfl
@[simp] theorem State.bumpId_mem : s.bumpId.mem = s.mem := rfl
@[simp] theorem State.bumpId_poison : s.bumpId.poison = s.poison := rfl
@[simp] theorem State.bumpId_codeLog : s.bumpId.codeLog = s.codeLog := rfl
@[simp] theorem State.bumpId_nodes : s.bumpId.nodes = s.nodes := rfl
@[simp] theorem State.bumpId_heat : s.bumpId.heat = s.heat := rfl
@[simp] theorem State.bumpId_spaces : s.bumpId.spaces = s.spaces := rfl
@[simp] theorem State.bumpId_gens : s.bumpId.gens = s.gens := rfl
@[simp] theorem State.bumpId_mapq : s.bumpId.mapq = s.mapq := rfl
@[simp] theorem State.bumpId_withdrawals : s.bumpId.withdrawals = s.withdrawals := rfl
@[simp] theorem State.bumpId_foots : s.bumpId.foots = s.foots := rfl
@[simp] theorem State.bumpId_launches : s.bumpId.launches = s.launches := rfl
@[simp] theorem State.bumpId_queues : s.bumpId.queues = s.queues := rfl
@[simp] theorem State.bumpId_net : s.bumpId.net = s.net := rfl
@[simp] theorem State.bumpId_parkq : s.bumpId.parkq = s.parkq := rfl
@[simp] theorem State.bumpId_frames : s.bumpId.frames = s.frames := rfl
@[simp] theorem State.bumpId_parkFrames : s.bumpId.parkFrames = s.parkFrames := rfl
@[simp] theorem State.bumpId_steals : s.bumpId.steals = s.steals := rfl
@[simp] theorem State.bumpId_rcmds : s.bumpId.rcmds = s.rcmds := rfl
@[simp] theorem State.bumpId_hostUp : s.bumpId.hostUp = s.hostUp := rfl
@[simp] theorem State.bumpId_liveness : s.bumpId.liveness = s.liveness := rfl
@[simp] theorem State.bumpId_ports : s.bumpId.ports = s.ports := rfl
@[simp] theorem State.bumpId_mail : s.bumpId.mail = s.mail := rfl
@[simp] theorem State.bumpId_park : s.bumpId.park = s.park := rfl
@[simp] theorem State.bumpId_regions : s.bumpId.regions = s.regions := rfl
@[simp] theorem State.bumpId_lapsed : s.bumpId.lapsed = s.lapsed := rfl
@[simp] theorem State.bumpId_asks : s.bumpId.asks = s.asks := rfl
@[simp] theorem State.bumpId_bar2 : s.bumpId.bar2 = s.bar2 := rfl
@[simp] theorem State.bumpId_pairs : s.bumpId.pairs = s.pairs := rfl
@[simp] theorem State.bumpId_heartbeat : s.bumpId.heartbeat = s.heartbeat := rfl
@[simp] theorem State.bumpId_lastBeat : s.bumpId.lastBeat = s.lastBeat := rfl
@[simp] theorem State.bumpId_extents : s.bumpId.extents = s.extents := rfl
@[simp] theorem State.bumpId_worlds : s.bumpId.worlds = s.worlds := rfl
@[simp] theorem State.bumpId_tagRegions : s.bumpId.tagRegions = s.tagRegions := rfl
@[simp] theorem State.bumpId_versions : s.bumpId.versions = s.versions := rfl
@[simp] theorem State.bumpId_incoming : s.bumpId.incoming = s.incoming := rfl
@[simp] theorem State.bumpId_measures : s.bumpId.measures = s.measures := rfl
@[simp] theorem State.bumpId_identity : s.bumpId.identity = s.identity := rfl
@[simp] theorem State.bumpId_dies : s.bumpId.dies = s.dies := rfl
@[simp] theorem State.bumpId_health : s.bumpId.health = s.health := rfl
@[simp] theorem State.bumpId_cap : s.bumpId.cap = s.cap := rfl
@[simp] theorem State.bumpId_snap : s.bumpId.snap = s.snap := rfl
@[simp] theorem State.bumpId_snapRaised : s.bumpId.snapRaised = s.snapRaised := rfl
@[simp] theorem State.bumpId_replies : s.bumpId.replies = s.replies := rfl
@[simp] theorem State.bumpId_lastSweep : s.bumpId.lastSweep = s.lastSweep := rfl
@[simp] theorem State.bumpId_lastTick : s.bumpId.lastTick = s.lastTick := rfl
@[simp] theorem State.bumpId_stopped : s.bumpId.stopped = s.stopped := rfl

@[simp] theorem State.bumpFree_bricks : s.bumpFree.bricks = s.bricks := rfl
@[simp] theorem State.bumpFree_cur : s.bumpFree.cur = s.cur := rfl
@[simp] theorem State.bumpFree_turns : s.bumpFree.turns = s.turns := rfl
@[simp] theorem State.bumpFree_turnCount : s.bumpFree.turnCount = s.turnCount := rfl
@[simp] theorem State.bumpFree_nextId : s.bumpFree.nextId = s.nextId := rfl
@[simp] theorem State.bumpFree_cycle : s.bumpFree.cycle = s.cycle := rfl
@[simp] theorem State.bumpFree_mem : s.bumpFree.mem = s.mem := rfl
@[simp] theorem State.bumpFree_poison : s.bumpFree.poison = s.poison := rfl
@[simp] theorem State.bumpFree_codeLog : s.bumpFree.codeLog = s.codeLog := rfl
@[simp] theorem State.bumpFree_nodes : s.bumpFree.nodes = s.nodes := rfl
@[simp] theorem State.bumpFree_heat : s.bumpFree.heat = s.heat := rfl
@[simp] theorem State.bumpFree_spaces : s.bumpFree.spaces = s.spaces := rfl
@[simp] theorem State.bumpFree_gens : s.bumpFree.gens = s.gens := rfl
@[simp] theorem State.bumpFree_mapq : s.bumpFree.mapq = s.mapq := rfl
@[simp] theorem State.bumpFree_withdrawals : s.bumpFree.withdrawals = s.withdrawals := rfl
@[simp] theorem State.bumpFree_foots : s.bumpFree.foots = s.foots := rfl
@[simp] theorem State.bumpFree_launches : s.bumpFree.launches = s.launches := rfl
@[simp] theorem State.bumpFree_queues : s.bumpFree.queues = s.queues := rfl
@[simp] theorem State.bumpFree_net : s.bumpFree.net = s.net := rfl
@[simp] theorem State.bumpFree_parkq : s.bumpFree.parkq = s.parkq := rfl
@[simp] theorem State.bumpFree_frames : s.bumpFree.frames = s.frames := rfl
@[simp] theorem State.bumpFree_parkFrames : s.bumpFree.parkFrames = s.parkFrames := rfl
@[simp] theorem State.bumpFree_steals : s.bumpFree.steals = s.steals := rfl
@[simp] theorem State.bumpFree_rcmds : s.bumpFree.rcmds = s.rcmds := rfl
@[simp] theorem State.bumpFree_hostUp : s.bumpFree.hostUp = s.hostUp := rfl
@[simp] theorem State.bumpFree_liveness : s.bumpFree.liveness = s.liveness := rfl
@[simp] theorem State.bumpFree_ports : s.bumpFree.ports = s.ports := rfl
@[simp] theorem State.bumpFree_mail : s.bumpFree.mail = s.mail := rfl
@[simp] theorem State.bumpFree_park : s.bumpFree.park = s.park := rfl
@[simp] theorem State.bumpFree_regions : s.bumpFree.regions = s.regions := rfl
@[simp] theorem State.bumpFree_lapsed : s.bumpFree.lapsed = s.lapsed := rfl
@[simp] theorem State.bumpFree_asks : s.bumpFree.asks = s.asks := rfl
@[simp] theorem State.bumpFree_bar2 : s.bumpFree.bar2 = s.bar2 := rfl
@[simp] theorem State.bumpFree_pairs : s.bumpFree.pairs = s.pairs := rfl
@[simp] theorem State.bumpFree_heartbeat : s.bumpFree.heartbeat = s.heartbeat := rfl
@[simp] theorem State.bumpFree_lastBeat : s.bumpFree.lastBeat = s.lastBeat := rfl
@[simp] theorem State.bumpFree_extents : s.bumpFree.extents = s.extents := rfl
@[simp] theorem State.bumpFree_worlds : s.bumpFree.worlds = s.worlds := rfl
@[simp] theorem State.bumpFree_tagRegions : s.bumpFree.tagRegions = s.tagRegions := rfl
@[simp] theorem State.bumpFree_versions : s.bumpFree.versions = s.versions := rfl
@[simp] theorem State.bumpFree_incoming : s.bumpFree.incoming = s.incoming := rfl
@[simp] theorem State.bumpFree_measures : s.bumpFree.measures = s.measures := rfl
@[simp] theorem State.bumpFree_identity : s.bumpFree.identity = s.identity := rfl
@[simp] theorem State.bumpFree_dies : s.bumpFree.dies = s.dies := rfl
@[simp] theorem State.bumpFree_health : s.bumpFree.health = s.health := rfl
@[simp] theorem State.bumpFree_cap : s.bumpFree.cap = s.cap := rfl
@[simp] theorem State.bumpFree_snap : s.bumpFree.snap = s.snap := rfl
@[simp] theorem State.bumpFree_snapRaised : s.bumpFree.snapRaised = s.snapRaised := rfl
@[simp] theorem State.bumpFree_replies : s.bumpFree.replies = s.replies := rfl
@[simp] theorem State.bumpFree_lastSweep : s.bumpFree.lastSweep = s.lastSweep := rfl
@[simp] theorem State.bumpFree_lastTick : s.bumpFree.lastTick = s.lastTick := rfl
@[simp] theorem State.bumpFree_stopped : s.bumpFree.stopped = s.stopped := rfl
@[simp] theorem State.bumpId_nextId : s.bumpId.nextId = s.nextId + 1 := rfl
@[simp] theorem State.bumpFree_free : s.bumpFree.free = s.free + 1 := rfl
@[simp] theorem State.bumpId_brick : s.bumpId.brick b = s.brick b := rfl
@[simp] theorem State.bumpFree_brick : s.bumpFree.brick b = s.brick b := rfl
@[simp] theorem State.bumpId_strand : s.bumpId.strand b k = s.strand b k := rfl
@[simp] theorem State.bumpFree_strand : s.bumpFree.strand b k = s.strand b k := rfl
@[simp] theorem State.bumpId_me : s.bumpId.me = s.me := rfl
@[simp] theorem State.bumpFree_me : s.bumpFree.me = s.me := rfl
@[simp] theorem State.bumpId_here : s.bumpId.here = s.here := rfl
@[simp] theorem State.bumpFree_here : s.bumpFree.here = s.here := rfl
end

/-! Bricks and strands read back. -/

section
variable (s : State) (b c : Nat) (j k : Fin 5) (x : Brick) (f : Brick → Brick) (g : Strand → Strand)

@[simp] theorem State.brick_putBrick_same : (s.putBrick b x).brick b = x := by
  simp [State.brick, State.putBrick, findKey_putKey_same]
theorem State.brick_putBrick_ne (h : c ≠ b) : (s.putBrick b x).brick c = s.brick c := by
  simp [State.brick, State.putBrick, findKey_putKey_ne h]
@[simp] theorem State.brick_modBrick_same : (s.modBrick b f).brick b = f (s.brick b) := s.brick_putBrick_same b _
theorem State.brick_modBrick_ne (h : c ≠ b) : (s.modBrick b f).brick c = s.brick c := s.brick_putBrick_ne b c _ h
@[simp] theorem State.here_modHere : (s.modHere f).here = f s.here := s.brick_modBrick_same s.cur.1 f

@[simp] theorem Brick.strand_modStrand_same : (x.modStrand k g).strand k = g (x.strand k) := by
  simp [Brick.strand, Brick.modStrand, get_set_same]
theorem Brick.strand_modStrand_ne (h : j ≠ k) : (x.modStrand k g).strand j = x.strand j := by
  simp [Brick.strand, Brick.modStrand, get_set_ne _ _ h]

@[simp] theorem State.strand_modStrand_same : (s.modStrand b k g).strand b k = g (s.strand b k) := by
  simp [State.strand, State.modStrand]
theorem State.strand_modStrand_ne (h : ¬(c = b ∧ j = k)) : (s.modStrand b k g).strand c j = s.strand c j := by
  by_cases hc : c = b
  · subst hc; simp [State.strand, State.modStrand, Brick.strand_modStrand_ne _ _ _ _ fun e => h ⟨rfl, e⟩]
  · simp [State.strand, State.modStrand, State.brick_modBrick_ne _ _ _ _ hc]
theorem State.brick_modStrand_ne (h : c ≠ b) : (s.modStrand b k g).brick c = s.brick c := s.brick_modBrick_ne b c _ h
@[simp] theorem State.brick_modStrand_same : (s.modStrand b k g).brick b = (s.brick b).modStrand k g := s.brick_modBrick_same b _
@[simp] theorem State.me_modMe : (s.modMe g).me = g s.me := s.strand_modStrand_same s.cur.1 s.cur.2 g
@[simp] theorem State.here_modMe : (s.modMe g).here = s.here.modStrand s.cur.2 g := s.brick_modBrick_same s.cur.1 _
theorem State.strand_modMe_ne (h : (c, j) ≠ s.cur) : (s.modMe g).strand c j = s.strand c j :=
  s.strand_modStrand_ne _ _ _ _ _ fun e => h (Prod.ext e.1 e.2)
@[simp] theorem State.me_modHere_of (h : ∀ x : Brick, (f x).strands = x.strands) : (s.modHere f).me = s.me := by
  simp [State.me, State.strand, State.modHere, Brick.strand, h]

/-- Two changes of one strand are one. -/
theorem State.modMe_modMe (g' : Strand → Strand) : (s.modMe g).modMe g' = s.modMe fun x => g' (g x) := by
  simp [State.modMe, State.modStrand, State.modBrick, State.putBrick, State.brick, findKey_putKey_same, putKey_putKey,
    Brick.modStrand, Brick.strand, get_set_same]

end

/-! The fields of a brick when one of its strands changes. -/

section
variable (x : Brick) (k : Fin 5) (g : Strand → Strand)

@[simp] theorem Brick.modStrand_disabled : (x.modStrand k g).disabled = x.disabled := rfl
@[simp] theorem Brick.modStrand_retiring : (x.modStrand k g).retiring = x.retiring := rfl
@[simp] theorem Brick.modStrand_gated : (x.modStrand k g).gated = x.gated := rfl
@[simp] theorem Brick.modStrand_acc : (x.modStrand k g).acc = x.acc := rfl
@[simp] theorem Brick.modStrand_accown : (x.modStrand k g).accown = x.accown := rfl
@[simp] theorem Brick.modStrand_ownSave : (x.modStrand k g).ownSave = x.ownSave := rfl
@[simp] theorem Brick.modStrand_ownPending : (x.modStrand k g).ownPending = x.ownPending := rfl
@[simp] theorem Brick.modStrand_deque : (x.modStrand k g).deque = x.deque := rfl
@[simp] theorem Brick.modStrand_deqVer : (x.modStrand k g).deqVer = x.deqVer := rfl
@[simp] theorem Brick.modStrand_tasks : (x.modStrand k g).tasks = x.tasks := rfl
@[simp] theorem Brick.modStrand_ready : (x.modStrand k g).ready = x.ready := rfl
@[simp] theorem Brick.modStrand_away : (x.modStrand k g).away = x.away := rfl
@[simp] theorem Brick.modStrand_kept : (x.modStrand k g).kept = x.kept := rfl
@[simp] theorem Brick.modStrand_frames : (x.modStrand k g).frames = x.frames := rfl
@[simp] theorem Brick.modStrand_inbox : (x.modStrand k g).inbox = x.inbox := rfl
@[simp] theorem Brick.modStrand_heap : (x.modStrand k g).heap = x.heap := rfl
@[simp] theorem Brick.modStrand_handler : (x.modStrand k g).handler = x.handler := rfl
@[simp] theorem Brick.modStrand_rrb : (x.modStrand k g).rrb = x.rrb := rfl
@[simp] theorem Brick.modStrand_rrbCuts : (x.modStrand k g).rrbCuts = x.rrbCuts := rfl
@[simp] theorem Brick.modStrand_entries : (x.modStrand k g).entries = x.entries := rfl
@[simp] theorem Brick.modStrand_epoch : (x.modStrand k g).epoch = x.epoch := rfl
@[simp] theorem Brick.modStrand_taken : (x.modStrand k g).taken = x.taken := rfl
@[simp] theorem Brick.modStrand_acked : (x.modStrand k g).acked = x.acked := rfl
@[simp] theorem Brick.modStrand_flights : (x.modStrand k g).flights = x.flights := rfl
@[simp] theorem Brick.modStrand_matq : (x.modStrand k g).matq = x.matq := rfl
@[simp] theorem Brick.modStrand_panels : (x.modStrand k g).panels = x.panels := rfl
@[simp] theorem Brick.modStrand_slots : (x.modStrand k g).slots = x.slots := rfl
@[simp] theorem Brick.modStrand_chans : (x.modStrand k g).chans = x.chans := rfl
@[simp] theorem Brick.modStrand_tcache : (x.modStrand k g).tcache = x.tcache := rfl
@[simp] theorem Brick.modStrand_fences : (x.modStrand k g).fences = x.fences := rfl
@[simp] theorem Brick.modStrand_chains : (x.modStrand k g).chains = x.chains := rfl
@[simp] theorem Brick.modStrand_switches : (x.modStrand k g).switches = x.switches := rfl
@[simp] theorem Brick.modStrand_switchWait : (x.modStrand k g).switchWait = x.switchWait := rfl
@[simp] theorem Brick.modStrand_held : (x.modStrand k g).held = x.held := rfl
@[simp] theorem Brick.modStrand_launch : (x.modStrand k g).launch = x.launch := rfl
@[simp] theorem Brick.modStrand_c : (x.modStrand k g).c = x.c := rfl
@[simp] theorem Brick.modStrand_coursewin : (x.modStrand k g).coursewin = x.coursewin := rfl
@[simp] theorem Brick.modStrand_courseorg : (x.modStrand k g).courseorg = x.courseorg := rfl
@[simp] theorem Brick.modStrand_courseshape : (x.modStrand k g).courseshape = x.courseshape := rfl
@[simp] theorem Brick.modStrand_footmask : (x.modStrand k g).footmask = x.footmask := rfl
@[simp] theorem Brick.modStrand_trace : (x.modStrand k g).trace = x.trace := rfl
@[simp] theorem Brick.modStrand_trctl : (x.modStrand k g).trctl = x.trctl := rfl
@[simp] theorem Brick.modStrand_trmatch : (x.modStrand k g).trmatch = x.trmatch := rfl
@[simp] theorem Brick.modStrand_dbg : (x.modStrand k g).dbg = x.dbg := rfl
@[simp] theorem Brick.modStrand_stuck : (x.modStrand k g).stuck = x.stuck := rfl
end

/-! The fields of a strand when one of its registers changes. -/

section
variable (x : Strand) (d e : BitVec 4) (d5 e5 : BitVec 5) (d3 e3 : BitVec 3) (v : Word) (w : VReg) (q : PReg)

@[simp] theorem Strand.setS_pc : (x.setS d v).pc = x.pc := rfl
@[simp] theorem Strand.setS_v : (x.setS d v).v = x.v := rfl
@[simp] theorem Strand.setS_p : (x.setS d v).p = x.p := rfl
@[simp] theorem Strand.setS_mode : (x.setS d v).mode = x.mode := rfl
@[simp] theorem Strand.setS_rm : (x.setS d v).rm = x.rm := rfl
@[simp] theorem Strand.setS_fpstat : (x.setS d v).fpstat = x.fpstat := rfl
@[simp] theorem Strand.setS_bindtab : (x.setS d v).bindtab = x.bindtab := rfl
@[simp] theorem Strand.setS_binds : (x.setS d v).binds = x.binds := rfl
@[simp] theorem Strand.setS_bufbase : (x.setS d v).bufbase = x.bufbase := rfl
@[simp] theorem Strand.setS_unacked : (x.setS d v).unacked = x.unacked := rfl
@[simp] theorem Strand.setS_deadline : (x.setS d v).deadline = x.deadline := rfl
@[simp] theorem Strand.setS_yieldPend : (x.setS d v).yieldPend = x.yieldPend := rfl
@[simp] theorem Strand.setS_yieldLeft : (x.setS d v).yieldLeft = x.yieldLeft := rfl
@[simp] theorem Strand.setS_wdLog2 : (x.setS d v).wdLog2 = x.wdLog2 := rfl
@[simp] theorem Strand.setS_wdCount : (x.setS d v).wdCount = x.wdCount := rfl
@[simp] theorem Strand.setS_trapvec : (x.setS d v).trapvec = x.trapvec := rfl
@[simp] theorem Strand.setS_trappc : (x.setS d v).trappc = x.trappc := rfl
@[simp] theorem Strand.setS_trapcause : (x.setS d v).trapcause = x.trapcause := rfl
@[simp] theorem Strand.setS_fltseq : (x.setS d v).fltseq = x.fltseq := rfl
@[simp] theorem Strand.setS_seqNext : (x.setS d v).seqNext = x.seqNext := rfl
@[simp] theorem Strand.setS_ring : (x.setS d v).ring = x.ring := rfl
@[simp] theorem Strand.setS_ctxid : (x.setS d v).ctxid = x.ctxid := rfl
@[simp] theorem Strand.setS_savearea : (x.setS d v).savearea = x.savearea := rfl
@[simp] theorem Strand.setS_space : (x.setS d v).space = x.space := rfl
@[simp] theorem Strand.setS_task : (x.setS d v).task = x.task := rfl
@[simp] theorem Strand.setS_ops : (x.setS d v).ops = x.ops := rfl
@[simp] theorem Strand.setS_hints : (x.setS d v).hints = x.hints := rfl
@[simp] theorem Strand.setS_block : (x.setS d v).block = x.block := rfl
@[simp] theorem Strand.setS_since : (x.setS d v).since = x.since := rfl
@[simp] theorem Strand.setS_answers : (x.setS d v).answers = x.answers := rfl
@[simp] theorem Strand.setS_phase : (x.setS d v).phase = x.phase := rfl
@[simp] theorem Strand.setS_halted : (x.setS d v).halted = x.halted := rfl
@[simp] theorem Strand.setS_stopReq : (x.setS d v).stopReq = x.stopReq := rfl
@[simp] theorem Strand.setS_pause : (x.setS d v).pause = x.pause := rfl
@[simp] theorem Strand.setS_lates : (x.setS d v).lates = x.lates := rfl
@[simp] theorem Strand.setS_wdDue : (x.setS d v).wdDue = x.wdDue := rfl
@[simp] theorem Strand.setS_saveDue : (x.setS d v).saveDue = x.saveDue := rfl
@[simp] theorem Strand.setS_fx : (x.setS d v).fx = x.fx := rfl
@[simp] theorem Strand.setS_issued : (x.setS d v).issued = x.issued := rfl
@[simp] theorem Strand.setS_fetchAll : (x.setS d v).fetchAll = x.fetchAll := rfl
@[simp] theorem Strand.setS_fetchOwn : (x.setS d v).fetchOwn = x.fetchOwn := rfl
@[simp] theorem Strand.setS_steal : (x.setS d v).steal = x.steal := rfl
@[simp] theorem Strand.setS_lastSpace : (x.setS d v).lastSpace = x.lastSpace := rfl
@[simp] theorem Strand.setS_handlerCount : (x.setS d v).handlerCount = x.handlerCount := rfl
@[simp] theorem Strand.setS_saveTok : (x.setS d v).saveTok = x.saveTok := rfl
@[simp] theorem Strand.setS_restore : (x.setS d v).restore = x.restore := rfl
@[simp] theorem Strand.setS_kill : (x.setS d v).kill = x.kill := rfl
@[simp] theorem Strand.setS_trapDue : (x.setS d v).trapDue = x.trapDue := rfl
@[simp] theorem Strand.setS_lapse : (x.setS d v).lapse = x.lapse := rfl
@[simp] theorem Strand.setV_pc : (x.setV d5 w).pc = x.pc := rfl
@[simp] theorem Strand.setV_s : (x.setV d5 w).s = x.s := rfl
@[simp] theorem Strand.setV_p : (x.setV d5 w).p = x.p := rfl
@[simp] theorem Strand.setV_mode : (x.setV d5 w).mode = x.mode := rfl
@[simp] theorem Strand.setV_rm : (x.setV d5 w).rm = x.rm := rfl
@[simp] theorem Strand.setV_fpstat : (x.setV d5 w).fpstat = x.fpstat := rfl
@[simp] theorem Strand.setV_bindtab : (x.setV d5 w).bindtab = x.bindtab := rfl
@[simp] theorem Strand.setV_binds : (x.setV d5 w).binds = x.binds := rfl
@[simp] theorem Strand.setV_bufbase : (x.setV d5 w).bufbase = x.bufbase := rfl
@[simp] theorem Strand.setV_unacked : (x.setV d5 w).unacked = x.unacked := rfl
@[simp] theorem Strand.setV_deadline : (x.setV d5 w).deadline = x.deadline := rfl
@[simp] theorem Strand.setV_yieldPend : (x.setV d5 w).yieldPend = x.yieldPend := rfl
@[simp] theorem Strand.setV_yieldLeft : (x.setV d5 w).yieldLeft = x.yieldLeft := rfl
@[simp] theorem Strand.setV_wdLog2 : (x.setV d5 w).wdLog2 = x.wdLog2 := rfl
@[simp] theorem Strand.setV_wdCount : (x.setV d5 w).wdCount = x.wdCount := rfl
@[simp] theorem Strand.setV_trapvec : (x.setV d5 w).trapvec = x.trapvec := rfl
@[simp] theorem Strand.setV_trappc : (x.setV d5 w).trappc = x.trappc := rfl
@[simp] theorem Strand.setV_trapcause : (x.setV d5 w).trapcause = x.trapcause := rfl
@[simp] theorem Strand.setV_fltseq : (x.setV d5 w).fltseq = x.fltseq := rfl
@[simp] theorem Strand.setV_seqNext : (x.setV d5 w).seqNext = x.seqNext := rfl
@[simp] theorem Strand.setV_ring : (x.setV d5 w).ring = x.ring := rfl
@[simp] theorem Strand.setV_ctxid : (x.setV d5 w).ctxid = x.ctxid := rfl
@[simp] theorem Strand.setV_savearea : (x.setV d5 w).savearea = x.savearea := rfl
@[simp] theorem Strand.setV_space : (x.setV d5 w).space = x.space := rfl
@[simp] theorem Strand.setV_task : (x.setV d5 w).task = x.task := rfl
@[simp] theorem Strand.setV_ops : (x.setV d5 w).ops = x.ops := rfl
@[simp] theorem Strand.setV_hints : (x.setV d5 w).hints = x.hints := rfl
@[simp] theorem Strand.setV_block : (x.setV d5 w).block = x.block := rfl
@[simp] theorem Strand.setV_since : (x.setV d5 w).since = x.since := rfl
@[simp] theorem Strand.setV_answers : (x.setV d5 w).answers = x.answers := rfl
@[simp] theorem Strand.setV_phase : (x.setV d5 w).phase = x.phase := rfl
@[simp] theorem Strand.setV_halted : (x.setV d5 w).halted = x.halted := rfl
@[simp] theorem Strand.setV_stopReq : (x.setV d5 w).stopReq = x.stopReq := rfl
@[simp] theorem Strand.setV_pause : (x.setV d5 w).pause = x.pause := rfl
@[simp] theorem Strand.setV_lates : (x.setV d5 w).lates = x.lates := rfl
@[simp] theorem Strand.setV_wdDue : (x.setV d5 w).wdDue = x.wdDue := rfl
@[simp] theorem Strand.setV_saveDue : (x.setV d5 w).saveDue = x.saveDue := rfl
@[simp] theorem Strand.setV_fx : (x.setV d5 w).fx = x.fx := rfl
@[simp] theorem Strand.setV_issued : (x.setV d5 w).issued = x.issued := rfl
@[simp] theorem Strand.setV_fetchAll : (x.setV d5 w).fetchAll = x.fetchAll := rfl
@[simp] theorem Strand.setV_fetchOwn : (x.setV d5 w).fetchOwn = x.fetchOwn := rfl
@[simp] theorem Strand.setV_steal : (x.setV d5 w).steal = x.steal := rfl
@[simp] theorem Strand.setV_lastSpace : (x.setV d5 w).lastSpace = x.lastSpace := rfl
@[simp] theorem Strand.setV_handlerCount : (x.setV d5 w).handlerCount = x.handlerCount := rfl
@[simp] theorem Strand.setV_saveTok : (x.setV d5 w).saveTok = x.saveTok := rfl
@[simp] theorem Strand.setV_restore : (x.setV d5 w).restore = x.restore := rfl
@[simp] theorem Strand.setV_kill : (x.setV d5 w).kill = x.kill := rfl
@[simp] theorem Strand.setV_trapDue : (x.setV d5 w).trapDue = x.trapDue := rfl
@[simp] theorem Strand.setV_lapse : (x.setV d5 w).lapse = x.lapse := rfl
@[simp] theorem Strand.setP_pc : (x.setP d3 q).pc = x.pc := by unfold Strand.setP; split <;> rfl
@[simp] theorem Strand.setP_s : (x.setP d3 q).s = x.s := by unfold Strand.setP; split <;> rfl
@[simp] theorem Strand.setP_v : (x.setP d3 q).v = x.v := by unfold Strand.setP; split <;> rfl
@[simp] theorem Strand.setP_mode : (x.setP d3 q).mode = x.mode := by unfold Strand.setP; split <;> rfl
@[simp] theorem Strand.setP_rm : (x.setP d3 q).rm = x.rm := by unfold Strand.setP; split <;> rfl
@[simp] theorem Strand.setP_fpstat : (x.setP d3 q).fpstat = x.fpstat := by unfold Strand.setP; split <;> rfl
@[simp] theorem Strand.setP_bindtab : (x.setP d3 q).bindtab = x.bindtab := by unfold Strand.setP; split <;> rfl
@[simp] theorem Strand.setP_binds : (x.setP d3 q).binds = x.binds := by unfold Strand.setP; split <;> rfl
@[simp] theorem Strand.setP_bufbase : (x.setP d3 q).bufbase = x.bufbase := by unfold Strand.setP; split <;> rfl
@[simp] theorem Strand.setP_unacked : (x.setP d3 q).unacked = x.unacked := by unfold Strand.setP; split <;> rfl
@[simp] theorem Strand.setP_deadline : (x.setP d3 q).deadline = x.deadline := by unfold Strand.setP; split <;> rfl
@[simp] theorem Strand.setP_yieldPend : (x.setP d3 q).yieldPend = x.yieldPend := by unfold Strand.setP; split <;> rfl
@[simp] theorem Strand.setP_yieldLeft : (x.setP d3 q).yieldLeft = x.yieldLeft := by unfold Strand.setP; split <;> rfl
@[simp] theorem Strand.setP_wdLog2 : (x.setP d3 q).wdLog2 = x.wdLog2 := by unfold Strand.setP; split <;> rfl
@[simp] theorem Strand.setP_wdCount : (x.setP d3 q).wdCount = x.wdCount := by unfold Strand.setP; split <;> rfl
@[simp] theorem Strand.setP_trapvec : (x.setP d3 q).trapvec = x.trapvec := by unfold Strand.setP; split <;> rfl
@[simp] theorem Strand.setP_trappc : (x.setP d3 q).trappc = x.trappc := by unfold Strand.setP; split <;> rfl
@[simp] theorem Strand.setP_trapcause : (x.setP d3 q).trapcause = x.trapcause := by unfold Strand.setP; split <;> rfl
@[simp] theorem Strand.setP_fltseq : (x.setP d3 q).fltseq = x.fltseq := by unfold Strand.setP; split <;> rfl
@[simp] theorem Strand.setP_seqNext : (x.setP d3 q).seqNext = x.seqNext := by unfold Strand.setP; split <;> rfl
@[simp] theorem Strand.setP_ring : (x.setP d3 q).ring = x.ring := by unfold Strand.setP; split <;> rfl
@[simp] theorem Strand.setP_ctxid : (x.setP d3 q).ctxid = x.ctxid := by unfold Strand.setP; split <;> rfl
@[simp] theorem Strand.setP_savearea : (x.setP d3 q).savearea = x.savearea := by unfold Strand.setP; split <;> rfl
@[simp] theorem Strand.setP_space : (x.setP d3 q).space = x.space := by unfold Strand.setP; split <;> rfl
@[simp] theorem Strand.setP_task : (x.setP d3 q).task = x.task := by unfold Strand.setP; split <;> rfl
@[simp] theorem Strand.setP_ops : (x.setP d3 q).ops = x.ops := by unfold Strand.setP; split <;> rfl
@[simp] theorem Strand.setP_hints : (x.setP d3 q).hints = x.hints := by unfold Strand.setP; split <;> rfl
@[simp] theorem Strand.setP_block : (x.setP d3 q).block = x.block := by unfold Strand.setP; split <;> rfl
@[simp] theorem Strand.setP_since : (x.setP d3 q).since = x.since := by unfold Strand.setP; split <;> rfl
@[simp] theorem Strand.setP_answers : (x.setP d3 q).answers = x.answers := by unfold Strand.setP; split <;> rfl
@[simp] theorem Strand.setP_phase : (x.setP d3 q).phase = x.phase := by unfold Strand.setP; split <;> rfl
@[simp] theorem Strand.setP_halted : (x.setP d3 q).halted = x.halted := by unfold Strand.setP; split <;> rfl
@[simp] theorem Strand.setP_stopReq : (x.setP d3 q).stopReq = x.stopReq := by unfold Strand.setP; split <;> rfl
@[simp] theorem Strand.setP_pause : (x.setP d3 q).pause = x.pause := by unfold Strand.setP; split <;> rfl
@[simp] theorem Strand.setP_lates : (x.setP d3 q).lates = x.lates := by unfold Strand.setP; split <;> rfl
@[simp] theorem Strand.setP_wdDue : (x.setP d3 q).wdDue = x.wdDue := by unfold Strand.setP; split <;> rfl
@[simp] theorem Strand.setP_saveDue : (x.setP d3 q).saveDue = x.saveDue := by unfold Strand.setP; split <;> rfl
@[simp] theorem Strand.setP_fx : (x.setP d3 q).fx = x.fx := by unfold Strand.setP; split <;> rfl
@[simp] theorem Strand.setP_issued : (x.setP d3 q).issued = x.issued := by unfold Strand.setP; split <;> rfl
@[simp] theorem Strand.setP_fetchAll : (x.setP d3 q).fetchAll = x.fetchAll := by unfold Strand.setP; split <;> rfl
@[simp] theorem Strand.setP_fetchOwn : (x.setP d3 q).fetchOwn = x.fetchOwn := by unfold Strand.setP; split <;> rfl
@[simp] theorem Strand.setP_steal : (x.setP d3 q).steal = x.steal := by unfold Strand.setP; split <;> rfl
@[simp] theorem Strand.setP_lastSpace : (x.setP d3 q).lastSpace = x.lastSpace := by unfold Strand.setP; split <;> rfl
@[simp] theorem Strand.setP_handlerCount : (x.setP d3 q).handlerCount = x.handlerCount := by unfold Strand.setP; split <;> rfl
@[simp] theorem Strand.setP_saveTok : (x.setP d3 q).saveTok = x.saveTok := by unfold Strand.setP; split <;> rfl
@[simp] theorem Strand.setP_restore : (x.setP d3 q).restore = x.restore := by unfold Strand.setP; split <;> rfl
@[simp] theorem Strand.setP_kill : (x.setP d3 q).kill = x.kill := by unfold Strand.setP; split <;> rfl
@[simp] theorem Strand.setP_trapDue : (x.setP d3 q).trapDue = x.trapDue := by unfold Strand.setP; split <;> rfl
@[simp] theorem Strand.setP_lapse : (x.setP d3 q).lapse = x.lapse := by unfold Strand.setP; split <;> rfl

@[simp] theorem Strand.sreg_setS_same : (x.setS d v).sreg d = v := get_set_same _ _ _
theorem Strand.sreg_setS_ne (h : e ≠ d) : (x.setS d v).sreg e = x.sreg e := by
  have n : e.toFin ≠ d.toFin := fun c => h (BitVec.eq_of_toFin_eq c)
  exact get_set_ne _ _ n
@[simp] theorem Strand.sreg_setV : (x.setV d5 w).sreg e = x.sreg e := rfl
@[simp] theorem Strand.sreg_setP : (x.setP d3 q).sreg e = x.sreg e := by unfold Strand.setP; split <;> rfl
@[simp] theorem Strand.vreg_setV_same : (x.setV d5 w).vreg d5 = w := get_set_same _ _ _
theorem Strand.vreg_setV_ne (h : e5 ≠ d5) : (x.setV d5 w).vreg e5 = x.vreg e5 := by
  have n : e5.toFin ≠ d5.toFin := fun c => h (BitVec.eq_of_toFin_eq c)
  exact get_set_ne _ _ n
@[simp] theorem Strand.vreg_setS : (x.setS d v).vreg e5 = x.vreg e5 := rfl
@[simp] theorem Strand.vreg_setP : (x.setP d3 q).vreg e5 = x.vreg e5 := by unfold Strand.setP; split <;> rfl
@[simp] theorem Strand.preg_setS : (x.setS d v).preg e3 = x.preg e3 := rfl
@[simp] theorem Strand.preg_setV : (x.setV d5 w).preg e3 = x.preg e3 := rfl
/-- p0 reads as all ones (R17). -/
@[simp] theorem Strand.preg_zero : x.preg 0 = BitVec.allOnes 64 := by simp [Strand.preg]
/-- Writes to p0 are ignored (R17). -/
@[simp] theorem Strand.setP_zero : x.setP 0 q = x := by simp [Strand.setP]
theorem Strand.preg_setP_same (h : d3 ≠ 0) : (x.setP d3 q).preg d3 = q := by
  simp only [Strand.preg, Strand.setP, h, if_false, get_set_same]
theorem Strand.preg_setP_ne (h : e3 ≠ d3) : (x.setP d3 q).preg e3 = x.preg e3 := by
  have n : e3.toFin ≠ d3.toFin := fun c => h (BitVec.eq_of_toFin_eq c)
  unfold Strand.setP; split
  · rfl
  · simp only [Strand.preg, get_set_ne _ _ n]
end

end Sys2Proof.Machine
end

