-- ==== Sys2Proof/Laws/Memory.lean ====
section
/-! SUPPORT. Memory: read after write, the canonical form that every write keeps, and what a write leaves alone. -/

namespace Sys2Proof.Machine

/-! One cell. -/

theorem cellAt_of_lt {m : List Host.Cell} {lo a : Nat} (h : cellsFrom lo m = true) (ha : a < lo) : cellAt m a = 0 := by
  induction m generalizing lo with
  | nil => rfl
  | cons q t ih =>
    obtain ⟨k, w⟩ := q
    simp only [cellsFrom, Bool.and_eq_true, decide_eq_true_eq] at h
    simp only [cellAt, show a < k by omega, if_true]

theorem cellsFrom_mono {m : List Host.Cell} {lo lo' : Nat} (h : cellsFrom lo m = true) (hl : lo' ≤ lo) :
    cellsFrom lo' m = true := by
  cases m with
  | nil => rfl
  | cons q t =>
    obtain ⟨k, w⟩ := q
    simp only [cellsFrom, Bool.and_eq_true, decide_eq_true_eq] at h ⊢
    exact ⟨⟨by omega, h.1.2⟩, h.2⟩

/-- A write keeps the canonical form from its bound on. -/
theorem cellsFrom_cellSet {m : List Host.Cell} {lo a : Nat} (v : Byte) (h : cellsFrom lo m = true) (ha : lo ≤ a) :
    cellsFrom lo (cellSet m a v) = true := by
  induction m generalizing lo with
  | nil => by_cases hv : v = 0#8 <;> simp [cellSet, cellsFrom, hv, ha]
  | cons q t ih =>
    obtain ⟨k, w⟩ := q
    have h0 := h
    simp only [cellsFrom, Bool.and_eq_true, decide_eq_true_eq] at h
    simp only [cellSet]
    split
    · rename_i hk
      split
      · exact h0
      · rename_i hv
        simp only [cellsFrom, Bool.and_eq_true, decide_eq_true_eq, bne_iff_ne, ne_eq]
        exact ⟨⟨ha, hv⟩, ⟨by omega, by simpa using h.1.2⟩, h.2⟩
    · split
      · rename_i hk he
        subst he
        split
        · exact cellsFrom_mono h.2 (by omega)
        · rename_i hv
          simp only [cellsFrom, Bool.and_eq_true, decide_eq_true_eq, bne_iff_ne, ne_eq]
          exact ⟨⟨ha, hv⟩, h.2⟩
      · rename_i h1 h2
        simp only [cellsFrom, Bool.and_eq_true, decide_eq_true_eq]
        exact ⟨h.1, ih h.2 (by omega)⟩

/-- A write keeps the canonical form. -/
theorem wf_cellSet {m : List Host.Cell} (h : Memory.wf m = true) (a : Nat) (v : Byte) : Memory.wf (cellSet m a v) = true :=
  cellsFrom_cellSet v h (Nat.zero_le a)

/-- A read after a write to the same place gives the value written. -/
theorem cellAt_cellSet_same {m : List Host.Cell} {lo : Nat} (h : cellsFrom lo m = true) (a : Nat) (v : Byte) :
    cellAt (cellSet m a v) a = v := by
  induction m generalizing lo with
  | nil => by_cases hv : v = 0#8 <;> simp [cellSet, cellAt, hv]
  | cons q t ih =>
    obtain ⟨k, w⟩ := q
    simp only [cellsFrom, Bool.and_eq_true, decide_eq_true_eq] at h
    simp only [cellSet]
    split
    · rename_i hk
      split
      · rename_i hv; simp [cellAt, hk, hv]
      · simp [cellAt]
    · split
      · rename_i hk he
        subst he
        split
        · rename_i hv; rw [hv]; exact cellAt_of_lt h.2 (by omega)
        · simp [cellAt]
      · rename_i h1 h2
        simp only [cellAt, h1, h2, if_false]; exact ih h.2

/-- A write leaves every other place alone. -/
theorem cellAt_cellSet_ne {m : List Host.Cell} {lo : Nat} (h : cellsFrom lo m = true) {a b : Nat} (hb : b ≠ a) (v : Byte) :
    cellAt (cellSet m a v) b = cellAt m b := by
  induction m generalizing lo with
  | nil =>
    by_cases hv : v = 0#8 <;> simp [cellSet, cellAt, hv, hb]
  | cons q t ih =>
    obtain ⟨k, w⟩ := q
    simp only [cellsFrom, Bool.and_eq_true, decide_eq_true_eq] at h
    simp only [cellSet]
    split
    · rename_i hk
      split
      · rfl
      · simp only [cellAt]
        by_cases h1 : b < a
        · simp [h1, show b < k by omega]
        · simp [h1, hb]
    · split
      · rename_i hk he
        subst he
        split
        · rename_i hv
          simp only [cellAt, hb, if_false]
          split
          · exact cellAt_of_lt h.2 (by omega)
          · rfl
        · simp [cellAt, hb]
      · simp only [cellAt]
        split
        · rfl
        · split
          · rfl
          · exact ih h.2

/-- Consecutive writes keep the canonical form. -/
theorem wf_cellsSet {m : List Host.Cell} (h : Memory.wf m = true) (a : Nat) (l : List Byte) : Memory.wf (cellsSet m a l) = true := by
  induction l generalizing m a with
  | nil => exact h
  | cons v t ih => exact ih (wf_cellSet h a v) (a + 1)

/-- Dropping cells keeps the canonical form. -/
theorem cellsFrom_filter {m : List Host.Cell} {lo : Nat} (p : Host.Cell → Bool) (h : cellsFrom lo m = true) :
    cellsFrom lo (m.filter p) = true := by
  induction m generalizing lo with
  | nil => rfl
  | cons q t ih =>
    obtain ⟨k, w⟩ := q
    simp only [cellsFrom, Bool.and_eq_true, decide_eq_true_eq] at h
    simp only [List.filter]
    split
    · simp only [cellsFrom, Bool.and_eq_true, decide_eq_true_eq]
      exact ⟨h.1, ih h.2⟩
    · exact ih (cellsFrom_mono h.2 (by omega))

theorem wf_filter {m : List Host.Cell} (p : Host.Cell → Bool) (h : Memory.wf m = true) : Memory.wf (m.filter p) = true :=
  cellsFrom_filter p h

/-! Writes of bytes. -/

/-- poke changes memory and nothing else. -/
theorem State.poke_eq (s : State) (pa : Nat) (l : List (Option Byte)) : s.poke pa l = { s with mem := (s.poke pa l).mem } := by
  induction l generalizing s pa with
  | nil => rfl
  | cons o t ih =>
    cases o with
    | none => exact ih s (pa + 1)
    | some v =>
      simp only [State.poke]
      split
      · exact ih s (pa + 1)
      · exact (ih _ _).trans rfl

/-- poke keeps the canonical form. -/
theorem wf_poke {s : State} (h : Memory.wf s.mem = true) (pa : Nat) (l : List (Option Byte)) :
    Memory.wf (s.poke pa l).mem = true := by
  induction l generalizing s pa with
  | nil => exact h
  | cons o t ih =>
    cases o with
    | none => exact ih h (pa + 1)
    | some v =>
      simp only [State.poke]
      split
      · exact ih h (pa + 1)
      · exact ih (s := { s with mem := cellSet s.mem pa v }) (wf_cellSet h pa v) (pa + 1)

/-- Every write of bytes keeps the canonical form. -/
theorem wf_writeOpt {s : State} (h : Memory.wf s.mem = true) (pa : Nat) (l : List (Option Byte)) :
    Memory.wf (s.writeOpt pa l).mem = true := wf_poke h pa l
theorem wf_write {s : State} (h : Memory.wf s.mem = true) (pa : Nat) (l : List Byte) : Memory.wf (s.write pa l).mem = true :=
  wf_writeOpt h pa _
theorem wf_writeNum {s : State} (h : Memory.wf s.mem = true) (pa n x : Nat) : Memory.wf (s.writeNum pa n x).mem = true :=
  wf_write h pa _

/-- poke leaves the cells outside its bytes alone. -/
theorem cellAt_poke_out {s : State} (h : Memory.wf s.mem = true) (pa : Nat) (l : List (Option Byte)) (a : Nat)
    (ha : a < pa ∨ pa + l.length ≤ a) : cellAt (s.poke pa l).mem a = cellAt s.mem a := by
  induction l generalizing s pa with
  | nil => rfl
  | cons o t ih =>
    have hn : a < pa + 1 ∨ pa + 1 + t.length ≤ a := by simp only [List.length_cons] at ha; omega
    have hne : a ≠ pa := by simp only [List.length_cons] at ha; omega
    cases o with
    | none => exact ih h (pa + 1) hn
    | some v =>
      simp only [State.poke]
      split
      · exact ih h (pa + 1) hn
      · exact (ih (s := { s with mem := cellSet s.mem pa v }) (wf_cellSet h pa v) (pa + 1) hn).trans (cellAt_cellSet_ne h hne v)

/-- A byte of a write outside the deque's region reads back. -/
theorem cellAt_poke_in {s : State} (h : Memory.wf s.mem = true) (pa : Nat) (l : List (Option Byte)) (i : Nat) (v : Byte)
    (hl : l[i]? = some (some v)) (hd : s.inDeque (pa + i) = false) : cellAt (s.poke pa l).mem (pa + i) = v := by
  induction l generalizing s pa i with
  | nil => simp at hl
  | cons o t ih =>
    cases i with
    | zero =>
      simp only [List.getElem?_cons_zero, Option.some.injEq] at hl
      subst hl
      have hd' : s.inDeque pa = false := hd
      simp only [State.poke, hd', Bool.false_eq_true, if_false, Nat.add_zero]
      rw [cellAt_poke_out (s := { s with mem := cellSet s.mem pa v }) (wf_cellSet h pa v) _ _ _ (by omega)]
      exact cellAt_cellSet_same h pa v
    | succ j =>
      have hl' : t[j]? = some (some v) := hl
      have e : pa + (j + 1) = pa + 1 + j := by omega
      rw [e] at hd ⊢
      cases o with
      | none => exact ih h (pa + 1) j hl' hd
      | some u =>
        simp only [State.poke]
        split
        · exact ih h (pa + 1) j hl' hd
        · exact ih (s := { s with mem := cellSet s.mem pa u }) (wf_cellSet h pa u) (pa + 1) j hl' hd

/-- The state after a write differs from the one before in memory and poison alone. -/
theorem State.writeOpt_eq (s : State) (pa : Nat) (l : List (Option Byte)) :
    s.writeOpt pa l = { s with mem := (s.poke pa l).mem, poison := s.poison.filter fun u => !unitCovered u pa l } := by
  unfold State.writeOpt; rw [State.poke_eq]

@[simp] theorem State.writeOpt_bricks (s : State) (pa : Nat) (l : List (Option Byte)) : (s.writeOpt pa l).bricks = s.bricks := by
  rw [State.writeOpt_eq]
@[simp] theorem State.writeOpt_cur (s : State) (pa : Nat) (l : List (Option Byte)) : (s.writeOpt pa l).cur = s.cur := by
  rw [State.writeOpt_eq]
@[simp] theorem State.write_bricks (s : State) (pa : Nat) (l : List Byte) : (s.write pa l).bricks = s.bricks := s.writeOpt_bricks pa _
@[simp] theorem State.write_cur (s : State) (pa : Nat) (l : List Byte) : (s.write pa l).cur = s.cur := s.writeOpt_cur pa _
@[simp] theorem State.write_me (s : State) (pa : Nat) (l : List Byte) : (s.write pa l).me = s.me := by
  simp [State.me, State.strand, State.brick]

/-- The deque's region depends on the bricks alone. -/
theorem State.inDeque_congr {s t : State} (h : t.bricks = s.bricks) (pa : Nat) : t.inDeque pa = s.inDeque pa := by
  simp [State.inDeque, State.brick, h]

/-- Every byte outside a write reads as before. -/
theorem State.byte_write_out {s : State} (h : Memory.wf s.mem = true) (pa : Nat) (l : List Byte) (a : Nat)
    (ha : a < pa ∨ pa + l.length ≤ a) : (s.write pa l).byte a = s.byte a := by
  have hm : cellAt (s.write pa l).mem a = cellAt s.mem a := by
    have := cellAt_poke_out h pa (l.map some) a (by simpa using ha)
    simpa [State.write, State.writeOpt] using this
  have hb : (s.write pa l).bricks = s.bricks := s.write_bricks pa l
  have hf : (s.write pa l).free = s.free := by unfold State.write; rw [State.writeOpt_eq]
  simp [State.byte, State.inDeque_congr hb, hm, hf, State.brick]

/-- Every byte of a write outside the deque's region reads back. -/
theorem State.byte_write_in {s : State} (h : Memory.wf s.mem = true) (pa : Nat) (l : List Byte) (i : Nat) (v : Byte)
    (hl : l[i]? = some v) (hd : s.inDeque (pa + i) = false) : (s.write pa l).byte (pa + i) = v := by
  have hm : cellAt (s.write pa l).mem (pa + i) = v := by
    have := cellAt_poke_in h pa (l.map some) i v (by simp [hl]) hd
    simpa [State.write, State.writeOpt] using this
  have hb : (s.write pa l).bricks = s.bricks := s.write_bricks pa l
  simp [State.byte, State.inDeque_congr hb, hd, hm]

/-- The n little-endian bytes of x are n bytes. -/
@[simp] theorem length_leBytes (n x : Nat) : (leBytes n x).length = n := by
  induction n generalizing x with
  | zero => rfl
  | succ n ih => simp [leBytes, ih]

/-- Reading the bytes of a number back gives the number (R4). -/
theorem leNat_leBytes (n x : Nat) : leNat (leBytes n x) = x % 256 ^ n := by
  induction n generalizing x with
  | zero => simp [leBytes, leNat, Nat.mod_one]
  | succ n ih =>
    simp only [leBytes, leNat, ih, BitVec.toNat_ofNat]
    rw [show (2 : Nat) ^ 8 = 256 from rfl, Nat.pow_succ', Nat.mod_mul]

end Sys2Proof.Machine
end

