-- ==== Sys2Proof/Laws/Ops.lean ====
section
/-! SUPPORT. What the shared operations can do: how an instruction begins and completes, taking a trap, the sequence ring and
lookahead windows. -/

namespace Sys2Proof.Machine

/-! Beginning and completing an instruction. -/

/-- An instruction that no encoding trap stops, and whose body answers t, completes with t. -/
theorem run_ok {i : Instr} {s t : State} {body : State → Except Stop State} (h : encodingTrap i s = none) (hb : body s = .ok t) :
    run i s body = .next (advance t) := by simp [run, h, hb, conclude]
theorem runJump_ok {i : Instr} {s t : State} {pc : Word} {body : State → Except Stop (State × Word)}
    (h : encodingTrap i s = none) (hb : body s = .ok (t, pc)) : runJump i s body = .next (advanceTo t pc) := by
  simp [runJump, h, hb, conclude]
theorem runRaw_ok {i : Instr} {s t : State} {body : State → Except Stop State} (h : encodingTrap i s = none) (hb : body s = .ok t) :
    runRaw i s body = .next t := by simp [runRaw, h, hb, conclude]

/-- A stop of an instruction's body. -/
theorem run_trap {i : Instr} {s : State} {body : State → Except Stop State} {c : Code} (h : encodingTrap i s = none)
    (hb : body s = .error (.trap c)) : run i s body = .next (takeTrap s c) := by simp [run, h, hb, conclude]
theorem runJump_trap {i : Instr} {s : State} {body : State → Except Stop (State × Word)} {c : Code} (h : encodingTrap i s = none)
    (hb : body s = .error (.trap c)) : runJump i s body = .next (takeTrap s c) := by simp [runJump, h, hb, conclude]
theorem runRaw_trap {i : Instr} {s : State} {body : State → Except Stop State} {c : Code} (h : encodingTrap i s = none)
    (hb : body s = .error (.trap c)) : runRaw i s body = .next (takeTrap s c) := by simp [runRaw, h, hb, conclude]
theorem run_post {i : Instr} {s : State} {body : State → Except Stop State} {p : Post} (h : encodingTrap i s = none)
    (hb : body s = .error (.post p)) : run i s body = .next (postFault s p) := by simp [run, h, hb, conclude]
theorem run_wait {i : Instr} {s t : State} {body : State → Except Stop State} (h : encodingTrap i s = none)
    (hb : body s = .error (.wait t)) : run i s body = .next t := by simp [run, h, hb, conclude]
theorem run_block {i : Instr} {s t : State} {r : BlockOn} {body : State → Except Stop State} (h : encodingTrap i s = none)
    (hb : body s = .error (.block t r)) : run i s body = .next (t.blockOn r) := by simp [run, h, hb, conclude]

/-- An encoding trap is taken, whatever the instruction's body. -/
theorem run_encoding {i : Instr} {s : State} {c : Code} (body : State → Except Stop State) (h : encodingTrap i s = some c) :
    run i s body = .next (takeTrap s c) := by simp [run, h, conclude]
theorem runJump_encoding {i : Instr} {s : State} {c : Code} (body : State → Except Stop (State × Word))
    (h : encodingTrap i s = some c) : runJump i s body = .next (takeTrap s c) := by simp [runJump, h, conclude]
theorem runRaw_encoding {i : Instr} {s : State} {c : Code} (body : State → Except Stop State) (h : encodingTrap i s = some c) :
    runRaw i s body = .next (takeTrap s c) := by simp [runRaw, h, conclude]

/-- What run can answer: a trap, a posted fault, a wait, a block or the completion; never a fault or a refusal. -/
theorem run_cases (i : Instr) (s : State) (body : State → Except Stop State) :
    (∃ c, run i s body = .next (takeTrap s c)) ∨ (∃ p, body s = .error (.post p) ∧ run i s body = .next (postFault s p)) ∨
    (∃ t, body s = .error (.wait t) ∧ run i s body = .next t) ∨
    (∃ t r, body s = .error (.block t r) ∧ run i s body = .next (t.blockOn r)) ∨
    (∃ t, body s = .ok t ∧ run i s body = .next (advance t)) := by
  cases h : encodingTrap i s with
  | some c => exact .inl ⟨c, run_encoding body h⟩
  | none =>
    cases hb : body s with
    | ok t => exact .inr (.inr (.inr (.inr ⟨t, rfl, run_ok h hb⟩)))
    | error e =>
      cases e with
      | trap c => exact .inl ⟨c, run_trap h hb⟩
      | post p => exact .inr (.inl ⟨p, rfl, run_post h hb⟩)
      | wait t => exact .inr (.inr (.inl ⟨t, rfl, run_wait h hb⟩))
      | block t r => exact .inr (.inr (.inr (.inl ⟨t, r, rfl, run_block h hb⟩)))

/-! The trace buffer (R344). -/

/-- Recording an event changes the brick's trace buffer and TRCTL alone. -/
theorem Brick.record_eq (x : Brick) (e : TraceEntry) (f : Bool) :
    x.record e f = { x with trace := (x.record e f).trace, trctl := (x.record e f).trctl } := by
  simp only [Brick.record]; split <;> split <;> rfl

section
variable (x : Brick) (e : TraceEntry) (f : Bool) (s : State) (b c : Nat) (k j : Fin 5) (kd ac : Nat) (d : Word)
@[simp] theorem Brick.record_strands : (x.record e f).strands = x.strands := by rw [Brick.record_eq]
@[simp] theorem Brick.record_disabled : (x.record e f).disabled = x.disabled := by rw [Brick.record_eq]
@[simp] theorem Brick.record_retiring : (x.record e f).retiring = x.retiring := by rw [Brick.record_eq]
@[simp] theorem Brick.record_gated : (x.record e f).gated = x.gated := by rw [Brick.record_eq]
@[simp] theorem Brick.record_acc : (x.record e f).acc = x.acc := by rw [Brick.record_eq]
@[simp] theorem Brick.record_accown : (x.record e f).accown = x.accown := by rw [Brick.record_eq]
@[simp] theorem Brick.record_ownSave : (x.record e f).ownSave = x.ownSave := by rw [Brick.record_eq]
@[simp] theorem Brick.record_ownPending : (x.record e f).ownPending = x.ownPending := by rw [Brick.record_eq]
@[simp] theorem Brick.record_deque : (x.record e f).deque = x.deque := by rw [Brick.record_eq]
@[simp] theorem Brick.record_deqVer : (x.record e f).deqVer = x.deqVer := by rw [Brick.record_eq]
@[simp] theorem Brick.record_tasks : (x.record e f).tasks = x.tasks := by rw [Brick.record_eq]
@[simp] theorem Brick.record_ready : (x.record e f).ready = x.ready := by rw [Brick.record_eq]
@[simp] theorem Brick.record_away : (x.record e f).away = x.away := by rw [Brick.record_eq]
@[simp] theorem Brick.record_frames : (x.record e f).frames = x.frames := by rw [Brick.record_eq]
@[simp] theorem Brick.record_inbox : (x.record e f).inbox = x.inbox := by rw [Brick.record_eq]
@[simp] theorem Brick.record_heap : (x.record e f).heap = x.heap := by rw [Brick.record_eq]
@[simp] theorem Brick.record_handler : (x.record e f).handler = x.handler := by rw [Brick.record_eq]
@[simp] theorem Brick.record_rrb : (x.record e f).rrb = x.rrb := by rw [Brick.record_eq]
@[simp] theorem Brick.record_entries : (x.record e f).entries = x.entries := by rw [Brick.record_eq]
@[simp] theorem Brick.record_epoch : (x.record e f).epoch = x.epoch := by rw [Brick.record_eq]
@[simp] theorem Brick.record_taken : (x.record e f).taken = x.taken := by rw [Brick.record_eq]
@[simp] theorem Brick.record_acked : (x.record e f).acked = x.acked := by rw [Brick.record_eq]
@[simp] theorem Brick.record_flights : (x.record e f).flights = x.flights := by rw [Brick.record_eq]
@[simp] theorem Brick.record_matq : (x.record e f).matq = x.matq := by rw [Brick.record_eq]
@[simp] theorem Brick.record_panels : (x.record e f).panels = x.panels := by rw [Brick.record_eq]
@[simp] theorem Brick.record_slots : (x.record e f).slots = x.slots := by rw [Brick.record_eq]
@[simp] theorem Brick.record_chans : (x.record e f).chans = x.chans := by rw [Brick.record_eq]
@[simp] theorem Brick.record_tcache : (x.record e f).tcache = x.tcache := by rw [Brick.record_eq]
@[simp] theorem Brick.record_chains : (x.record e f).chains = x.chains := by rw [Brick.record_eq]
@[simp] theorem Brick.record_switches : (x.record e f).switches = x.switches := by rw [Brick.record_eq]
@[simp] theorem Brick.record_held : (x.record e f).held = x.held := by rw [Brick.record_eq]
@[simp] theorem Brick.record_launch : (x.record e f).launch = x.launch := by rw [Brick.record_eq]
@[simp] theorem Brick.record_c : (x.record e f).c = x.c := by rw [Brick.record_eq]
@[simp] theorem Brick.record_coursewin : (x.record e f).coursewin = x.coursewin := by rw [Brick.record_eq]
@[simp] theorem Brick.record_courseorg : (x.record e f).courseorg = x.courseorg := by rw [Brick.record_eq]
@[simp] theorem Brick.record_courseshape : (x.record e f).courseshape = x.courseshape := by rw [Brick.record_eq]
@[simp] theorem Brick.record_footmask : (x.record e f).footmask = x.footmask := by rw [Brick.record_eq]
@[simp] theorem Brick.record_trmatch : (x.record e f).trmatch = x.trmatch := by rw [Brick.record_eq]
@[simp] theorem Brick.record_dbg : (x.record e f).dbg = x.dbg := by rw [Brick.record_eq]
@[simp] theorem State.trace_cur : (s.trace b k kd ac d).cur = s.cur := rfl
@[simp] theorem State.traceMe_cur : (s.traceMe kd ac d).cur = s.cur := rfl
@[simp] theorem State.trace_turns : (s.trace b k kd ac d).turns = s.turns := rfl
@[simp] theorem State.traceMe_turns : (s.traceMe kd ac d).turns = s.turns := rfl
@[simp] theorem State.trace_turnCount : (s.trace b k kd ac d).turnCount = s.turnCount := rfl
@[simp] theorem State.traceMe_turnCount : (s.traceMe kd ac d).turnCount = s.turnCount := rfl
@[simp] theorem State.trace_free : (s.trace b k kd ac d).free = s.free := rfl
@[simp] theorem State.traceMe_free : (s.traceMe kd ac d).free = s.free := rfl
@[simp] theorem State.trace_nextId : (s.trace b k kd ac d).nextId = s.nextId := rfl
@[simp] theorem State.traceMe_nextId : (s.traceMe kd ac d).nextId = s.nextId := rfl
@[simp] theorem State.trace_cycle : (s.trace b k kd ac d).cycle = s.cycle := rfl
@[simp] theorem State.traceMe_cycle : (s.traceMe kd ac d).cycle = s.cycle := rfl
@[simp] theorem State.trace_mem : (s.trace b k kd ac d).mem = s.mem := rfl
@[simp] theorem State.traceMe_mem : (s.traceMe kd ac d).mem = s.mem := rfl
@[simp] theorem State.trace_poison : (s.trace b k kd ac d).poison = s.poison := rfl
@[simp] theorem State.traceMe_poison : (s.traceMe kd ac d).poison = s.poison := rfl
@[simp] theorem State.trace_codeLog : (s.trace b k kd ac d).codeLog = s.codeLog := rfl
@[simp] theorem State.traceMe_codeLog : (s.traceMe kd ac d).codeLog = s.codeLog := rfl
@[simp] theorem State.trace_nodes : (s.trace b k kd ac d).nodes = s.nodes := rfl
@[simp] theorem State.traceMe_nodes : (s.traceMe kd ac d).nodes = s.nodes := rfl
@[simp] theorem State.trace_heat : (s.trace b k kd ac d).heat = s.heat := rfl
@[simp] theorem State.traceMe_heat : (s.traceMe kd ac d).heat = s.heat := rfl
@[simp] theorem State.trace_spaces : (s.trace b k kd ac d).spaces = s.spaces := rfl
@[simp] theorem State.traceMe_spaces : (s.traceMe kd ac d).spaces = s.spaces := rfl
@[simp] theorem State.trace_gens : (s.trace b k kd ac d).gens = s.gens := rfl
@[simp] theorem State.traceMe_gens : (s.traceMe kd ac d).gens = s.gens := rfl
@[simp] theorem State.trace_mapq : (s.trace b k kd ac d).mapq = s.mapq := rfl
@[simp] theorem State.traceMe_mapq : (s.traceMe kd ac d).mapq = s.mapq := rfl
@[simp] theorem State.trace_withdrawals : (s.trace b k kd ac d).withdrawals = s.withdrawals := rfl
@[simp] theorem State.traceMe_withdrawals : (s.traceMe kd ac d).withdrawals = s.withdrawals := rfl
@[simp] theorem State.trace_foots : (s.trace b k kd ac d).foots = s.foots := rfl
@[simp] theorem State.traceMe_foots : (s.traceMe kd ac d).foots = s.foots := rfl
@[simp] theorem State.trace_launches : (s.trace b k kd ac d).launches = s.launches := rfl
@[simp] theorem State.traceMe_launches : (s.traceMe kd ac d).launches = s.launches := rfl
@[simp] theorem State.trace_queues : (s.trace b k kd ac d).queues = s.queues := rfl
@[simp] theorem State.traceMe_queues : (s.traceMe kd ac d).queues = s.queues := rfl
@[simp] theorem State.trace_net : (s.trace b k kd ac d).net = s.net := rfl
@[simp] theorem State.traceMe_net : (s.traceMe kd ac d).net = s.net := rfl
@[simp] theorem State.trace_parkq : (s.trace b k kd ac d).parkq = s.parkq := rfl
@[simp] theorem State.traceMe_parkq : (s.traceMe kd ac d).parkq = s.parkq := rfl
@[simp] theorem State.trace_frames : (s.trace b k kd ac d).frames = s.frames := rfl
@[simp] theorem State.traceMe_frames : (s.traceMe kd ac d).frames = s.frames := rfl
@[simp] theorem State.trace_parkFrames : (s.trace b k kd ac d).parkFrames = s.parkFrames := rfl
@[simp] theorem State.traceMe_parkFrames : (s.traceMe kd ac d).parkFrames = s.parkFrames := rfl
@[simp] theorem State.trace_steals : (s.trace b k kd ac d).steals = s.steals := rfl
@[simp] theorem State.traceMe_steals : (s.traceMe kd ac d).steals = s.steals := rfl
@[simp] theorem State.trace_rcmds : (s.trace b k kd ac d).rcmds = s.rcmds := rfl
@[simp] theorem State.traceMe_rcmds : (s.traceMe kd ac d).rcmds = s.rcmds := rfl
@[simp] theorem State.trace_hostUp : (s.trace b k kd ac d).hostUp = s.hostUp := rfl
@[simp] theorem State.traceMe_hostUp : (s.traceMe kd ac d).hostUp = s.hostUp := rfl
@[simp] theorem State.trace_liveness : (s.trace b k kd ac d).liveness = s.liveness := rfl
@[simp] theorem State.traceMe_liveness : (s.traceMe kd ac d).liveness = s.liveness := rfl
@[simp] theorem State.trace_ports : (s.trace b k kd ac d).ports = s.ports := rfl
@[simp] theorem State.traceMe_ports : (s.traceMe kd ac d).ports = s.ports := rfl
@[simp] theorem State.trace_mail : (s.trace b k kd ac d).mail = s.mail := rfl
@[simp] theorem State.traceMe_mail : (s.traceMe kd ac d).mail = s.mail := rfl
@[simp] theorem State.trace_park : (s.trace b k kd ac d).park = s.park := rfl
@[simp] theorem State.traceMe_park : (s.traceMe kd ac d).park = s.park := rfl
@[simp] theorem State.trace_regions : (s.trace b k kd ac d).regions = s.regions := rfl
@[simp] theorem State.traceMe_regions : (s.traceMe kd ac d).regions = s.regions := rfl
@[simp] theorem State.trace_pairs : (s.trace b k kd ac d).pairs = s.pairs := rfl
@[simp] theorem State.traceMe_pairs : (s.traceMe kd ac d).pairs = s.pairs := rfl
@[simp] theorem State.trace_heartbeat : (s.trace b k kd ac d).heartbeat = s.heartbeat := rfl
@[simp] theorem State.traceMe_heartbeat : (s.traceMe kd ac d).heartbeat = s.heartbeat := rfl
@[simp] theorem State.trace_lastBeat : (s.trace b k kd ac d).lastBeat = s.lastBeat := rfl
@[simp] theorem State.traceMe_lastBeat : (s.traceMe kd ac d).lastBeat = s.lastBeat := rfl
@[simp] theorem State.trace_extents : (s.trace b k kd ac d).extents = s.extents := rfl
@[simp] theorem State.traceMe_extents : (s.traceMe kd ac d).extents = s.extents := rfl
@[simp] theorem State.trace_worlds : (s.trace b k kd ac d).worlds = s.worlds := rfl
@[simp] theorem State.traceMe_worlds : (s.traceMe kd ac d).worlds = s.worlds := rfl
@[simp] theorem State.trace_tagRegions : (s.trace b k kd ac d).tagRegions = s.tagRegions := rfl
@[simp] theorem State.traceMe_tagRegions : (s.traceMe kd ac d).tagRegions = s.tagRegions := rfl
@[simp] theorem State.trace_dies : (s.trace b k kd ac d).dies = s.dies := rfl
@[simp] theorem State.traceMe_dies : (s.traceMe kd ac d).dies = s.dies := rfl
@[simp] theorem State.trace_health : (s.trace b k kd ac d).health = s.health := rfl
@[simp] theorem State.traceMe_health : (s.traceMe kd ac d).health = s.health := rfl
@[simp] theorem State.trace_cap : (s.trace b k kd ac d).cap = s.cap := rfl
@[simp] theorem State.traceMe_cap : (s.traceMe kd ac d).cap = s.cap := rfl
@[simp] theorem State.trace_snap : (s.trace b k kd ac d).snap = s.snap := rfl
@[simp] theorem State.traceMe_snap : (s.traceMe kd ac d).snap = s.snap := rfl
@[simp] theorem State.trace_snapRaised : (s.trace b k kd ac d).snapRaised = s.snapRaised := rfl
@[simp] theorem State.traceMe_snapRaised : (s.traceMe kd ac d).snapRaised = s.snapRaised := rfl
@[simp] theorem State.trace_replies : (s.trace b k kd ac d).replies = s.replies := rfl
@[simp] theorem State.traceMe_replies : (s.traceMe kd ac d).replies = s.replies := rfl
@[simp] theorem State.trace_lastSweep : (s.trace b k kd ac d).lastSweep = s.lastSweep := rfl
@[simp] theorem State.traceMe_lastSweep : (s.traceMe kd ac d).lastSweep = s.lastSweep := rfl
@[simp] theorem State.trace_lastTick : (s.trace b k kd ac d).lastTick = s.lastTick := rfl
@[simp] theorem State.traceMe_lastTick : (s.traceMe kd ac d).lastTick = s.lastTick := rfl
@[simp] theorem State.trace_stopped : (s.trace b k kd ac d).stopped = s.stopped := rfl
@[simp] theorem State.traceMe_stopped : (s.traceMe kd ac d).stopped = s.stopped := rfl
@[simp] theorem State.strand_trace : (s.trace b k kd ac d).strand c j = s.strand c j := by
  by_cases h : c = b
  · subst h; simp [State.strand, State.trace, Brick.strand]
  · simp [State.strand, State.trace, State.brick_modBrick_ne _ _ _ _ h]
@[simp] theorem State.strand_traceMe : (s.traceMe kd ac d).strand c j = s.strand c j := s.strand_trace ..
@[simp] theorem State.me_traceMe : (s.traceMe kd ac d).me = s.me := s.strand_traceMe ..
end

/-! Windows (R70 to R72). -/

@[simp] theorem settleList_nil (x : Strand) : settleList [] x = (x, []) := rfl

/-- A strand without operations has no window to settle. -/
theorem Strand.settle_of_no_ops {x : Strand} (h : x.ops = []) : x.settle = x := by
  obtain ⟨⟩ := x; simp only at h; subst h; rfl

theorem Strand.tickWindows_of_no_ops {x : Strand} (h : x.ops = []) : x.tickWindows = x := by
  obtain ⟨⟩ := x; simp only at h; subst h; rfl

theorem Strand.closeWindows_of_no_ops {x : Strand} (h : x.ops = []) : x.closeWindows = x := by
  obtain ⟨⟩ := x; simp only at h; subst h; rfl

/-! Completion. -/

/-- What completion changes: the strand that moves, and the number of the next free value. -/
theorem advanceTo_me (s : State) (pc : Word) : (advanceTo s pc).me =
    ({ s.me with
        pc := pc, hints := Hints.none, answers := [], phase := 0
        issued := if s.me.asyncDue then s.me.issued + 1 else 0
        handlerCount := s.me.handlerCount + 1 } : Strand).tickWindows.settle := by
  simp [advanceTo]

/-- Without an operation under way, completion sets the PC and clears the hints. -/
theorem advanceTo_me_of_no_ops {s : State} (h : s.me.ops = []) (pc : Word) : (advanceTo s pc).me =
    { s.me with
      pc := pc, hints := Hints.none, answers := [], phase := 0
      issued := if s.me.asyncDue then s.me.issued + 1 else 0
      handlerCount := s.me.handlerCount + 1 } := by
  rw [advanceTo_me, Strand.tickWindows_of_no_ops (by exact h), Strand.settle_of_no_ops (by exact h)]

theorem advanceTo_strand_ne (s : State) (pc : Word) {b : Nat} {k : Fin 5} (h : (b, k) ≠ s.cur) :
    (advanceTo s pc).strand b k = s.strand b k := by simp [advanceTo, s.strand_modMe_ne _ _ _ h]
@[simp] theorem advanceTo_mem (s : State) (pc : Word) : (advanceTo s pc).mem = s.mem := rfl
@[simp] theorem advance_mem (s : State) : (advance s).mem = s.mem := rfl
@[simp] theorem advanceTo_cur (s : State) (pc : Word) : (advanceTo s pc).cur = s.cur := rfl
@[simp] theorem advance_cur (s : State) : (advance s).cur = s.cur := rfl

/-! Taking a trap (R96). -/

/-- A trap of a task strand with no operation under way saves the group's address and the cause, and enters service mode at
TRAPVEC. -/
theorem takeTrap_me {s : State} {c : Code} (hm : isMessage s.cur.1 s.cur.2 = false) (hops : s.me.ops = []) :
    (takeTrap s c).me = trapEntry c none s.me.groupPc s.me := by
  have hd : s.me.drained = true := by simp [Strand.drained, hops]
  simp [takeTrap, takeTrapAt, hd, hm]

end Sys2Proof.Machine
end

