-- ==== Sys2Proof/Laws/Access.lean ====
section
/-! SUPPORT. What the shared accesses to memory can do: places in the local window, loads, stores that retire, and which fields of the
state they leave alone. -/

namespace Sys2Proof.Machine

/-! The local window (R34). -/

/-- An offset of the own SRAM is at home in its brick. -/
theorem homeHere_sramPa (b ea : Nat) (h : ea < Config.sramBytes) : homeHere b (sramPa b ea) = true := by
  unfold Config.sramBytes at h
  unfold homeHere sramPa paClass paBrick bits
  by_cases hb : b < 32768
  · have e1 : (b * 2 ^ 33 + ea) / 2 ^ 48 % 2 ^ (51 + 1 - 48) = 0 := by omega
    have e2 : (b * 2 ^ 33 + ea) / 2 ^ 33 % 2 ^ (47 + 1 - 33) = b := by omega
    simp only [hb, if_true, e1, e2, decide_true, Bool.and_self, Bool.or_true]
  · have : 2 ^ 52 ≤ 2 ^ 52 + (b - 32768) * 2 ^ 33 + ea := by omega
    simp only [hb, if_false, this, decide_true, Bool.true_or]

/-- An offset of the own SRAM is no aperture, no host memory and no HBM. -/
theorem not_class_sramPa {b ea c : Nat} (h : ea < Config.sramBytes) (hc : 0 < c) : ¬(paClass (sramPa b ea) = c ∧ sramPa b ea < 2 ^ 52) := by
  unfold Config.sramBytes at h
  unfold sramPa paClass bits
  by_cases hb : b < 32768
  · simp only [hb, if_true]; omega
  · simp only [hb, if_false]; omega

theorem homeReady_sramPa (s : State) {b ea : Nat} (h : ea < Config.sramBytes) : s.homeReady (sramPa b ea) = true := by
  simp only [State.homeReady, not_class_sramPa h (c := 3) (by omega), not_class_sramPa h (c := 1) (by omega), if_false, ite_self]

/-- The checks of an access to the local window: it has every right, and fills no entry (R34, R109). -/
theorem check_local (s : State) (b space : Nat) {ea : Nat} (n : Need) (h : ea < Config.sramBytes) :
    s.check b space ea n = .ok (localPlace b ea, s) := by simp [State.check, h]

/-- An access to the local window that no reply concerns is made at its place. -/
theorem reach_local {s : State} {ord al : Nat} {ea : Word} (n : Need) (seq : BitVec 32) (ha : s.answer ord ea = some ea)
    (hal : ea.toNat % al = 0) (h : ea.toNat < Config.sramBytes) :
    reach s ord ea al n seq = .ok (.at ea (localPlace s.cur.1 ea.toNat) s) := by
  simp [reach, ha, hal, check_local _ _ _ _ h]

/-- A misaligned access traps, unless a reply skips it (R111). -/
theorem reach_misaligned {s : State} {ord al : Nat} {ea : Word} (n : Need) (seq : BitVec 32) (ha : s.answer ord ea = some ea)
    (hal : ea.toNat % al ≠ 0) : reach s ord ea al n seq = .error (.trap .misaligned) := by simp [reach, ha, hal]

/-- A change of a brick that keeps what translation and memory read of it. -/
def SameView (f : Brick → Brick) : Prop := ∀ x, (f x).deque = x.deque ∧ (f x).deqVer = x.deqVer ∧ (f x).tasks = x.tasks ∧
  (f x).flights = x.flights ∧ (f x).entries = x.entries ∧ (f x).disabled = x.disabled ∧ (f x).strands = x.strands

theorem sameView_record (e : TraceEntry) (g : Brick → Bool) : SameView fun x => x.record e (g x) := fun x => by simp

/-- A part of a brick that a change keeps is kept in every brick. -/
theorem State.field_modBrick {α : Type} (s : State) (b : Nat) {f : Brick → Brick} (p : Brick → α) (hp : ∀ x, p (f x) = p x) (c : Nat) :
    p ((s.modBrick b f).brick c) = p (s.brick c) := by
  by_cases e : c = b
  · subst e; simp [hp]
  · rw [State.brick_modBrick_ne _ _ _ _ e]

section
variable {s : State} {b : Nat} {f : Brick → Brick} (h : SameView f)
include h

theorem SameView.inDeque (pa : Nat) : (s.modBrick b f).inDeque pa = s.inDeque pa := by
  simp only [State.inDeque, s.field_modBrick b Brick.tasks fun x => (h x).2.2.1]

theorem SameView.byte (pa : Nat) : (s.modBrick b f).byte pa = s.byte pa := by
  simp only [State.byte, h.inDeque, dequeByte, s.field_modBrick b Brick.deque fun x => (h x).1,
    s.field_modBrick b Brick.deqVer fun x => (h x).2.1, State.modBrick_free, State.modBrick_mem]

theorem SameView.bytes (pa n : Nat) : (s.modBrick b f).bytes pa n = s.bytes pa n := by simp only [State.bytes, h.byte]
theorem SameView.num (pa n : Nat) : (s.modBrick b f).num pa n = s.num pa n := by simp only [State.num, h.bytes]

end

section
variable (s : State) (kd ac : Nat) (d : Word) (pa n : Nat)

@[simp] theorem State.byte_traceMe : (s.traceMe kd ac d).byte pa = s.byte pa := (sameView_record _ _).byte pa
@[simp] theorem State.bytes_traceMe : (s.traceMe kd ac d).bytes pa n = s.bytes pa n := (sameView_record _ _).bytes pa n
@[simp] theorem State.num_traceMe : (s.traceMe kd ac d).num pa n = s.num pa n := (sameView_record _ _).num pa n
@[simp] theorem State.inDeque_traceMe : (s.traceMe kd ac d).inDeque pa = s.inDeque pa := (sameView_record _ _).inDeque pa
@[simp] theorem State.readPoison_traceMe : (s.traceMe kd ac d).readPoison pa n = s.readPoison pa n := rfl
@[simp] theorem State.homeReady_traceMe : (s.traceMe kd ac d).homeReady pa = s.homeReady pa := rfl

end

/-! What translation reads (R109). -/

/-- The place that a check answers, without the state. -/
def placeOf (r : Except Code (Place × State)) : Except Code Place := match r with
  | .ok q => .ok q.1
  | .error c => .error c

section
variable {s : State} {b : Nat} {f : Brick → Brick} (h : SameView f) (c space ea : Nat)
include h

theorem SameView.paFault (port : Nat) : (s.modBrick b f).paFault c port = s.paFault c port := by
  funext pa
  have hd := s.field_modBrick b Brick.disabled (fun x => (h x).2.2.2.2.2.1) (paBrick pa)
  simp only [State.paFault, hd]
  rfl

theorem SameView.translate (rd : Bool) : placeOf ((s.modBrick b f).translate c space ea rd) = placeOf (s.translate c space ea rd) := by
  simp only [State.translate, s.field_modBrick b Brick.entries fun x => (h x).2.2.2.2.1, State.walk, State.modBrick_nodes, h.paFault]
  split
  · rfl
  · split
    · split <;> rfl
    · split
      · simp only [bind, Except.bind]
        split
        · rfl
        · split <;> rfl
      · simp only [bind, Except.bind]
        split
        · rfl
        · split
          · rfl
          · split <;> rfl

/-- A change that keeps a brick's view keeps the place that every check answers. -/
theorem SameView.check (n : Need) : placeOf ((s.modBrick b f).check c space ea n) = placeOf (s.check c space ea n) := by
  have ht := h.translate (s := s) (b := b) c space ea (!n.w)
  simp only [State.check]
  split
  · rfl
  · simp only [bind, Except.bind]
    revert ht
    cases (s.modBrick b f).translate c space ea (!n.w) <;> cases s.translate c space ea (!n.w) <;> simp only [placeOf] <;> intro ht
    · exact ht
    · cases ht
    · cases ht
    · injection ht with e
      rw [e]
      cases n.fault _ <;> rfl

theorem SameView.flightPa (g : Flight) : (s.modBrick b f).flightPa c g = s.flightPa c g := by
  have hc := h.check (s := s) (b := b) c g.space g.ea.toNat ⟨false, true, false, .sealedStore, .store⟩
  simp only [State.flightPa]
  revert hc
  cases (s.modBrick b f).check c g.space g.ea.toNat ⟨false, true, false, .sealedStore, .store⟩ <;>
    cases s.check c g.space g.ea.toNat ⟨false, true, false, .sealedStore, .store⟩ <;> simp only [placeOf] <;> intro hc
  · trivial
  · cases hc
  · cases hc
  · injection hc with e; rw [e]

end

@[simp] theorem State.ownBusy_traceMe (s : State) (kd ac : Nat) (d : Word) : (s.traceMe kd ac d).ownBusy = s.ownBusy := by
  have hv : SameView (fun x : Brick => x.record ⟨s.cycle % 2 ^ 48, kd, s.cur.2, ac, d⟩ (kd = 4 && x.trctl.getLsbD 9)) := sameView_record _ _
  have hf : (s.traceMe kd ac d).here.flights = s.here.flights := s.field_modBrick s.cur.1 Brick.flights (fun x => (hv x).2.2.2.1) s.cur.1
  have hp : ∀ g, (s.traceMe kd ac d).flightPa s.cur.1 g = s.flightPa s.cur.1 g := fun g => hv.flightPa s.cur.1 g
  simp only [State.ownBusy, hf, State.traceMe_cur, hp]
  rfl

/-- A queue's two pages are free and differ (R304). -/
theorem State.queuePages_free (s : State) (sp a b : Nat) (h : s.queuePages sp = some (a, b)) :
    s.freePage sp a = true ∧ s.freePage sp b = true ∧ a ≠ b := by
  simp only [State.queuePages] at h
  split at h
  · obtain ⟨rfl, rfl⟩ := by simpa using h
    assumption
  · obtain ⟨c, hc, h⟩ := Option.map_eq_some_iff.mp h
    obtain ⟨rfl, rfl⟩ := by simpa using h
    have := List.find?_some hc
    simp only [Bool.and_eq_true] at this
    exact ⟨this.1, this.2, by omega⟩

/-- Where two neighbouring pages are free, a queue has its pages (R304). -/
theorem State.queuePages_some (s : State) (sp : Nat) (h : (s.twoPages sp).isSome = true) : ∃ a b, s.queuePages sp = some (a, b) := by
  obtain ⟨c, hc⟩ := Option.isSome_iff_exists.mp h
  simp only [State.queuePages]
  split
  · exact ⟨_, _, rfl⟩
  · exact ⟨c, c + 4096, by rw [hc]; rfl⟩

end Sys2Proof.Machine
end

