-- ==== Sys2Proof/Laws/Exec.lean ====
section
/-! SUPPORT. Each instruction runs its own meaning: one equation per constructor. -/

namespace Sys2Proof.Machine

variable (s : State)

@[simp] theorem exec_add (d : BitVec 4) (a : Src) (b : Src) : exec (.add d a b) s = execAdd d a b s := rfl
@[simp] theorem exec_sub (d : BitVec 4) (a : Src) (b : Src) : exec (.sub d a b) s = execSub d a b s := rfl
@[simp] theorem exec_min (d : BitVec 4) (a : Src) (b : Src) : exec (.min d a b) s = execMin d a b s := rfl
@[simp] theorem exec_max (d : BitVec 4) (a : Src) (b : Src) : exec (.max d a b) s = execMax d a b s := rfl
@[simp] theorem exec_minu (d : BitVec 4) (a : Src) (b : Src) : exec (.minu d a b) s = execMinu d a b s := rfl
@[simp] theorem exec_maxu (d : BitVec 4) (a : Src) (b : Src) : exec (.maxu d a b) s = execMaxu d a b s := rfl
@[simp] theorem exec_and (d : BitVec 4) (a : Src) (b : Src) : exec (.and d a b) s = execAnd d a b s := rfl
@[simp] theorem exec_or (d : BitVec 4) (a : Src) (b : Src) : exec (.or d a b) s = execOr d a b s := rfl
@[simp] theorem exec_xor (d : BitVec 4) (a : Src) (b : Src) : exec (.xor d a b) s = execXor d a b s := rfl
@[simp] theorem exec_andn (d : BitVec 4) (a : Src) (b : Src) : exec (.andn d a b) s = execAndn d a b s := rfl
@[simp] theorem exec_shl (d : BitVec 4) (a : Src) (b : Src) : exec (.shl d a b) s = execShl d a b s := rfl
@[simp] theorem exec_shr (d : BitVec 4) (a : Src) (b : Src) : exec (.shr d a b) s = execShr d a b s := rfl
@[simp] theorem exec_sar (d : BitVec 4) (a : Src) (b : Src) : exec (.sar d a b) s = execSar d a b s := rfl
@[simp] theorem exec_rol (d : BitVec 4) (a : Src) (b : Src) : exec (.rol d a b) s = execRol d a b s := rfl
@[simp] theorem exec_clz (d : BitVec 4) (a : Src) : exec (.clz d a) s = execClz d a s := rfl
@[simp] theorem exec_ctz (d : BitVec 4) (a : Src) : exec (.ctz d a) s = execCtz d a s := rfl
@[simp] theorem exec_popc (d : BitVec 4) (a : Src) : exec (.popc d a) s = execPopc d a s := rfl
@[simp] theorem exec_seq (d : BitVec 4) (a : Src) (b : Src) : exec (.seq d a b) s = execSeq d a b s := rfl
@[simp] theorem exec_sne (d : BitVec 4) (a : Src) (b : Src) : exec (.sne d a b) s = execSne d a b s := rfl
@[simp] theorem exec_slt (d : BitVec 4) (a : Src) (b : Src) : exec (.slt d a b) s = execSlt d a b s := rfl
@[simp] theorem exec_sltu (d : BitVec 4) (a : Src) (b : Src) : exec (.sltu d a b) s = execSltu d a b s := rfl
@[simp] theorem exec_sle (d : BitVec 4) (a : Src) (b : Src) : exec (.sle d a b) s = execSle d a b s := rfl
@[simp] theorem exec_sleu (d : BitVec 4) (a : Src) (b : Src) : exec (.sleu d a b) s = execSleu d a b s := rfl
@[simp] theorem exec_sel (d : BitVec 4) (a : Src) (b : Src) : exec (.sel d a b) s = execSel d a b s := rfl
@[simp] theorem exec_mul (d : BitVec 4) (a : Src) (b : Src) : exec (.mul d a b) s = execMul d a b s := rfl
@[simp] theorem exec_mulh (d : BitVec 4) (a : Src) (b : Src) : exec (.mulh d a b) s = execMulh d a b s := rfl
@[simp] theorem exec_mulhu (d : BitVec 4) (a : Src) (b : Src) : exec (.mulhu d a b) s = execMulhu d a b s := rfl
@[simp] theorem exec_div (d : BitVec 4) (a : Src) (b : Src) : exec (.div d a b) s = execDiv d a b s := rfl
@[simp] theorem exec_divu (d : BitVec 4) (a : Src) (b : Src) : exec (.divu d a b) s = execDivu d a b s := rfl
@[simp] theorem exec_rem (d : BitVec 4) (a : Src) (b : Src) : exec (.rem d a b) s = execRem d a b s := rfl
@[simp] theorem exec_remu (d : BitVec 4) (a : Src) (b : Src) : exec (.remu d a b) s = execRemu d a b s := rfl
@[simp] theorem exec_clmul (d : BitVec 4) (a : Src) (b : Src) : exec (.clmul d a b) s = execClmul d a b s := rfl
@[simp] theorem exec_clmulh (d : BitVec 4) (a : Src) (b : Src) : exec (.clmulh d a b) s = execClmulh d a b s := rfl
@[simp] theorem exec_bswap (d : BitVec 4) (a : Src) : exec (.bswap d a) s = execBswap d a s := rfl
@[simp] theorem exec_addI (d : BitVec 4) (a : BitVec 4) (i : BitVec 18) : exec (.addI d a i) s = execAddI d a i s := rfl
@[simp] theorem exec_andI (d : BitVec 4) (a : BitVec 4) (i : BitVec 18) : exec (.andI d a i) s = execAndI d a i s := rfl
@[simp] theorem exec_orI (d : BitVec 4) (a : BitVec 4) (i : BitVec 18) : exec (.orI d a i) s = execOrI d a i s := rfl
@[simp] theorem exec_xorI (d : BitVec 4) (a : BitVec 4) (i : BitVec 18) : exec (.xorI d a i) s = execXorI d a i s := rfl
@[simp] theorem exec_shlI (d : BitVec 4) (a : BitVec 4) (n : BitVec 6) : exec (.shlI d a n) s = execShlI d a n s := rfl
@[simp] theorem exec_shrI (d : BitVec 4) (a : BitVec 4) (n : BitVec 6) : exec (.shrI d a n) s = execShrI d a n s := rfl
@[simp] theorem exec_sarI (d : BitVec 4) (a : BitVec 4) (n : BitVec 6) : exec (.sarI d a n) s = execSarI d a n s := rfl
@[simp] theorem exec_sltI (d : BitVec 4) (a : BitVec 4) (i : BitVec 17) : exec (.sltI d a i) s = execSltI d a i s := rfl
@[simp] theorem exec_sltuI (d : BitVec 4) (a : BitVec 4) (i : BitVec 17) : exec (.sltuI d a i) s = execSltuI d a i s := rfl
@[simp] theorem exec_beq (a : BitVec 4) (b : BitVec 4) (o : BitVec 15) : exec (.beq a b o) s = execBeq a b o s := rfl
@[simp] theorem exec_bne (a : BitVec 4) (b : BitVec 4) (o : BitVec 15) : exec (.bne a b o) s = execBne a b o s := rfl
@[simp] theorem exec_blt (a : BitVec 4) (b : BitVec 4) (o : BitVec 15) : exec (.blt a b o) s = execBlt a b o s := rfl
@[simp] theorem exec_bge (a : BitVec 4) (b : BitVec 4) (o : BitVec 15) : exec (.bge a b o) s = execBge a b o s := rfl
@[simp] theorem exec_bltu (a : BitVec 4) (b : BitVec 4) (o : BitVec 15) : exec (.bltu a b o) s = execBltu a b o s := rfl
@[simp] theorem exec_bgeu (a : BitVec 4) (b : BitVec 4) (o : BitVec 15) : exec (.bgeu a b o) s = execBgeu a b o s := rfl
@[simp] theorem exec_bz (a : BitVec 4) (o : BitVec 19) : exec (.bz a o) s = execBz a o s := rfl
@[simp] theorem exec_bnz (a : BitVec 4) (o : BitVec 19) : exec (.bnz a o) s = execBnz a o s := rfl
@[simp] theorem exec_jmp (o : BitVec 26) : exec (.jmp o) s = execJmp o s := rfl
@[simp] theorem exec_call (o : BitVec 26) : exec (.call o) s = execCall o s := rfl
@[simp] theorem exec_jr (a : BitVec 4) : exec (.jr a) s = execJr a s := rfl
@[simp] theorem exec_callr (a : BitVec 4) : exec (.callr a) s = execCallr a s := rfl
@[simp] theorem exec_ret : exec .ret s = execRet s := rfl
@[simp] theorem exec_yield : exec .yield s = execYield s := rfl
@[simp] theorem exec_exit : exec .exit s = execExit s := rfl
@[simp] theorem exec_trap : exec .trap s = execTrap s := rfl
@[simp] theorem exec_nop : exec .nop s = execNop s := rfl
@[simp] theorem exec_hintImm (p : BitVec 24) : exec (.hintImm p) s = execHintImm p s := rfl
@[simp] theorem exec_hintMod (p : BitVec 24) : exec (.hintMod p) s = execHintMod p s := rfl
@[simp] theorem exec_hintSched (p : BitVec 24) : exec (.hintSched p) s = execHintSched p s := rfl
@[simp] theorem exec_ldB (d : BitVec 4) (b : BitVec 4) (o : BitVec 11) (l : BitVec 4) : exec (.ldB d b o l) s = execLdB d b o l s := rfl
@[simp] theorem exec_ldBs (d : BitVec 4) (b : BitVec 4) (o : BitVec 11) (l : BitVec 4) : exec (.ldBs d b o l) s = execLdBs d b o l s := rfl
@[simp] theorem exec_ldH (d : BitVec 4) (b : BitVec 4) (o : BitVec 11) (l : BitVec 4) : exec (.ldH d b o l) s = execLdH d b o l s := rfl
@[simp] theorem exec_ldHs (d : BitVec 4) (b : BitVec 4) (o : BitVec 11) (l : BitVec 4) : exec (.ldHs d b o l) s = execLdHs d b o l s := rfl
@[simp] theorem exec_ldW (d : BitVec 4) (b : BitVec 4) (o : BitVec 11) (l : BitVec 4) : exec (.ldW d b o l) s = execLdW d b o l s := rfl
@[simp] theorem exec_ldWs (d : BitVec 4) (b : BitVec 4) (o : BitVec 11) (l : BitVec 4) : exec (.ldWs d b o l) s = execLdWs d b o l s := rfl
@[simp] theorem exec_ldD (d : BitVec 4) (b : BitVec 4) (o : BitVec 11) (l : BitVec 4) : exec (.ldD d b o l) s = execLdD d b o l s := rfl
@[simp] theorem exec_stB (d : BitVec 4) (b : BitVec 4) (o : BitVec 11) : exec (.stB d b o) s = execStB d b o s := rfl
@[simp] theorem exec_stH (d : BitVec 4) (b : BitVec 4) (o : BitVec 11) : exec (.stH d b o) s = execStH d b o s := rfl
@[simp] theorem exec_stW (d : BitVec 4) (b : BitVec 4) (o : BitVec 11) : exec (.stW d b o) s = execStW d b o s := rfl
@[simp] theorem exec_stD (d : BitVec 4) (b : BitVec 4) (o : BitVec 11) : exec (.stD d b o) s = execStD d b o s := rfl
@[simp] theorem exec_amoAdd (d : BitVec 4) (b : BitVec 4) (v : BitVec 4) (s1 : BitVec 3) (o : BitVec 4) (l : BitVec 4) : exec (.amoAdd d b v s1 o l) s = execAmoAdd d b v s1 o l s := rfl
@[simp] theorem exec_amoXchg (d : BitVec 4) (b : BitVec 4) (v : BitVec 4) (s1 : BitVec 3) (o : BitVec 4) (l : BitVec 4) : exec (.amoXchg d b v s1 o l) s = execAmoXchg d b v s1 o l s := rfl
@[simp] theorem exec_amoCas (d : BitVec 4) (b : BitVec 4) (v : BitVec 4) (s1 : BitVec 3) (o : BitVec 4) (l : BitVec 4) : exec (.amoCas d b v s1 o l) s = execAmoCas d b v s1 o l s := rfl
@[simp] theorem exec_amoMin (d : BitVec 4) (b : BitVec 4) (v : BitVec 4) (s1 : BitVec 3) (o : BitVec 4) (l : BitVec 4) : exec (.amoMin d b v s1 o l) s = execAmoMin d b v s1 o l s := rfl
@[simp] theorem exec_amoMax (d : BitVec 4) (b : BitVec 4) (v : BitVec 4) (s1 : BitVec 3) (o : BitVec 4) (l : BitVec 4) : exec (.amoMax d b v s1 o l) s = execAmoMax d b v s1 o l s := rfl
@[simp] theorem exec_amoAnd (d : BitVec 4) (b : BitVec 4) (v : BitVec 4) (s1 : BitVec 3) (o : BitVec 4) (l : BitVec 4) : exec (.amoAnd d b v s1 o l) s = execAmoAnd d b v s1 o l s := rfl
@[simp] theorem exec_amoOr (d : BitVec 4) (b : BitVec 4) (v : BitVec 4) (s1 : BitVec 3) (o : BitVec 4) (l : BitVec 4) : exec (.amoOr d b v s1 o l) s = execAmoOr d b v s1 o l s := rfl
@[simp] theorem exec_amoXor (d : BitVec 4) (b : BitVec 4) (v : BitVec 4) (s1 : BitVec 3) (o : BitVec 4) (l : BitVec 4) : exec (.amoXor d b v s1 o l) s = execAmoXor d b v s1 o l s := rfl
@[simp] theorem exec_bind (a : Src) (b : Src) : exec (.bind a b) s = execBind a b s := rfl
@[simp] theorem exec_unbind (a : Src) (b : Src) : exec (.unbind a b) s = execUnbind a b s := rfl
@[simp] theorem exec_acq (d : BitVec 4) (a : Src) (b : Src) : exec (.acq d a b) s = execAcq d a b s := rfl
@[simp] theorem exec_acqAll : exec .acqAll s = execAcqAll s := rfl
@[simp] theorem exec_rel (a : Src) (b : Src) : exec (.rel a b) s = execRel a b s := rfl
@[simp] theorem exec_fenceS : exec .fenceS s = execFenceS s := rfl
@[simp] theorem exec_fenceX (a : Src) (b : Src) : exec (.fenceX a b) s = execFenceX a b s := rfl
@[simp] theorem exec_landSet (a : Src) (b : Src) : exec (.landSet a b) s = execLandSet a b s := rfl
@[simp] theorem exec_vld (d : BitVec 5) (b : BitVec 4) (o : BitVec 11) (l : BitVec 4) : exec (.vld d b o l) s = execVld d b o l s := rfl
@[simp] theorem exec_vst (d : BitVec 5) (b : BitVec 4) (o : BitVec 11) : exec (.vst d b o) s = execVst d b o s := rfl
@[simp] theorem exec_vldp (d : BitVec 4) (b : BitVec 4) (o : BitVec 11) (l : BitVec 4) : exec (.vldp d b o l) s = execVldp d b o l s := rfl
@[simp] theorem exec_vstp (d : BitVec 4) (b : BitVec 4) (o : BitVec 11) : exec (.vstp d b o) s = execVstp d b o s := rfl
@[simp] theorem exec_vgather (w : BitVec 2) (d : BitVec 5) (a : Src) (b : BitVec 5) (l : BitVec 4) : exec (.vgather w d a b l) s = execVgather w d a b l s := rfl
@[simp] theorem exec_vscatter (w : BitVec 2) (d : BitVec 5) (a : Src) (b : BitVec 5) (l : BitVec 4) : exec (.vscatter w d a b l) s = execVscatter w d a b l s := rfl
@[simp] theorem exec_vadd (d : BitVec 5) (a : Src) (b : Src) (s1 : BitVec 2) (w : BitVec 2) : exec (.vadd d a b s1 w) s = execVadd d a b s1 w s := rfl
@[simp] theorem exec_vsub (d : BitVec 5) (a : Src) (b : Src) (s1 : BitVec 2) (w : BitVec 2) : exec (.vsub d a b s1 w) s = execVsub d a b s1 w s := rfl
@[simp] theorem exec_vmul (d : BitVec 5) (a : Src) (b : Src) (w : BitVec 2) : exec (.vmul d a b w) s = execVmul d a b w s := rfl
@[simp] theorem exec_vmulh (d : BitVec 5) (a : Src) (b : Src) (w : BitVec 2) : exec (.vmulh d a b w) s = execVmulh d a b w s := rfl
@[simp] theorem exec_vmin (d : BitVec 5) (a : Src) (b : Src) (w : BitVec 2) : exec (.vmin d a b w) s = execVmin d a b w s := rfl
@[simp] theorem exec_vmax (d : BitVec 5) (a : Src) (b : Src) (w : BitVec 2) : exec (.vmax d a b w) s = execVmax d a b w s := rfl
@[simp] theorem exec_vabs (d : BitVec 5) (a : Src) (s1 : BitVec 1) (w : BitVec 2) : exec (.vabs d a s1 w) s = execVabs d a s1 w s := rfl
@[simp] theorem exec_vneg (d : BitVec 5) (a : Src) (s1 : BitVec 1) (w : BitVec 2) : exec (.vneg d a s1 w) s = execVneg d a s1 w s := rfl
@[simp] theorem exec_vand (d : BitVec 5) (a : Src) (b : Src) : exec (.vand d a b) s = execVand d a b s := rfl
@[simp] theorem exec_vor (d : BitVec 5) (a : Src) (b : Src) : exec (.vor d a b) s = execVor d a b s := rfl
@[simp] theorem exec_vxor (d : BitVec 5) (a : Src) (b : Src) : exec (.vxor d a b) s = execVxor d a b s := rfl
@[simp] theorem exec_vandn (d : BitVec 5) (a : Src) (b : Src) : exec (.vandn d a b) s = execVandn d a b s := rfl
@[simp] theorem exec_vshl (d : BitVec 5) (a : Src) (b : Src) (w : BitVec 2) : exec (.vshl d a b w) s = execVshl d a b w s := rfl
@[simp] theorem exec_vshr (d : BitVec 5) (a : Src) (b : Src) (w : BitVec 2) : exec (.vshr d a b w) s = execVshr d a b w s := rfl
@[simp] theorem exec_vsar (d : BitVec 5) (a : Src) (b : Src) (w : BitVec 2) : exec (.vsar d a b w) s = execVsar d a b w s := rfl
@[simp] theorem exec_vcmpEq (d : BitVec 3) (a : Src) (b : Src) (w : BitVec 2) : exec (.vcmpEq d a b w) s = execVcmpEq d a b w s := rfl
@[simp] theorem exec_vcmpNe (d : BitVec 3) (a : Src) (b : Src) (w : BitVec 2) : exec (.vcmpNe d a b w) s = execVcmpNe d a b w s := rfl
@[simp] theorem exec_vcmpLt (d : BitVec 3) (a : Src) (b : Src) (w : BitVec 2) : exec (.vcmpLt d a b w) s = execVcmpLt d a b w s := rfl
@[simp] theorem exec_vcmpLe (d : BitVec 3) (a : Src) (b : Src) (w : BitVec 2) : exec (.vcmpLe d a b w) s = execVcmpLe d a b w s := rfl
@[simp] theorem exec_vcmpLtu (d : BitVec 3) (a : Src) (b : Src) (w : BitVec 2) : exec (.vcmpLtu d a b w) s = execVcmpLtu d a b w s := rfl
@[simp] theorem exec_vcmpLeu (d : BitVec 3) (a : Src) (b : Src) (w : BitVec 2) : exec (.vcmpLeu d a b w) s = execVcmpLeu d a b w s := rfl
@[simp] theorem exec_vfadd (d : BitVec 5) (a : Src) (b : Src) (f : BitVec 2) : exec (.vfadd d a b f) s = execVfadd d a b f s := rfl
@[simp] theorem exec_vfsub (d : BitVec 5) (a : Src) (b : Src) (f : BitVec 2) : exec (.vfsub d a b f) s = execVfsub d a b f s := rfl
@[simp] theorem exec_vfmul (d : BitVec 5) (a : Src) (b : Src) (f : BitVec 2) : exec (.vfmul d a b f) s = execVfmul d a b f s := rfl
@[simp] theorem exec_vfmin (d : BitVec 5) (a : Src) (b : Src) (f : BitVec 2) : exec (.vfmin d a b f) s = execVfmin d a b f s := rfl
@[simp] theorem exec_vfmax (d : BitVec 5) (a : Src) (b : Src) (f : BitVec 2) : exec (.vfmax d a b f) s = execVfmax d a b f s := rfl
@[simp] theorem exec_vrcp (d : BitVec 5) (a : Src) (f : BitVec 2) : exec (.vrcp d a f) s = execVrcp d a f s := rfl
@[simp] theorem exec_vrsqrt (d : BitVec 5) (a : Src) (f : BitVec 2) : exec (.vrsqrt d a f) s = execVrsqrt d a f s := rfl
@[simp] theorem exec_vfcmpEq (d : BitVec 3) (a : Src) (b : Src) (f : BitVec 2) : exec (.vfcmpEq d a b f) s = execVfcmpEq d a b f s := rfl
@[simp] theorem exec_vfcmpLt (d : BitVec 3) (a : Src) (b : Src) (f : BitVec 2) : exec (.vfcmpLt d a b f) s = execVfcmpLt d a b f s := rfl
@[simp] theorem exec_vfcmpLe (d : BitVec 3) (a : Src) (b : Src) (f : BitVec 2) : exec (.vfcmpLe d a b f) s = execVfcmpLe d a b f s := rfl
@[simp] theorem exec_vfcmpUn (d : BitVec 3) (a : Src) (b : Src) (f : BitVec 2) : exec (.vfcmpUn d a b f) s = execVfcmpUn d a b f s := rfl
@[simp] theorem exec_vfdiv (f : BitVec 2) (d : BitVec 5) (a : Src) (b : Src) (l : BitVec 4) : exec (.vfdiv f d a b l) s = execVfdiv f d a b l s := rfl
@[simp] theorem exec_vfsqrt (f : BitVec 2) (d : BitVec 5) (a : Src) (l : BitVec 4) : exec (.vfsqrt f d a l) s = execVfsqrt f d a l s := rfl
@[simp] theorem exec_vfma (d : BitVec 5) (a : BitVec 5) (b : Src) (c : Src) : exec (.vfma d a b c) s = execVfma d a b c s := rfl
@[simp] theorem exec_vfms (d : BitVec 5) (a : BitVec 5) (b : Src) (c : Src) : exec (.vfms d a b c) s = execVfms d a b c s := rfl
@[simp] theorem exec_vcvt (s1 : BitVec 3) (d : BitVec 5) (a : BitVec 5) (h : BitVec 1) (w : BitVec 2) (v : BitVec 2) (t : BitVec 3) : exec (.vcvt s1 d a h w v t) s = execVcvt s1 d a h w v t s := rfl
@[simp] theorem exec_vdec4 (d : BitVec 5) (a : BitVec 5) (g : BitVec 2) (l : BitVec 4) : exec (.vdec4 d a g l) s = execVdec4 d a g l s := rfl
@[simp] theorem exec_venc4 (d : BitVec 5) (a : BitVec 5) (g : BitVec 2) (t : BitVec 2) : exec (.venc4 d a g t) s = execVenc4 d a g t s := rfl
@[simp] theorem exec_vbcast (d : BitVec 5) (a : Src) (w : BitVec 2) : exec (.vbcast d a w) s = execVbcast d a w s := rfl
@[simp] theorem exec_vperm (d : BitVec 5) (a : Src) (b : Src) (w : BitVec 2) : exec (.vperm d a b w) s = execVperm d a b w s := rfl
@[simp] theorem exec_vshuf (d : BitVec 5) (a : Src) (b : Src) (w : BitVec 2) : exec (.vshuf d a b w) s = execVshuf d a b w s := rfl
@[simp] theorem exec_vslide (d : BitVec 5) (a : Src) (b : Src) (w : BitVec 2) : exec (.vslide d a b w) s = execVslide d a b w s := rfl
@[simp] theorem exec_vredadd (d : BitVec 4) (a : BitVec 5) (b : Src) (w : BitVec 2) : exec (.vredadd d a b w) s = execVredadd d a b w s := rfl
@[simp] theorem exec_vredmin (d : BitVec 4) (a : BitVec 5) (b : Src) (w : BitVec 2) : exec (.vredmin d a b w) s = execVredmin d a b w s := rfl
@[simp] theorem exec_vredmax (d : BitVec 4) (a : BitVec 5) (b : Src) (w : BitVec 2) : exec (.vredmax d a b w) s = execVredmax d a b w s := rfl
@[simp] theorem exec_vfredadd (d : BitVec 4) (a : BitVec 5) (b : Src) (f : BitVec 2) : exec (.vfredadd d a b f) s = execVfredadd d a b f s := rfl
@[simp] theorem exec_vcompress (d : BitVec 5) (a : Src) (b : Src) (w : BitVec 2) : exec (.vcompress d a b w) s = execVcompress d a b w s := rfl
@[simp] theorem exec_vexpand (d : BitVec 5) (a : Src) (b : Src) (w : BitVec 2) : exec (.vexpand d a b w) s = execVexpand d a b w s := rfl
@[simp] theorem exec_vpopc (d : BitVec 5) (a : Src) (w : BitVec 2) : exec (.vpopc d a w) s = execVpopc d a w s := rfl
@[simp] theorem exec_vclmul (d : BitVec 5) (a : Src) (b : Src) (w : BitVec 2) : exec (.vclmul d a b w) s = execVclmul d a b w s := rfl
@[simp] theorem exec_vprefixAdd (d : BitVec 5) (a : Src) (b : Src) (w : BitVec 2) : exec (.vprefixAdd d a b w) s = execVprefixAdd d a b w s := rfl
@[simp] theorem exec_pand (d : BitVec 3) (a : BitVec 3) (b : BitVec 3) : exec (.pand d a b) s = execPand d a b s := rfl
@[simp] theorem exec_por (d : BitVec 3) (a : BitVec 3) (b : BitVec 3) : exec (.por d a b) s = execPor d a b s := rfl
@[simp] theorem exec_pxor (d : BitVec 3) (a : BitVec 3) (b : BitVec 3) : exec (.pxor d a b) s = execPxor d a b s := rfl
@[simp] theorem exec_pnot (d : BitVec 3) (a : BitVec 3) : exec (.pnot d a) s = execPnot d a s := rfl
@[simp] theorem exec_pcnt (d : BitVec 4) (a : BitVec 3) : exec (.pcnt d a) s = execPcnt d a s := rfl
@[simp] theorem exec_pfirst (d : BitVec 3) (a : BitVec 3) : exec (.pfirst d a) s = execPfirst d a s := rfl
@[simp] theorem exec_pmovS (d : BitVec 4) (a : BitVec 3) : exec (.pmovS d a) s = execPmovS d a s := rfl
@[simp] theorem exec_psMov (d : BitVec 3) (a : BitVec 4) : exec (.psMov d a) s = execPsMov d a s := rfl
@[simp] theorem exec_vsel (d : BitVec 5) (a : BitVec 5) (b : Src) (c : Src) : exec (.vsel d a b c) s = execVsel d a b c s := rfl
@[simp] theorem exec_mma (a : BitVec 4) (b : BitVec 4) (o : BitVec 4) (m : BitVec 6) (l : BitVec 4) : exec (.mma a b o m l) s = execMma a b o m l s := rfl
@[simp] theorem exec_mmaR (a : BitVec 4) (d : BitVec 4) (m : BitVec 6) (l : BitVec 4) : exec (.mmaR a d m l) s = execMmaR a d m l s := rfl
@[simp] theorem exec_mmaP (a : BitVec 4) (d : BitVec 4) (m : BitVec 6) (l : BitVec 4) : exec (.mmaP a d m l) s = execMmaP a d m l s := rfl
@[simp] theorem exec_accZero (l : BitVec 4) : exec (.accZero l) s = execAccZero l s := rfl
@[simp] theorem exec_accLd (n : BitVec 4) (l : BitVec 4) : exec (.accLd n l) s = execAccLd n l s := rfl
@[simp] theorem exec_accSt (n : BitVec 4) (l : BitVec 4) : exec (.accSt n l) s = execAccSt n l s := rfl
@[simp] theorem exec_mxOpen (d : BitVec 4) (a : Src) (l : BitVec 4) : exec (.mxOpen d a l) s = execMxOpen d a l s := rfl
@[simp] theorem exec_mxClose (d : BitVec 4) (a : Src) (l : BitVec 4) : exec (.mxClose d a l) s = execMxClose d a l s := rfl
@[simp] theorem exec_mxRing (d : BitVec 4) (a : Src) (b : Src) (l : BitVec 4) : exec (.mxRing d a b l) s = execMxRing d a b l s := rfl
@[simp] theorem exec_bufSet (n : BitVec 4) (s1 : BitVec 4) : exec (.bufSet n s1) s = execBufSet n s1 s := rfl
@[simp] theorem exec_bufAdvP (n : BitVec 4) (s1 : BitVec 4) : exec (.bufAdvP n s1) s = execBufAdvP n s1 s := rfl
@[simp] theorem exec_bufAdvC (n : BitVec 4) (s1 : BitVec 4) : exec (.bufAdvC n s1) s = execBufAdvC n s1 s := rfl
@[simp] theorem exec_bufQ (d : BitVec 4) (n : BitVec 4) : exec (.bufQ d n) s = execBufQ d n s := rfl
@[simp] theorem exec_cpWait (d : BitVec 4) (c : BitVec 3) (m : BitVec 4) (t : BitVec 1) (s1 : BitVec 2) (l : BitVec 4) : exec (.cpWait d c m t s1 l) s = execCpWait d c m t s1 l s := rfl
@[simp] theorem exec_cpPtr (d : BitVec 4) (c : BitVec 3) (l : BitVec 4) : exec (.cpPtr d c l) s = execCpPtr d c l s := rfl
@[simp] theorem exec_cpInv (l : BitVec 4) : exec (.cpInv l) s = execCpInv l s := rfl
@[simp] theorem exec_fork (a : Src) (b : Src) : exec (.fork a b) s = execFork a b s := rfl
@[simp] theorem exec_join (a : Src) : exec (.join a) s = execJoin a s := rfl
@[simp] theorem exec_migrate (a : Src) : exec (.migrate a) s = execMigrate a s := rfl
@[simp] theorem exec_texit (a : Src) : exec (.texit a) s = execTexit a s := rfl
@[simp] theorem exec_spawnG (d : BitVec 4) (a : Src) : exec (.spawnG d a) s = execSpawnG d a s := rfl
@[simp] theorem exec_send (d : BitVec 4) (a : Src) (b : Src) (l : BitVec 4) : exec (.send d a b l) s = execSend d a b l s := rfl
@[simp] theorem exec_sendh (d : BitVec 4) (a : Src) (b : Src) (l : BitVec 4) : exec (.sendh d a b l) s = execSendh d a b l s := rfl
@[simp] theorem exec_mend : exec .mend s = execMend s := rfl
@[simp] theorem exec_wfm (d : BitVec 4) (a : Src) (b : Src) : exec (.wfm d a b) s = execWfm d a b s := rfl
@[simp] theorem exec_fbar (c : BitVec 6) (l : BitVec 4) : exec (.fbar c l) s = execFbar c l s := rfl
@[simp] theorem exec_fbarM (c : BitVec 6) (l : BitVec 4) : exec (.fbarM c l) s = execFbarM c l s := rfl
@[simp] theorem exec_fbcast (c : BitVec 6) (d : BitVec 4) (l : BitVec 4) : exec (.fbcast c d l) s = execFbcast c d l s := rfl
@[simp] theorem exec_fbcastTx (c : BitVec 6) (s1 : BitVec 4) (d : BitVec 4) (l : BitVec 4) : exec (.fbcastTx c s1 d l) s = execFbcastTx c s1 d l s := rfl
@[simp] theorem exec_fcomb (c : BitVec 6) (s1 : BitVec 4) (d : BitVec 4) (o : BitVec 5) (l : BitVec 4) : exec (.fcomb c s1 d o l) s = execFcomb c s1 d o l s := rfl
@[simp] theorem exec_fpoll (c : BitVec 6) (d : BitVec 4) (l : BitVec 4) : exec (.fpoll c d l) s = execFpoll c d l s := rfl
@[simp] theorem exec_get (d : BitVec 4) (a : Src) (b : Src) (l : BitVec 4) : exec (.get d a b l) s = execGet d a b l s := rfl
@[simp] theorem exec_put (d : BitVec 4) (a : Src) (b : Src) (l : BitVec 4) : exec (.put d a b l) s = execPut d a b l s := rfl
@[simp] theorem exec_getv (d : BitVec 5) (a : Src) (b : Src) (l : BitVec 4) : exec (.getv d a b l) s = execGetv d a b l s := rfl
@[simp] theorem exec_putv (d : BitVec 5) (a : Src) (b : Src) (l : BitVec 4) : exec (.putv d a b l) s = execPutv d a b l s := rfl
@[simp] theorem exec_equiv (a : Src) (l : BitVec 4) : exec (.equiv a l) s = execEquiv a l s := rfl
@[simp] theorem exec_chsw (d : BitVec 4) (a : Src) (b : Src) (l : BitVec 4) : exec (.chsw d a b l) s = execChsw d a b l s := rfl
@[simp] theorem exec_map (a : Src) (b : Src) (l : BitVec 4) : exec (.map a b l) s = execMap a b l s := rfl
@[simp] theorem exec_grant (a : Src) (b : Src) (l : BitVec 4) : exec (.grant a b l) s = execGrant a b l s := rfl
@[simp] theorem exec_unmap (a : Src) (b : Src) (l : BitVec 4) : exec (.unmap a b l) s = execUnmap a b l s := rfl
@[simp] theorem exec_unmapSelf (a : Src) (b : Src) (l : BitVec 4) : exec (.unmapSelf a b l) s = execUnmapSelf a b l s := rfl
@[simp] theorem exec_mapw (d : BitVec 4) (a : Src) (l : BitVec 4) : exec (.mapw d a l) s = execMapw d a l s := rfl
@[simp] theorem exec_csrr (s1 : BitVec 4) (c : BitVec 12) : exec (.csrr s1 c) s = execCsrr s1 c s := rfl
@[simp] theorem exec_csrw (s1 : BitVec 4) (c : BitVec 12) : exec (.csrw s1 c) s = execCsrw s1 c s := rfl
@[simp] theorem exec_eret : exec .eret s = execEret s := rfl
@[simp] theorem exec_pause : exec .pause s = execPause s := rfl
@[simp] theorem exec_brk : exec .brk s = execBrk s := rfl
@[simp] theorem exec_halt : exec .halt s = execHalt s := rfl
@[simp] theorem exec_accownWrite (b : Nat) : exec (.accownWrite b) s = execAccownWrite b s := rfl
@[simp] theorem exec_bindtabWrite (v : Word) : exec (.bindtabWrite v) s = execBindtabWrite v s := rfl
@[simp] theorem exec_watchdogWrite (v : Word) : exec (.watchdogWrite v) s = execWatchdogWrite v s := rfl
@[simp] theorem exec_fpstatWrite (v : Word) : exec (.fpstatWrite v) s = execFpstatWrite v s := rfl
@[simp] theorem exec_faultReply (n : Nat) : exec (.faultReply n) s = execFaultReply n s := rfl
@[simp] theorem exec_lateFaultTrap (b : Nat) (k : Nat) : exec (.lateFaultTrap b k) s = execLateFaultTrap b k s := rfl
@[simp] theorem exec_watchdogDue (b : Nat) (k : Nat) : exec (.watchdogDue b k) s = execWatchdogDue b k s := rfl
@[simp] theorem exec_watchdog (b : Nat) (k : Nat) : exec (.watchdog b k) s = execWatchdog b k s := rfl
@[simp] theorem exec_preemptionRequest (l : Nat) : exec (.preemptionRequest l) s = execPreemptionRequest l s := rfl
@[simp] theorem exec_deadlineExpiry (b : Nat) (k : Nat) : exec (.deadlineExpiry b k) s = execDeadlineExpiry b k s := rfl
@[simp] theorem exec_forcedSave (b : Nat) (k : Nat) : exec (.forcedSave b k) s = execForcedSave b k s := rfl
@[simp] theorem exec_remoteStoreArrival (b : Nat) (n : Nat) : exec (.remoteStoreArrival b n) s = execRemoteStoreArrival b n s := rfl
@[simp] theorem exec_storeAcknowledge (b : Nat) (n : Nat) : exec (.storeAcknowledge b n) s = execStoreAcknowledge b n s := rfl
@[simp] theorem exec_loadResponse (b : Nat) (op : Nat) (i : Nat) : exec (.loadResponse b op i) s = execLoadResponse b op i s := rfl
@[simp] theorem exec_rrbEviction (b : Nat) (n : Nat) : exec (.rrbEviction b n) s = execRrbEviction b n s := rfl
@[simp] theorem exec_ringEntryComplete (b : Nat) (op : Nat) : exec (.ringEntryComplete b op) s = execRingEntryComplete b op s := rfl
@[simp] theorem exec_matrixCommandFire (b : Nat) : exec (.matrixCommandFire b) s = execMatrixCommandFire b s := rfl
@[simp] theorem exec_matrixCommandComplete (b : Nat) : exec (.matrixCommandComplete b) s = execMatrixCommandComplete b s := rfl
@[simp] theorem exec_mmaRRequest (n : Nat) : exec (.mmaRRequest n) s = execMmaRRequest n s := rfl
@[simp] theorem exec_mmaPRequest (n : Nat) : exec (.mmaPRequest n) s = execMmaPRequest n s := rfl
@[simp] theorem exec_capabilityAnswer (b : Nat) (op : Nat) : exec (.capabilityAnswer b op) s = execCapabilityAnswer b op s := rfl
@[simp] theorem exec_copyStart (b : Nat) (n : Nat) : exec (.copyStart b n) s = execCopyStart b n s := rfl
@[simp] theorem exec_copyBegin (b : Nat) (c : Nat) : exec (.copyBegin b c) s = execCopyBegin b c s := rfl
@[simp] theorem exec_copyChunk (b : Nat) (c : Nat) (i : Nat) : exec (.copyChunk b c i) s = execCopyChunk b c i s := rfl
@[simp] theorem exec_copyComplete (b : Nat) (c : Nat) : exec (.copyComplete b c) s = execCopyComplete b c s := rfl
@[simp] theorem exec_messageArrival (n : Nat) : exec (.messageArrival n) s = execMessageArrival n s := rfl
@[simp] theorem exec_sendStatus (b : Nat) (op : Nat) : exec (.sendStatus b op) s = execSendStatus b op s := rfl
@[simp] theorem exec_heapReplay (b : Nat) : exec (.heapReplay b) s = execHeapReplay b s := rfl
@[simp] theorem exec_handlerStart (b : Nat) : exec (.handlerStart b) s = execHandlerStart b s := rfl
@[simp] theorem exec_handlerTrap (b : Nat) : exec (.handlerTrap b) s = execHandlerTrap b s := rfl
@[simp] theorem exec_migrateArrival (n : Nat) (k : Nat) : exec (.migrateArrival n k) s = execMigrateArrival n k s := rfl
@[simp] theorem exec_strandDispatch (b : Nat) (k : Nat) (blk : Nat) : exec (.strandDispatch b k blk) s = execStrandDispatch b k blk s := rfl
@[simp] theorem exec_stealRequest (b : Nat) (k : Nat) (blk : Nat) : exec (.stealRequest b k blk) s = execStealRequest b k blk s := rfl
@[simp] theorem exec_stealAnswer (b : Nat) (k : Nat) : exec (.stealAnswer b k) s = execStealAnswer b k s := rfl
@[simp] theorem exec_stealBackoffExpiry (b : Nat) (k : Nat) : exec (.stealBackoffExpiry b k) s = execStealBackoffExpiry b k s := rfl
@[simp] theorem exec_blockDeparture (b : Nat) (k : Nat) : exec (.blockDeparture b k) s = execBlockDeparture b k s := rfl
@[simp] theorem exec_blockResolve (b : Nat) (c : Nat) : exec (.blockResolve b c) s = execBlockResolve b c s := rfl
@[simp] theorem exec_acqRetry (b : Nat) (c : Nat) : exec (.acqRetry b c) s = execAcqRetry b c s := rfl
@[simp] theorem exec_fbarMArrival (b : Nat) (op : Nat) : exec (.fbarMArrival b op) s = execFbarMArrival b op s := rfl
@[simp] theorem exec_footingRelease (d : Nat) (c : Nat) : exec (.footingRelease d c) s = execFootingRelease d c s := rfl
@[simp] theorem exec_coursePreempted (l : Nat) : exec (.coursePreempted l) s = execCoursePreempted l s := rfl
@[simp] theorem exec_launchResume (l : Nat) : exec (.launchResume l) s = execLaunchResume l s := rfl
@[simp] theorem exec_launch (q : Nat) : exec (.launch q) s = execLaunch q s := rfl
@[simp] theorem exec_launchPlacement (l : Nat) (org : Nat) (tag : Nat) (win : Nat) : exec (.launchPlacement l org tag win) s = execLaunchPlacement l org tag win s := rfl
@[simp] theorem exec_launchComplete (l : Nat) : exec (.launchComplete l) s = execLaunchComplete l s := rfl
@[simp] theorem exec_doorbell (q : Nat) (off : Nat) (size : Nat) (v : Word) : exec (.doorbell q off size v) s = execDoorbell q off size v s := rfl
@[simp] theorem exec_signalStore (q : Nat) : exec (.signalStore q) s = execSignalStore q s := rfl
@[simp] theorem exec_signalAdd (q : Nat) : exec (.signalAdd q) s = execSignalAdd q s := rfl
@[simp] theorem exec_signalLandSet (q : Nat) : exec (.signalLandSet q) s = execSignalLandSet q s := rfl
@[simp] theorem exec_waitCounter (q : Nat) : exec (.waitCounter q) s = execWaitCounter q s := rfl
@[simp] theorem exec_waitLanding (q : Nat) : exec (.waitLanding q) s = execWaitLanding q s := rfl
@[simp] theorem exec_waitSatisfied (q : Nat) : exec (.waitSatisfied q) s = execWaitSatisfied q s := rfl
@[simp] theorem exec_mark (q : Nat) : exec (.mark q) s = execMark q s := rfl
@[simp] theorem exec_queueCreate (sp : Nat) (ring : Nat) (lg : Nat) (head : Nat) (prio : Nat) (tok : Nat) : exec (.queueCreate sp ring lg head prio tok) s = execQueueCreate sp ring lg head prio tok s := rfl
@[simp] theorem exec_queueReset (q : Nat) : exec (.queueReset q) s = execQueueReset q s := rfl
@[simp] theorem exec_slotTick : exec .slotTick s = execSlotTick s := rfl
@[simp] theorem exec_chainSwitchComplete (b : Nat) (r : Nat) : exec (.chainSwitchComplete b r) s = execChainSwitchComplete b r s := rfl
@[simp] theorem exec_chswLimitExpiry (b : Nat) (r : Nat) : exec (.chswLimitExpiry b r) s = execChswLimitExpiry b r s := rfl
@[simp] theorem exec_schedulerSwitchRequest (b : Nat) (r : Nat) (form : Nat) : exec (.schedulerSwitchRequest b r form) s = execSchedulerSwitchRequest b r form s := rfl
@[simp] theorem exec_mapRequest (n : Nat) : exec (.mapRequest n) s = execMapRequest n s := rfl
@[simp] theorem exec_shootdownInvalidate (b : Nat) (w : Nat) : exec (.shootdownInvalidate b w) s = execShootdownInvalidate b w s := rfl
@[simp] theorem exec_shootdownAcknowledge (b : Nat) (w : Nat) : exec (.shootdownAcknowledge b w) s = execShootdownAcknowledge b w s := rfl
@[simp] theorem exec_withdrawalPoint (w : Nat) : exec (.withdrawalPoint w) s = execWithdrawalPoint w s := rfl
@[simp] theorem exec_spaceCreate (num : Nat) (world : Nat) (tmpl : Nat) (tok : Nat) : exec (.spaceCreate num world tmpl tok) s = execSpaceCreate num world tmpl tok s := rfl
@[simp] theorem exec_spaceTeardown (sp : Nat) (tok : Nat) : exec (.spaceTeardown sp tok) s = execSpaceTeardown sp tok s := rfl
@[simp] theorem exec_heatSweep : exec .heatSweep s = execHeatSweep s := rfl
@[simp] theorem exec_ownershipTransferToA (r : Nat) : exec (.ownershipTransferToA r) s = execOwnershipTransferToA r s := rfl
@[simp] theorem exec_transferAnswer (r : Nat) : exec (.transferAnswer r) s = execTransferAnswer r s := rfl
@[simp] theorem exec_ownershipTimeout (r : Nat) : exec (.ownershipTimeout r) s = execOwnershipTimeout r s := rfl
@[simp] theorem exec_ownershipTransferToP (r : Nat) : exec (.ownershipTransferToP r) s = execOwnershipTransferToP r s := rfl
@[simp] theorem exec_hostAtomicUnsupported (b : Nat) (op : Nat) : exec (.hostAtomicUnsupported b op) s = execHostAtomicUnsupported b op s := rfl
@[simp] theorem exec_fallbackAnswer (tag : Nat) (v : Word) : exec (.fallbackAnswer tag v) s = execFallbackAnswer tag v s := rfl
@[simp] theorem exec_flushRead (p : Nat) : exec (.flushRead p) s = execFlushRead p s := rfl
@[simp] theorem exec_flushReadComplete (p : Nat) : exec (.flushReadComplete p) s = execFlushReadComplete p s := rfl
@[simp] theorem exec_heartbeatWrite (d : Nat) (v : Word) : exec (.heartbeatWrite d v) s = execHeartbeatWrite d v s := rfl
@[simp] theorem exec_heartbeatTimeout : exec .heartbeatTimeout s = execHeartbeatTimeout s := rfl
@[simp] theorem exec_pairMismatch (d : Nat) : exec (.pairMismatch d) s = execPairMismatch d s := rfl
@[simp] theorem exec_livenessWrite (v : Word) : exec (.livenessWrite v) s = execLivenessWrite v s := rfl
@[simp] theorem exec_hostLoss : exec .hostLoss s = execHostLoss s := rfl
@[simp] theorem exec_queryState : exec .queryState s = execQueryState s := rfl
@[simp] theorem exec_resync : exec .resync s = execResync s := rfl
@[simp] theorem exec_linkDown (p : Nat) : exec (.linkDown p) s = execLinkDown p s := rfl
@[simp] theorem exec_linkUp (p : Nat) : exec (.linkUp p) s = execLinkUp p s := rfl
@[simp] theorem exec_extentAdd (base : Nat) (len : Nat) (shared : Bool) : exec (.extentAdd base len shared) s = execExtentAdd base len shared s := rfl
@[simp] theorem exec_extentRelease (n : Nat) : exec (.extentRelease n) s = execExtentRelease n s := rfl
@[simp] theorem exec_extentForcedRemoval (n : Nat) : exec (.extentForcedRemoval n) s = execExtentForcedRemoval n s := rfl
@[simp] theorem exec_farLinePoison (a : Nat) : exec (.farLinePoison a) s = execFarLinePoison a s := rfl
@[simp] theorem exec_load (sp : Nat) (addr : Nat) (len : Nat) (va : Nat) (pa : Nat) (tok : Nat) : exec (.load sp addr len va pa tok) s = execLoad sp addr len va pa tok s := rfl
@[simp] theorem exec_sessionEstablish (w : Nat) : exec (.sessionEstablish w) s = execSessionEstablish w s := rfl
@[simp] theorem exec_keySet (w : Nat) (slot : Nat) (usage : Nat) (key : Nat) : exec (.keySet w slot usage key) s = execKeySet w slot usage key s := rfl
@[simp] theorem exec_keyClear (w : Nat) (slot : Nat) : exec (.keyClear w slot) s = execKeyClear w slot s := rfl
@[simp] theorem exec_protect (w : Nat) (base : Nat) (len : Nat) (mode : Nat) (slot : Nat) : exec (.protect w base len mode slot) s = execProtect w base len mode slot s := rfl
@[simp] theorem exec_seal (w : Nat) (base : Nat) (len : Nat) (slot : Nat) (tags : Nat) : exec (.seal w base len slot tags) s = execSeal w base len slot tags s := rfl
@[simp] theorem exec_lock (w : Nat) (mask : Nat) : exec (.lock w mask) s = execLock w mask s := rfl
@[simp] theorem exec_tokens (w : Nat) (count : Nat) : exec (.tokens w count) s = execTokens w count s := rfl
@[simp] theorem exec_attest (w : Nat) (nonce : Nat) : exec (.attest w nonce) s = execAttest w nonce s := rfl
@[simp] theorem exec_migrateOut (w : Nat) (dest : Nat) : exec (.migrateOut w dest) s = execMigrateOut w dest s := rfl
@[simp] theorem exec_receipt (w : Nat) (r : Nat) : exec (.receipt w r) s = execReceipt w r s := rfl
@[simp] theorem exec_release (w : Nat) : exec (.release w) s = execRelease w s := rfl
@[simp] theorem exec_sessionTimeout (w : Nat) : exec (.sessionTimeout w) s = execSessionTimeout w s := rfl
@[simp] theorem exec_graceExpiry (w : Nat) : exec (.graceExpiry w) s = execGraceExpiry w s := rfl
@[simp] theorem exec_worldAssign (d : Nat) (w : Nat) : exec (.worldAssign d w) s = execWorldAssign d w s := rfl
@[simp] theorem exec_clearRoutine (d : Nat) : exec (.clearRoutine d) s = execClearRoutine d s := rfl
@[simp] theorem exec_clearTimeout (d : Nat) : exec (.clearTimeout d) s = execClearTimeout d s := rfl
@[simp] theorem exec_migrationActive (w : Nat) : exec (.migrationActive w) s = execMigrationActive w s := rfl
@[simp] theorem exec_abortedLost (w : Nat) : exec (.abortedLost w) s = execAbortedLost w s := rfl
@[simp] theorem exec_moduleReset (failed : List Nat) : exec (.moduleReset failed) s = execModuleReset failed s := rfl
@[simp] theorem exec_routerFault (b : Nat) : exec (.routerFault b) s = execRouterFault b s := rfl
@[simp] theorem exec_sensorSample (d : Nat) (i : Nat) (kind : Nat) (v : Nat) : exec (.sensorSample d i kind v) s = execSensorSample d i kind v s := rfl
@[simp] theorem exec_droopCutExpiry (d : Nat) : exec (.droopCutExpiry d) s = execDroopCutExpiry d s := rfl
@[simp] theorem exec_powerPeriod (demand : List Nat) : exec (.powerPeriod demand) s = execPowerPeriod demand s := rfl
@[simp] theorem exec_moduleCapSet (cap : Nat) : exec (.moduleCapSet cap) s = execModuleCapSet cap s := rfl
@[simp] theorem exec_snapshotTrigger : exec .snapshotTrigger s = execSnapshotTrigger s := rfl
@[simp] theorem exec_snapshotLatch : exec .snapshotLatch s = execSnapshotLatch s := rfl
@[simp] theorem exec_snapshotRead (n : Nat) : exec (.snapshotRead n) s = execSnapshotRead n s := rfl
@[simp] theorem exec_traceControlWrite (b : Nat) (off : Nat) (v : Word) : exec (.traceControlWrite b off v) s = execTraceControlWrite b off v s := rfl
@[simp] theorem exec_traceClear (b : Nat) : exec (.traceClear b) s = execTraceClear b s := rfl
@[simp] theorem exec_stop (b : Nat) (k : Nat) : exec (.stop b k) s = execStop b k s := rfl
@[simp] theorem exec_stopTaken (b : Nat) (k : Nat) : exec (.stopTaken b k) s = execStopTaken b k s := rfl
@[simp] theorem exec_resume (b : Nat) (k : Nat) : exec (.resume b k) s = execResume b k s := rfl
@[simp] theorem exec_readReg (b : Nat) (k : Nat) : exec (.readReg b k) s = execReadReg b k s := rfl
@[simp] theorem exec_writeReg (b : Nat) (k : Nat) : exec (.writeReg b k) s = execWriteReg b k s := rfl
@[simp] theorem exec_readMem (b : Nat) : exec (.readMem b) s = execReadMem b s := rfl
@[simp] theorem exec_illegalOpcode (w : IWord) : exec (.illegalOpcode w) s = execIllegalOpcode w s := rfl
@[simp] theorem exec_pauseExpiry (b : Nat) (k : Nat) : exec (.pauseExpiry b k) s = execPauseExpiry b k s := rfl
@[simp] theorem exec_bar2Access (a : Nat) (write : Bool) (v : Word) : exec (.bar2Access a write v) s = execBar2Access a write v s := rfl
@[simp] theorem exec_regionHoldExpiry (r : Nat) : exec (.regionHoldExpiry r) s = execRegionHoldExpiry r s := rfl
@[simp] theorem exec_uncorrectableSoftError (a : Nat) : exec (.uncorrectableSoftError a) s = execUncorrectableSoftError a s := rfl
@[simp] theorem exec_farLineRepair (a : Nat) : exec (.farLineRepair a) s = execFarLineRepair a s := rfl
@[simp] theorem exec_powerGating (b : Nat) : exec (.powerGating b) s = execPowerGating b s := rfl
@[simp] theorem exec_faultServiceTargetSet (sp : Nat) (kind : Nat) (a : Nat) (tsp : Nat) (k : Nat) (policy : Nat) (tok : Nat) : exec (.faultServiceTargetSet sp kind a tsp k policy tok) s = execFaultServiceTargetSet sp kind a tsp k policy tok s := rfl
@[simp] theorem exec_runtimeEntrySet (sp : Nat) (va : Word) : exec (.runtimeEntrySet sp va) s = execRuntimeEntrySet sp va s := rfl
@[simp] theorem exec_closedNodeRemoval (n : Nat) : exec (.closedNodeRemoval n) s = execClosedNodeRemoval n s := rfl
@[simp] theorem exec_gracePeriodSet (w : Nat) (sec : Nat) : exec (.gracePeriodSet w sec) s = execGracePeriodSet w sec s := rfl
@[simp] theorem exec_sessionHeartbeat (w : Nat) : exec (.sessionHeartbeat w) s = execSessionHeartbeat w s := rfl

end Sys2Proof.Machine
end

