-- ==== Sys2Proof/Tests/Slice0.lean ====
section
/-! SUPPORT. Tests: the words of the spec's encodings, terms that are ill-formed, single steps on small states, and for every statement states
and operands that meet its hypotheses. -/

open Sys2Proof Sys2Proof.Machine

namespace Sys2Proof.Tests

set_option Elab.async false
set_option exponentiation.threshold 5000
set_option maxRecDepth 8000

/-! Small states: the reset state with one thing changed; strand 0 of brick 0 is to move. -/

/-- The root's nodes over HBM, host and peer memory and over the SRAM of bricks 0 and 1. -/
def few : List Node := rootNodes.take 4 ++ [sramNode 0, sramNode 1]
/-- The reset state with strand 0 of brick 0 changed, the host attached and few of the root's nodes. -/
def me (f : Strand → Strand) : State := { State.reset.modStrand 0 0 f with hostUp := true, nodes := few }
/-- The strand in service mode. -/
def inService (f : Strand → Strand) : State := me fun x => { f x with mode := .service }
/-- Scalar register n holds v. -/
def reg (n : Fin 16) (v : Word) (x : Strand) : Strand := { x with s := x.s.set n v }
/-- The state after an instruction or event that answers a next state. -/
def after (i : Instr) (s : State) : State := match exec i s with
  | .next t => t
  | _ => s
/-- A scalar register, a vector register and a literal as sources. -/
def r (n : BitVec 5) : Src := ⟨1, n⟩
def v (n : BitVec 5) : Src := ⟨0, n⟩
def k (n : BitVec 5) : Src := ⟨3, n⟩
/-- The message strand of brick 0 with a handler. -/
def onMessage : State := { State.reset.modStrand 0 4 (fun x => x) with cur := (0, 4) }

/-! Scalar instructions. -/

theorem test_add_wraps : (after (.add 3 (r 4) (r 5)) (me (reg 4 (BitVec.allOnes 64) ∘ reg 5 2))).me.sreg 3 = 1 := by decide
theorem test_sub_order : (after (.sub 3 (r 4) (r 5)) (me (reg 4 1 ∘ reg 5 3))).me.sreg 3 = -2 := by decide
theorem test_min_signed : (after (.min 3 (r 4) (r 5)) (me (reg 4 (-1) ∘ reg 5 3))).me.sreg 3 = -1 := by decide
theorem test_maxu_unsigned : (after (.maxu 3 (r 4) (r 5)) (me (reg 4 (-1) ∘ reg 5 3))).me.sreg 3 = -1 := by decide
theorem test_andn_inverts_the_second : (after (.andn 3 (r 4) (r 5)) (me (reg 4 0xFF ∘ reg 5 0x0F))).me.sreg 3 = 0xF0 := by decide
theorem test_slt_signed : (after (.slt 3 (r 4) (r 5)) (me (reg 4 (-1) ∘ reg 5 0))).me.sreg 3 = 1 := by decide
theorem test_sltu_unsigned : (after (.sltu 3 (r 4) (r 5)) (me (reg 4 (-1) ∘ reg 5 0))).me.sreg 3 = 0 := by decide
theorem test_sel_reads_the_destination : (after (.sel 3 (r 4) (r 5)) (me (reg 3 0 ∘ reg 4 7 ∘ reg 5 9))).me.sreg 3 = 9 := by decide
theorem test_sar_amount_mod_64 : (after (.sar 3 (r 4) (r 5)) (me (reg 4 (-8) ∘ reg 5 65))).me.sreg 3 = -4 := by decide
theorem test_rol : (after (.rol 3 (r 4) (r 5)) (me (reg 4 0x8000000000000001 ∘ reg 5 1))).me.sreg 3 = 3 := by decide
theorem test_mulh_signed : (after (.mulh 3 (r 4) (r 5)) (me (reg 4 (-1) ∘ reg 5 1))).me.sreg 3 = -1 := by decide
theorem test_mulhu_unsigned : (after (.mulhu 3 (r 4) (r 5)) (me (reg 4 (-1) ∘ reg 5 2))).me.sreg 3 = 1 := by decide
theorem test_div_by_zero : (after (.div 3 (r 4) (r 5)) (me (reg 4 7))).me.sreg 3 = -1 := by decide
theorem test_div_truncates : (after (.div 3 (r 4) (r 5)) (me (reg 4 (-7) ∘ reg 5 2))).me.sreg 3 = -3 := by decide
theorem test_rem_sign : (after (.rem 3 (r 4) (r 5)) (me (reg 4 (-7) ∘ reg 5 2))).me.sreg 3 = -1 := by decide
theorem test_rem_overflow : (after (.rem 3 (r 4) (r 5)) (me (reg 4 0x8000000000000000 ∘ reg 5 (-1)))).me.sreg 3 = 0 := by decide
theorem test_clz_of_zero : (after (.clz 3 (r 4)) (me id)).me.sreg 3 = 64 := by decide
theorem test_ctz : (after (.ctz 3 (r 4)) (me (reg 4 8))).me.sreg 3 = 3 := by decide
theorem test_popc : (after (.popc 3 (r 4)) (me (reg 4 0xF1))).me.sreg 3 = 5 := by decide
theorem test_clmul : (after (.clmul 3 (r 4) (r 5)) (me (reg 4 3 ∘ reg 5 3))).me.sreg 3 = 5 := by decide
theorem test_clmulh : (after (.clmulh 3 (r 4) (r 5)) (me (reg 4 0x8000000000000000 ∘ reg 5 2))).me.sreg 3 = 1 := by decide
theorem test_bswap : (after (.bswap 3 (r 4)) (me (reg 4 0x0102030405060708))).me.sreg 3 = 0x0807060504030201 := by decide
theorem test_addI_negative : (after (.addI 3 4 0x3FFFF) (me (reg 4 1))).me.sreg 3 = 0 := by decide
theorem test_sltuI_sign_extends : (after (.sltuI 3 4 0x1FFFF) (me (reg 4 1))).me.sreg 3 = 1 := by decide
theorem test_hint_imm_extends : (after (.addI 3 4 5) (me fun x => { x with hints := ⟨[1], none, none, some 0⟩ })).me.sreg 3 = 0x40005 := by decide
theorem test_literal_source : (after (.add 3 (k 31) (k 2)) (me id)).me.sreg 3 = 1 := by decide
theorem test_constant_source : (after (.add 3 ⟨2, 9⟩ (r 4)) ((me id).modBrick 0 fun y => { y with c := y.c.set 9 77 })).me.sreg 3 = 77 := by decide
theorem test_branch_goes_back : (after (.beq 4 5 0x7FFF) (me fun x => { x with pc := 8 })).me.pc = 4 := by decide
theorem test_branch_falls_through : (after (.bltu 4 5 2) (me (reg 4 (-1)))).me.pc = 4 := by decide
theorem test_call_links : (after (.call 4) (me id)).me.pc = 16 ∧ (after (.call 4) (me id)).me.sreg 14 = 4 := by decide
theorem test_jr_misaligned_traps : (after (.jr 4) (me (reg 4 6))).me.trapcause = BitVec.ofNat 10 Code.misaligned.num := by decide
theorem test_hint_fourth_orphan : (after (.hintSched 0) (me fun x => { x with hints := ⟨[1, 2], some 0, none, some 0⟩ })).me.trapcause = BitVec.ofNat 10 Code.hintOrphan.num := by decide
theorem test_hint_waits : (after (.hintImm 5) (me id)).me.hints = ⟨[5], none, none, some 0⟩ := by decide

/-- No instruction of part one has a trap of its encoding on a strand without hints, whatever its mode. -/
theorem witness_scalar : ∀ i ∈ ([.add 3 (r 4) (r 5), .sub 3 (r 4) (r 5), .min 3 (r 4) (r 5), .max 3 (r 4) (r 5), .minu 3 (r 4) (r 5), .maxu 3 (r 4) (r 5),
    .and 3 (r 4) (r 5), .or 3 (r 4) (r 5), .xor 3 (r 4) (r 5), .andn 3 (r 4) (r 5), .seq 3 (r 4) (r 5), .sne 3 (r 4) (r 5), .slt 3 (r 4) (r 5), .sltu 3 (r 4) (r 5),
    .sle 3 (r 4) (r 5), .sleu 3 (r 4) (r 5), .sel 3 (r 4) (r 5), .clz 3 (r 4), .ctz 3 (r 4), .popc 3 (r 4)] : List Instr), Accepts i (me id) := by decide
/-- Shifts, products, quotients: the operands of every clause. -/
theorem witness_products : (∀ i ∈ ([.shl 3 (r 4) (r 5), .shr 3 (r 4) (r 5), .sar 3 (r 4) (r 5), .rol 3 (r 4) (r 5), .mul 3 (r 4) (r 5), .mulh 3 (r 4) (r 5), .mulhu 3 (r 4) (r 5),
    .div 3 (r 4) (r 5), .rem 3 (r 4) (r 5), .divu 3 (r 4) (r 5), .remu 3 (r 4) (r 5), .clmul 3 (r 4) (r 5), .clmulh 3 (r 4) (r 5), .bswap 3 (r 4)] : List Instr), Accepts i (me id)) ∧
    (let s := me id; s.srcB (r 5) = 0) ∧ (let s := me (reg 4 0x8000000000000000 ∘ reg 5 (-1)); (s.srcA (r 4) (r 5)).toInt = -2 ^ 63 ∧ (s.srcB (r 5)).toInt = -1) ∧
    (let s := me (reg 5 1); s.srcB (r 5) ≠ 0 ∧ ¬((s.srcA (r 4) (r 5)).toInt = -2 ^ 63 ∧ (s.srcB (r 5)).toInt = -1)) := by decide
theorem witness_immediates : ∀ i ∈ ([.addI 3 4 5, .andI 3 4 5, .orI 3 4 5, .xorI 3 4 5, .sltI 3 4 5, .sltuI 3 4 5, .shlI 3 4 5, .shrI 3 4 5, .sarI 3 4 63] : List Instr),
    Accepts i (me id) := by decide
theorem witness_extended : (me id).me.hints.imms = [] ∧ (me fun x => { x with hints := ⟨[1], none, none, some 0⟩ }).me.hints.imms = [1] ∧
    (me fun x => { x with hints := ⟨[1, 2], none, none, some 0⟩ }).me.hints.imms = [1, 2] := by decide
/-- Branches both ways, jumps by register to an address that is no multiple of 4, and to one that is. -/
theorem witness_branches : (∀ i ∈ ([.beq 4 5 2, .bne 4 5 2, .blt 4 5 2, .bge 4 5 2, .bltu 4 5 2, .bgeu 4 5 2, .bz 4 2, .bnz 4 2, .jmp 2, .call 2, .jr 4, .callr 4, .ret] : List Instr),
    Accepts i (me id)) ∧ isMessage (me id).cur.1 (me id).cur.2 = false ∧ ((me id).me.sreg 4).toInt < ((me (reg 5 1)).me.sreg 5).toInt ∧
    ((me (reg 4 2)).me.sreg 4).toNat % 4 ≠ 0 ∧ ((me (reg 14 2)).me.sreg 14).toNat % 4 ≠ 0 ∧ ((me (reg 4 8)).me.sreg 4).toNat % 4 = 0 ∧ (me (reg 4 8)).me.sreg 4 ≠ 0 ∧
    (me (reg 14 8)).me.sreg 14 ≠ 0 := by decide
theorem witness_hints : (∀ i ∈ ([.hintImm 5, .hintMod 0, .hintSched 0, .nop] : List Instr), Accepts i (me id)) ∧ (me id).me.ops = [] ∧
    (let h (l : List (BitVec 24)) (m d : Option (BitVec 24)) : State := me fun x => { x with hints := ⟨l, m, d, some 0⟩ }; schedReserved 0 = false ∧
      (h [1, 2] none none).me.hints.imms.length = 2 ∧ (h [1] none none).me.hints.imms ≠ [] ∧ (h [] (some 0) none).me.hints.mod ≠ none ∧ (h [] none (some 0)).me.hints.sched ≠ none ∧
      (h [1, 2] (some 0) none).me.hints.imms.length = 2 ∧ (h [1, 2] none (some 0)).me.hints.imms.length = 2 ∧ (h [1] (some 0) (some 0)).me.hints.imms.length = 1 ∧
      (∀ i ∈ ([.add 3 (r 4) (r 5), .trap] : List Instr), WellFormed i ∧ illegalHere i 0 0 .task = false ∧ i.info.major ≠ 0x10) ∧ (Instr.trap).info.mods = 0 ∧ (Instr.trap).info.imm = false) := by decide

/-! Memory. -/

/-- Brick 0's SRAM holds the bytes 0x80 0xFF 0x01 … at 16 and 0x40. -/
def ram : State := { me (reg 4 16) with mem := [(16, 0x80), (17, 0xFF), (18, 1), (23, 2), (0x40, 5)] }
/-- The VA of the root space for a physical address (log 19), here an address of HBM and one of brick 1's SRAM. -/
def hbmVa : Word := 0x101000000001000
def peerVa : Word := 0x100000200000010
/-- An operation of load class of strand 0 with one access to HBM that is on its way. -/
def loadOp : Op := ⟨9, some 3, false, false, ⟨none, [], false⟩, 0, none, .load 8 false 3, [⟨hbmVa, 0x1000000001000, 8, 0, none, false, 0, 0, .pending⟩], 0, 0, 0, 0⟩
/-- A store of strand 0 that retired, to HBM, to brick 1 and to an address that is not mapped. -/
def flight (ea : Word) : Flight := ⟨7, 0, 0, 0, 0, ea, 8, .write ((leBytes 8 0x1122).map some), none, [], true, false, false, 0, .store, none⟩
def flying (ea : Word) : State := (me fun x => { x with unacked := 1 }).modBrick 0 fun y => { y with flights := [flight ea] }

theorem test_ldBs_extends : (after (.ldBs 5 4 0 0) ram).me.sreg 5 = -128 := by decide
theorem test_ldH_zero_extends : (after (.ldH 5 4 0 0) ram).me.sreg 5 = 0xFF80 := by decide
theorem test_ldD_little_endian : (after (.ldD 5 4 0 0) ram).me.sreg 5 = 0x020000000001FF80 := by decide
theorem test_load_scales_its_offset : (after (.ldW 5 3 4 0) ram).me.sreg 5 = 0x0001FF80 := by decide
theorem test_load_window : (after (.ldD 5 4 0 2) ram).me.sreg 5 = 0 ∧ (after .nop (after .nop (after (.ldD 5 4 0 2) ram))).me.sreg 5 = 0x020000000001FF80 := by decide
theorem test_load_misaligned_traps : (after (.ldD 5 4 0 0) (me (reg 4 4))).me.trapcause = 6 := by decide
theorem test_stH_writes_two_bytes : (after (.stH 5 4 0) { ram with bricks := (me (reg 4 16 ∘ reg 5 0xAABBCC)).bricks }).num 16 8 = 0x020000000001BBCC := by decide
theorem test_store_of_zero_unlists : (after (.stB 5 4 0) ram).mem = [(17, 0xFF), (18, 1), (23, 2), (0x40, 5)] := by decide
theorem test_remote_store_is_counted : (after (.stD 5 4 0) (me (reg 4 hbmVa))).me.unacked = 1 := by decide
theorem test_remote_store_arrives : (after (.remoteStoreArrival 0 0) (flying hbmVa)).num 0x1000000001000 8 = 0x1122 := by decide
theorem test_amo_min_is_signed : (after (.amoMin 6 4 5 0 4 0) { ram with mem := [(16, 1)], bricks := (me (reg 4 16 ∘ reg 5 (-1))).bricks }).num 16 8 = 2 ^ 64 - 1 := by decide
theorem test_amo_width : (after (.amoAdd 6 4 5 0 0 0) { ram with mem := (cellsSet [] 16 (leBytes 8 0x1FFFFFFFF)), bricks := (me (reg 4 16 ∘ reg 5 1)).bricks }).num 16 8 = 0x100000000 := by decide
theorem test_cas_compares_the_destination : (after (.amoCas 6 4 5 0 4 0) { ram with mem := [(16, 1)], bricks := (me (reg 4 16 ∘ reg 5 9 ∘ reg 6 2)).bricks }).num 16 8 = 1 := by decide
theorem test_acq_blocks : (after (.acq 5 (r 4) (k 6)) { ram with mem := [(16, 5)] }).me.block = some (.acq 16 6) := by decide
theorem test_rel_adds : (after (.rel (r 4) (k 3)) { ram with mem := [(16, 5)] }).num 16 8 = 8 := by decide
theorem test_land_set_arms : (after (.landSet (r 4) (r 5)) (me (reg 4 16 ∘ reg 5 0x100))).num 16 8 = 2 ^ 62 + 0x100 := by decide

theorem witness_loads : (∀ i ∈ ([.ldB 5 4 0 15, .ldH 5 4 0 15, .ldW 5 4 0 15, .ldD 5 4 0 15, .ldBs 5 4 0 15, .ldHs 5 4 0 15, .ldWs 5 4 0 15] : List Instr), Accepts i ram) ∧
    (∀ n ∈ [1, 2, 4, 8], FreeLocal ram (ram.mAddr 4 0 n) n ∧ ram.readPoison (ram.hereAt (ram.mAddr 4 0 n)) n = false) := by decide
theorem witness_windows : (me id).me.ops = [] ∧ ∃ o p : Op, o.left = some 0 ∧ p.left = some 0 ∧ o.commit = ⟨some (3, 1), [], false⟩ ∧ p.commit = ⟨some (3, 2), [], false⟩ ∧
    o.isScatter = false ∧ p.done = true ∧ (o.done = true ∨ o.done = false) :=
  ⟨by decide, { newOp State.reset 0 .plain none with left := some 0, commit := ⟨some (3, 1), [], false⟩ },
    { newOp State.reset 0 .plain none with left := some 0, done := true, commit := ⟨some (3, 2), [], false⟩ }, by decide⟩
theorem witness_remote_load : let s := me (reg 4 hbmVa); let ea := s.mAddr 4 0 8; let p : Place := ⟨0x1000000001000, Attr.clear 7⟩
    Accepts (.ldD 5 4 0 3) s ∧ Free s ea 8 ∧ ((s.check 0 0 ea.toNat needLoad).toOption.map (·.1)) = some p ∧ homeHere 0 p.pa = false ∧
    ¬(paClass p.pa = 4 ∧ p.pa < 2 ^ 52) ∧ (s.here.rrbHit s.me.space ea.toNat 8 = none) := by decide
theorem witness_response : let s := (me fun x => { x with ops := [loadOp] }); let a : PAcc := ⟨hbmVa, 0x1000000001000, 8, 0, none, false, 0, 0, .pending⟩
    (s.brick 0).findOp 9 = some (0, loadOp) ∧ loadOp.kind = .load 8 false 3 ∧ loadOp.accs = [a] ∧ loadOp.done = false ∧ loadOp.buf = 0 ∧ a.st = .pending ∧ a.amo = none ∧
    a.off = 0 ∧ a.len = 8 ∧ s.homeReady a.pa = true ∧ s.lineBusy 0 0 9 0 a.ea.toNat (some a.pa) = false ∧ ¬(paClass a.pa = 4 ∧ a.pa < 2 ^ 52) ∧
    s.readBad 0 0 a.ea.toNat a.pa a.len = false := by decide
theorem witness_stores : (∀ i ∈ ([.stB 5 4 0, .stH 5 4 0, .stW 5 4 0, .stD 5 4 0] : List Instr), Accepts i ram) ∧ gate ram 0 = .ok () ∧ ram.me.ops = [] ∧ Memory.wf ram.mem = true ∧
    (∀ n ∈ [1, 2, 4, 8], FreeLocal ram (ram.mAddr 4 0 n) n ∧ ram.answer 0 (ram.mAddr 4 0 n) = some (ram.mAddr 4 0 n) ∧ ram.inDeque (ram.hereAt (ram.mAddr 4 0 n)) = false) ∧
    (let s := me (reg 4 0x17FFF); (∀ n ∈ [2, 4, 8], (s.mAddr 4 0 n).toNat % n ≠ 0)) ∧
    (let s := (me (reg 4 0x17FF8)).modBrick 0 fun y => { y with tasks := true }; FreeLocal s (s.mAddr 4 0 8) 8 ∧ s.inDeque (s.hereAt (s.mAddr 4 0 8)) = true) := by decide
theorem witness_remote_stores : let s := me (reg 4 hbmVa); (∀ i ∈ ([.stB 5 4 0, .stH 5 4 0, .stW 5 4 0, .stD 5 4 0] : List Instr), Accepts i s) ∧ s.me.ops = [] ∧ s.me.unacked < 4095 ∧
    (∀ n ∈ [1, 2, 4, 8], Free s (s.mAddr 4 0 n) n ∧ Config.sramBytes ≤ (s.mAddr 4 0 n).toNat ∧ (s.mAddr 4 0 n).toNat < 2 ^ 57) := by decide
/-- The flight, at the head of its brick, as its arrival needs it. -/
def arrivable (ea : Word) (f : Flight) (u : State) : Bool := ((flying ea).brick 0).flights[0]? = some f && !f.arrived && f.act.need = needStore &&
  ((u.brick 0).flights.find? (fun q => q.id = f.id && !q.arrived)).any fun g => g.access = .store && g.act = f.act && g.op.isNone && g.pa.any fun pa =>
    !u.lineBusy 0 g.strand g.id g.space g.ea.toNat (some pa) && !earlierOwn u 0 g && (paClass pa = 0 || paClass pa = 1) && decide (pa < 2 ^ 52) && u.homeReady pa && !u.inDeque pa
theorem witness_arrivals : arrivable hbmVa (flight hbmVa) (translateUpTo (flying hbmVa) 0 7) = true ∧ arrivable peerVa (flight peerVa) (translateUpTo (flying peerVa) 0 7) = true := by decide +kernel
theorem witness_translations : (let s := flying hbmVa; let f := flight hbmVa; (s.brick 0).flights.filter (fun q => q.pa.isNone && !q.arrived && decide (q.id ≤ f.id)) = [f] ∧
      (s.check 0 f.space f.ea.toNat needStore).toOption.any (fun q => flightAperture 0 q.1.pa f = none) = true) ∧
    (let s := flying 0x50000; let f := flight 0x50000; f.act.need = needStore ∧ (s.brick 0).flights.filter (fun q => q.pa.isNone && !q.arrived && decide (q.id ≤ f.id)) = [f]) := by decide +kernel
theorem witness_acknowledgement : (let f := { flight hbmVa with arrived := true }; let s := (me fun x => { x with unacked := 1 }).modBrick 0 fun y => { y with flights := [f] }
      (s.brick 0).flights.find? (fun g => g.id = f.id) = some f ∧ f.posted = false ∧ f.counted = true ∧ f.strand = (0 : Fin 5).val) ∧
    (let o := { loadOp with done := true, seq := some 4 }; let s := me fun x => { x with ops := [o] }; (s.brick 0).findOp 9 = some (0, o)) := by decide
/-- An address that no node covers. -/
theorem witness_unmapped : let s := { flying 0x50000 with nodes := [] }; (s.check 0 0 0x50000 needStore).toOption = none ∧ s.unmapped 0 0 0x50000 = true := by decide
theorem witness_atomics : (∀ i ∈ ([.amoAdd 6 4 5 0 4 0, .amoXchg 6 4 5 0 4 0, .amoCas 6 4 5 0 4 0, .amoMin 6 4 5 0 4 0, .amoMax 6 4 5 0 4 0, .amoAnd 6 4 5 0 4 0, .amoOr 6 4 5 0 4 0,
    .amoXor 6 4 5 0 4 0] : List Instr), Accepts i ram) ∧ FreeLocal ram (ram.me.sreg 4) 8 ∧ FreeLocal ram (ram.me.sreg 4) 4 ∧ ((4 : BitVec 4).getLsbD 3 = false) ∧
    ram.inDeque (ram.hereAt (ram.me.sreg 4)) = false ∧ ram.readPoison (ram.hereAt (ram.me.sreg 4)) 8 = false := by decide
/-- acq that succeeds and that blocks, rel, land.set, acq.all, fence.s with and without stores, fence.x in its forms. -/
theorem witness_synchronisation : let s : State := { ram with mem := [(16, 5)] }; let ea := s.srcA (r 4) (k 6)
    (∀ i ∈ ([.acq 5 (r 4) (k 6), .acq 5 (r 4) (k 5), .rel (r 4) (k 6), .landSet (r 4) (k 6), .acqAll, .fenceS, .fenceX (k 1) (k 0), .fenceX (k 1) (k 1), .bind (r 4) (k 7),
      .bind (r 4) (k 8), .unbind (r 4) (k 1)] : List Instr), Accepts i s) ∧
    FreeLocal s ea 8 ∧ s.lineBusy 0 0 s.nextId 0 ea.toNat (some (s.hereAt ea)) = false ∧ s.readPoison (s.hereAt ea) 8 = false ∧ s.me.bindBusy ea = false ∧
    s.inDeque (s.hereAt ea) = false ∧ (s.srcB (k 5)).toNat ≤ s.num 16 8 ∧ s.num 16 8 < (s.srcB (k 6)).toNat ∧ s.srcB (k 6) ≠ BitVec.allOnes 64 ∧ s.me.unacked = 0 ∧
    (flying hbmVa).me.unacked ≠ 0 ∧ (s.srcA (k 1) (k 0)).toNat % 32 ≠ 0 ∧ (s.srcB (k 0)).toNat % 32 = 0 ∧ s.drainedFor 0 0 s.nextId 1 = true ∧
    (flying hbmVa).drainedFor 0 0 20 1 = false ∧ (s.srcB (k 1)).toNat % 32 ≠ 0 ∧ s.me.fx.length < 4 := by decide
/-- bind's record at 16: a synchronisation object at 0x100, a range of 64 bytes at 0x2000. -/
theorem witness_bind : let s : State := { ram with mem := cellsSet [] 16 (leBytes 8 0x100 ++ leBytes 8 0x2000 ++ leBytes 8 64) }; ((s.srcA (r 4) (k 8)).toNat % 8 = 0) ∧
    (s.srcB (k 7)).toNat ≤ 7 ∧ 7 < (s.srcB (k 8)).toNat ∧ ((me (reg 4 12)).srcA (r 4) (k 7)).toNat % 8 ≠ 0 ∧ s.me.unacked = 0 ∧
    ((readRec s 0 16 8 24 needLoad 0).toOption.any fun q => !bindBad (numAt q.1 0 8) (numAt q.1 8 8) (numAt q.1 16 8)) = true := by decide



/-! Vector instructions. -/

/-- Vector register n holds w. -/
def vec (n : Fin 32) (w : VReg) (x : Strand) : Strand := { x with v := x.v.set n w }
/-- p1 holds m and governs the instruction. -/
def under (m : PReg) (x : Strand) : Strand := { x with p := x.p.set 1 m, hints := ⟨[], some 0x10, none, some 0⟩ }
/-- Element 0 of width w of vector register 1 after an instruction. -/
def lane0 (i : Instr) (s : State) (w : Nat) : Nat := elem ((after i s).me.vreg 1) w 0

theorem test_vadd_wraps : lane0 (.vadd 1 (v 2) (v 3) 0 0) (me (vec 2 0xFF ∘ vec 3 3)) 1 = 2 := by decide
theorem test_vadd_saturates_signed : lane0 (.vadd 1 (v 2) (v 3) 1 0) (me (vec 2 0x7F ∘ vec 3 1)) 1 = 0x7F := by decide
theorem test_vsub_saturates_unsigned : lane0 (.vsub 1 (v 2) (v 3) 2 1) (me (vec 2 1 ∘ vec 3 2)) 2 = 0 := by decide
theorem test_vmulh_signed : lane0 (.vmulh 1 (v 2) (v 3) 1) (me (vec 2 0xFFFF ∘ vec 3 2)) 2 = 0xFFFF := by decide
theorem test_vabs_of_the_least_wraps : lane0 (.vabs 1 (v 2) 0 0) (me (vec 2 0x80)) 1 = 0x80 := by decide
theorem test_vabs_of_the_least_saturates : lane0 (.vabs 1 (v 2) 1 0) (me (vec 2 0x80)) 1 = 0x7F := by decide
theorem test_vsar_amount_mod_width : lane0 (.vsar 1 (v 2) (v 3) 0) (me (vec 2 0x80 ∘ vec 3 9)) 1 = 0xC0 := by decide
theorem test_vandn : lane0 (.vandn 1 (v 2) (v 3)) (me (vec 2 0xFF ∘ vec 3 0x0F)) 1 = 0xF0 := by decide
theorem test_inactive_lanes_stay : lane0 (.vadd 1 (v 2) (v 3) 0 0) (me (under 0 ∘ vec 1 7 ∘ vec 2 1)) 1 = 7 := by decide
theorem test_vcmp_writes_bits_per_byte : (after (.vcmpEq 2 (v 2) (v 3) 2) (me (vec 2 1))).me.preg 2 = 0xFFFFFFFFFFFFFFF0 := by decide
theorem test_writes_to_p0_are_ignored : (after (.vcmpEq 0 (v 2) (v 3) 2) (me (vec 2 1))).me.preg 0 = BitVec.allOnes 64 := by decide
theorem test_vfadd_one_and_one : lane0 (.vfadd 1 (v 2) (v 3) 0) (me (vec 2 0x3F800000 ∘ vec 3 0x3F800000)) 4 = 0x40000000 := by decide
theorem test_vfadd_opposite_infinities : lane0 (.vfadd 1 (v 2) (v 3) 1) (me (vec 2 0x7C00 ∘ vec 3 0xFC00)) 2 = 0x7E00 ∧
    (after (.vfadd 1 (v 2) (v 3) 1) (me (vec 2 0x7C00 ∘ vec 3 0xFC00))).me.fpstat = NV := by decide
theorem test_vfma_rounds_once : lane0 (.vfma 1 2 (v 3) (v 4)) (me (vec 2 0x40400000 ∘ vec 3 0x40000000 ∘ vec 4 0x3F800000)) 4 = 0x40E00000 := by decide
theorem test_vfdiv_by_zero : ((after (.vfdiv 0 1 (v 2) (v 3) 0) (me (vec 2 0x3F800000))).me.fpstat &&& DZ) = DZ := by decide
theorem test_vcvt_rounds_to_even : lane0 (.vcvt 0 1 2 0 0 0 2) (me (vec 2 0x3F808000)) 2 = 0x3F80 := by decide
theorem test_vshuf_reverse : elem ((after (.vshuf 1 (v 2) (k 2) 3) (me (vec 2 5))).me.vreg 1) 8 7 = 5 := by decide
theorem test_vslide_brings_zero : lane0 (.vslide 1 (v 2) (k 31) 3) (me (vec 2 5)) 8 = 0 := by decide
theorem test_vredadd_adds_the_start : (after (.vredadd 4 2 (k 3) 3) (me (vec 2 5))).me.sreg 4 = 8 := by decide
/-- 1 and 2 are paired, then 3 joins the pair below it: (1 + 2) + 3, with the start 0. -/
theorem test_vfredadd_tree : (after (.vfredadd 4 2 (k 0) 0) (me (under 0xFFF ∘ vec 2 0x40400000400000003F800000))).me.sreg 4 = 0x40C00000 := by decide
theorem test_vcompress_packs : lane0 (.vcompress 1 (v 2) (v 3) 3) (me (under 0xFF00 ∘ vec 2 (7 * 2 ^ 64))) 8 = 7 := by decide
theorem test_pcnt : (after (.pcnt 4 0) (me id)).me.sreg 4 = 64 := by decide
theorem test_vdec4_of_an_invalid_scale_is_late : (after (.vdec4 1 2 0 0) (me fun x => { vec 2 0x3FFFFFFF x with task := some ⟨0, none, true, 0, 0, []⟩ })).me.lates =
    [⟨.scaleInvalid, 0⟩] := by decide

theorem witness_integer_vectors : (∀ i ∈ ([.vadd 1 (v 2) (v 3) 0 0, .vsub 1 (v 2) (v 3) 0 1, .vadd 1 (v 2) (v 3) 1 2, .vsub 1 (v 2) (v 3) 1 3, .vadd 1 (v 2) (k 3) 2 0, .vsub 1 (v 2) (k 3) 2 0,
    .vmul 1 (v 2) (v 3) 0, .vmulh 1 (v 2) (v 3) 0, .vmin 1 (v 2) (v 3) 0, .vmax 1 (v 2) (v 3) 0, .vabs 1 (v 2) 0 0, .vneg 1 (v 2) 0 0, .vabs 1 (v 2) 1 0, .vneg 1 (v 2) 1 0, .vand 1 (v 2) (v 3),
    .vor 1 (v 2) (v 3), .vxor 1 (v 2) (v 3), .vandn 1 (v 2) (v 3), .vshl 1 (v 2) (v 3) 0, .vshr 1 (v 2) (v 3) 0, .vsar 1 (v 2) (v 3) 0, .vpopc 1 (v 2) 0, .vclmul 1 (v 2) (v 3) 0] : List Instr),
    Accepts i (me (under 1))) ∧ (k 3).k ≠ 0 := by decide
theorem witness_compares : ∀ i ∈ ([.vcmpEq 2 (v 2) (v 3) 0, .vcmpNe 2 (v 2) (v 3) 0, .vcmpLt 2 (v 2) (v 3) 0, .vcmpLe 2 (v 2) (v 3) 0, .vcmpLtu 2 (v 2) (v 3) 0, .vcmpLeu 2 (v 2) (v 3) 0,
    .pand 2 1 3, .por 2 1 3, .pxor 2 1 3, .pnot 2 1, .pfirst 2 1, .psMov 2 4, .pcnt 4 1, .pmovS 4 1] : List Instr), Accepts i (me (under 1)) := by decide
theorem witness_permutes : ∀ i ∈ ([.vbcast 1 (v 2) 0, .vperm 1 (v 2) (v 3) 0, .vshuf 1 (v 2) (k 3) 0, .vslide 1 (v 2) (k 3) 0, .vprefixAdd 1 (v 2) (v 3) 0, .vcompress 1 (v 2) (v 3) 0,
    .vexpand 1 (v 2) (v 3) 0, .vredadd 4 2 (v 3) 0, .vredmin 4 2 (v 3) 0, .vredmax 4 2 (v 3) 0, .vsel 1 2 (v 3) (v 4)] : List Instr), Accepts i (me (under 1)) := by decide
theorem witness_floats : ∀ i ∈ ([.vfadd 1 (v 2) (v 3) 0, .vfsub 1 (v 2) (v 3) 1, .vfmul 1 (v 2) (v 3) 2, .vfmin 1 (v 2) (v 3) 0, .vfmax 1 (v 2) (v 3) 0, .vrcp 1 (v 2) 0, .vrsqrt 1 (v 2) 0,
    .vfcmpEq 2 (v 2) (v 3) 0, .vfcmpLt 2 (v 2) (v 3) 0, .vfcmpLe 2 (v 2) (v 3) 0, .vfcmpUn 2 (v 2) (v 3) 0, .vfma 1 2 (v 3) (v 4), .vfms 1 2 (v 3) (v 4)] : List Instr),
    Accepts i (me (under 1)) := by decide
/-- Long operations with a free ring, an image with a good and one with an invalid scale, a predicate without and with one active pair, and a datum that fp32 holds. -/
theorem witness_long : (∀ i ∈ ([.vfdiv 0 1 (v 2) (v 3) 4, .vfsqrt 0 1 (v 2) 4, .vdec4 1 2 1 4, .vdec4 2 4 2 4, .vcvt 0 1 2 0 0 0 2, .vcvt 2 1 2 1 0 0 0, .venc4 1 2 0 3, .venc4 1 2 2 0,
      .vfredadd 4 2 (v 3) 0] : List Instr), Accepts i (me (under 1))) ∧ (me (under 1)).me.ring = [] ∧
    (let s := me (vec 2 0x1FC00000); vdecBad s.me.pred (toBytes (s.me.vreg 2)) 1 32 = none ∧ vdecBad s.me.pred (toBytes (s.me.vreg 2)) 2 64 = none) ∧
    (let s := me id; vdecBad s.me.pred (toBytes (s.me.vreg 2)) 1 32 ≠ none ∧ vdecBad s.me.pred (toBytes (s.me.vreg 2)) 2 64 ≠ none) ∧
    (∀ j < 16, active (me (under 0)).me.pred 4 j = false) ∧ (∀ j < 16, active (me (under 0xFF)).me.pred 4 j = decide (j / 2 = 0))  ∧ Accepts (.vfredadd 4 2 (k 3) 0) (me (under 0xFFF)) ∧
    fp32.decode 0x3F800000 = .fin false 8388608 (-23) ∧ 0x3F800000 < 2 ^ fp32.width := by decide

/-! Vector memory, the matrix unit and the copy channels. -/

/-- A descriptor's 32 bytes (R30). -/
def desc (base log2 item count flags prod cons : Nat) : List Byte :=
  leBytes 8 base ++ leBytes 1 log2 ++ leBytes 3 item ++ leBytes 2 count ++ leBytes 2 flags ++ leBytes 8 prod ++ leBytes 8 cons
/-- Brick 0 with a descriptor array at 0: operands 0 and 1, a tile 2, the panel operands 4 and 5; strand 0's context owns the accumulator; a panel command's
record at 0x300; s4 and s5 point at records. -/
def matrix : State :=
  let s := (me (reg 4 0x200 ∘ reg 5 0x300)).modBrick 0 fun y => { y with accown := ownWord 0 0 }
  { s with mem := cellsSet (cellsSet (cellsSet [] 0 (desc 0x4000 12 11 1 0 1 0 ++ desc 0x5000 12 11 1 0 1 0 ++ desc 0x6000 12 12 1 0 1 0))
      128 (desc 0x4000 12 11 1 2 1 0 ++ desc 0x5000 12 11 1 4 1 0)) 0x310 [4, 5] }
/-- A command of the queue. -/
def cmd (kind : MatKind) (ds : List Desc) (fired : Bool) (img : Option Acc) : MatCmd := ⟨9, kind, 0, 0, 0, 0, 0, ds, none, fired, [], img, [], none⟩
/-- The matrix state with a command in its queue. -/
def queued (m : MatCmd) : State := matrix.modBrick 0 fun y => { y with matq := [m] }
/-- A remote command to brick 1, and a slot there that matches it. -/
def remote (panel : Bool) (nonce : Nat) (ans : Option Bool) : RemoteCmd := ⟨20, 0, 0, 9, 1, 0, nonce, 0, 0, [0, 1, 2], panel, 3, ans, none, []⟩
def target (c : RemoteCmd) : State :=
  { (matrix.modBrick 1 fun y => { (y.modStrand 0 fun x => { x with task := some ⟨0, none, true, 0, 0, []⟩ }) with
      slots := y.slots.set 2 (some ⟨0, 7, 0, 0, 0, 0⟩), accown := ownWord 0 0 }) with
    rcmds := [c], mem := cellsSet matrix.mem (sramPa 1 0) (desc 0x4000 12 11 1 0 1 0 ++ desc 0x5000 12 11 1 0 1 0 ++ desc 0x6000 12 12 1 0 1 0) }
/-- The gather of one element and the copy of 16 bytes from 0x100 to 0x2000, a template, its start and a channel that runs it. -/
def gatherOp : Op := ⟨9, some 3, false, false, ⟨none, [], false⟩, 0, none, .gather 1 4 0xF, [⟨0x10, 0x10, 4, 0, none, true, 0, 0, .pending⟩], 0, 0, 0, 0⟩
def tmpl : Template := ⟨0x100, 0x2000, 16, 1, 1, 0, 0, 0, 0, 0, 0x80, false, false⟩
def start (t : Template) : CopyStart := ⟨7, 0, 0, some t, none, 0, 0, 0, []⟩
def copying (t : Template) (begun : Bool) (l : List Chunk) : State :=
  { (me id).modBrick 0 fun y => { y with chans := y.chans.set 2 { Channel.fresh with st := .running, job := some (start t), begun := begun, left := l } } with mem := [(0x101, 5)] }
/-- A course of one brick whose aperture rectangle is mapped at 2^40: the store of a copy start to channel 2. -/
def starting : State := { (me fun x => { x with unacked := 1 }).modBrick 0 fun y => { y with flights := [flight (2 ^ 40 + 32)] } with
  nodes := few ++ [⟨9, 0, 2 ^ 40, 0x20000, 2 ^ 50, Attr.clear 7, none, .aperture 0 0x101, false, [], 0, false, 0⟩] }

theorem test_vld_reads_a_line : ((after (.vld 1 4 0 0) { me (reg 4 0x40) with mem := [(0x41, 7)] }).me.vreg 1) = 0x700 := by decide +kernel
theorem test_vst_writes_active_bytes : (after (.vst 1 4 0) (me (reg 4 0x40 ∘ under 2 ∘ vec 1 0xAABBCC))).mem = [(0x41, 0xBB)] := by decide
theorem test_vldp_needs_a_pair_of_lines : (after (.vldp 1 4 0 0) (me (reg 4 0x40))).me.trapcause = 6 := by decide
theorem test_vgather_misaligned : (after (.vgather 2 1 (r 4) 2 0) (me (reg 4 2))).me.trapcause = 6 := by decide
theorem test_acc_zero_queues : (after (.accZero 0) matrix).here.matq.map (fun m => (m.kind, m.fired)) = [(.zero, false)] := by decide
theorem test_mma_of_a_stranger : (after (.mma 0 1 0 0 0) (matrix.modBrick 0 fun y => { y with accown := ownWord 0 1 })).me.trapcause = 9 := by decide
theorem test_mx_open_takes_the_first_slot : (after (.mxOpen 3 (r 4) 0) (me id)).me.sreg 3 = 0 := by decide
theorem test_mx_close_of_a_free_slot : (after (.mxClose 3 (r 4) 0) (me (reg 4 2))).me.sreg 3 = -1 := by decide
theorem test_buf_q : (after (.bufQ 3 0) matrix).me.sreg 3 = 0x200000001 := by decide
theorem test_buf_adv_wraps_at_32_bits : (after (.bufAdvP 0 6) ({ matrix with mem := cellsSet matrix.mem 16 (leBytes 4 0xFFFFFFFF) }.modMe (reg 6 1))).num 16 8 = 0 := by decide
theorem test_copy_chunk_moves : (after (.copyChunk 0 2 0) (copying tmpl true [⟨0, 0x100, 0x2000, 16⟩])).byte 0x2001 = 5 := by decide
theorem test_cp_wait_tests : (after (.cpWait 3 2 5 1 1 0) (copying tmpl true [])).me.sreg 3 = 1 := by decide

theorem witness_vector_memory : let s := me (reg 4 0x80); s.me.answers = [] ∧ NewId s ∧ (∀ i ∈ ([.vld 1 4 0 15, .vldp 1 4 0 15, .vst 1 4 0, .vstp 1 4 0] : List Instr), Accepts i s) ∧
    s.me.pred ≠ 0 ∧ FreeLocal s (s.mAddr 4 0 64) 64 ∧ FreeLocal s (s.mAddr 4 0 128) 128 ∧ s.readPoison 0x80 64 = false ∧ s.readPoison (0x80 + 64) 64 = false ∧
    s.inDeque 0x80 = false ∧ s.inDeque (0x80 + 64) = false ∧ Memory.wf s.mem = true ∧ gate s 0 = .ok () ∧
    (let s := me (reg 4 0x42); (s.mAddr 4 0 64).toNat % 4 ≠ 0 ∧ (s.mAddr 4 0 128).toNat % 4 ≠ 0 ∧ (s.mAddr 4 0 64).toNat % 64 ≠ 0 ∧ (s.mAddr 4 0 128).toNat % 128 ≠ 0) ∧
    (let s := me (reg 4 (2 ^ 58)); (∀ i ∈ ([.vst 1 4 0, .vstp 1 4 0] : List Instr), Accepts i s) ∧ gate s 0 = .ok () ∧ s.me.pred ≠ 0 ∧ (s.mAddr 4 0 64).toNat % 4 = 0 ∧
      2 ^ 57 ≤ (s.mAddr 4 0 64).toNat ∧ (s.mAddr 4 0 128).toNat % 4 = 0 ∧ 2 ^ 57 ≤ (s.mAddr 4 0 128).toNat) := by decide
theorem witness_gathers : let s := me (reg 4 0x10 ∘ under 0xF); s.me.answers = [] ∧ NewId s ∧ RingFree s ∧ Accepts (.vgather 2 1 (r 4) 2 4) s ∧ Accepts (.vscatter 2 1 (r 4) 2 4) s ∧
    gate s 3 = .ok () ∧ ((List.range 16).filter fun j => active s.me.pred 4 j) = [0] ∧ (s.scalar (r 4) false).toNat % 4 = 0 ∧ elem (s.me.vreg 2) 4 0 = 0 ∧
    ((me (reg 4 0x11 ∘ under 0xF)).scalar (r 4) false).toNat % 4 ≠ 0 ∧ (let t := me fun x => { x with ops := [gatherOp] }; (t.brick 0).findOp 9 = some (0, gatherOp) ∧
      t.homeReady 0x10 = true ∧ t.readBad 0 0 0x10 0x10 4 = false ∧ ¬(paClass 0x10 = 4 ∧ 0x10 < 2 ^ 52)) := by decide
theorem witness_matrix_issue : (∀ i ∈ ([.mma 0 1 2 0x20 4, .accZero 4, .accLd 2 4, .accSt 2 4, .mmaR 4 3 0 4, .mmaP 5 3 0 4] : List Instr), Accepts i matrix) ∧ MayMatrix matrix ∧
    matrix.skipped 0 = false ∧ matrix.skipped 20 = false ∧ matrix.here.queued < 128 ∧ RingFree matrix ∧ matrix.me.answers = [] ∧
    (∃ ds, myDescs matrix [0, 1, 2] = .ok ds ∧ mmaDescs 0 ds = true ∧ ∀ c ∈ ds, c.here) ∧ (∃ d, myDescs matrix [2] = .ok [d] ∧ d.item = 12 ∧ d.count = 1 ∧ d.here) ∧
    (let s := matrix.modBrick 0 fun y => { y with accown := ownWord 0 1 }; gate s 2 = .ok () ∧ s.here.accown.getLsbD 63 = true ∧ s.here.ownsAcc s.me.space s.me.ctxid = false) ∧
    (matrix.me.sreg 4).toNat % 8 = 0 ∧ (∃ q, readRec matrix 10 (matrix.me.sreg 4) 8 32 needLoad 0 = .ok q ∧
      recordOk q.1 (15 :: (List.range 16).map (· + 16)) [12, 13, 14] = true ∧ (doubleAt q.1 0).toNat < Config.sramBytes ∧ RingFree q.2) ∧
    ∃ q, readRec matrix 10 (matrix.me.sreg 5) 8 32 needLoad 0 = .ok q ∧ recordOk q.1 ([10, 11] ++ (List.range 13).map (· + 19)) [16, 17, 18] = true ∧
      (∃ da db, myDescs q.2 [numAt q.1 16 1, numAt q.1 17 1] = .ok [da, db] ∧ panelDescs 0 1 1 da db = true ∧ da.here ∧ db.here) ∧
      ∃ z, panelBricks q.2 (doubleAt q.1 0) 1 (List.range 1) = .ok z ∧ RingFree z.2 :=
  ⟨by decide, by decide, by decide, by decide, by decide, by decide, by decide, ⟨_, rfl, by decide⟩, ⟨_, rfl, by decide⟩, by decide, by decide, ⟨_, rfl, by decide⟩,
    ⟨_, rfl, by decide, ⟨_, _, rfl, by decide⟩, ⟨_, rfl, by decide⟩⟩⟩
theorem witness_matrix_fire : (let m := cmd .zero [] false none; let s := probed (queued m) 0; (s.brick 0).head = some m ∧ m.ready s 0 = true) ∧
    (let m := cmd .zero [] true none; ((queued m).brick 0).matq.find? (·.fired) = some m ∧ m.image = none) := by decide
/-- An mma whose operands are ready, its descriptors' extents checked and its tiles fetched; a fired acc.st whose image can be stored. -/
theorem witness_mma_fires : let m := cmd (.mma 0 0 false) [parseDesc (desc 0x4000 12 11 1 0 1 0) 0, parseDesc (desc 0x5000 12 11 1 0 1 0) 32] false none
    let s := probed (queued m) 0; (s.brick 0).head = some m ∧ m.ready s 0 = true ∧ (descChecks s 0 0 0 0 (m.descs.zip m.kind.roles)).toOption.any (fun t =>
      (m.descs.all fun d => itemsReady t 0 0 d 0 1) && (match m.descs with | [x, y] => (fetchSteps t 0 0 0 0 x y 0 0 0 0 1).toOption.isSome | _ => false)) = true := by decide +kernel
/-- A fired acc.st to the own SRAM, one to host memory, whose write is posted, and one whose posted write is acknowledged. -/
theorem witness_image_stored : (∀ base ∈ [0x6000, 0x103000000000000], let d := parseDesc (desc base 12 12 1 0 1 0) 64; let m := cmd .st [d] true (some 5)
      let s : State := { queued m with regions := [⟨3 * 2 ^ 48, true, false, false, 0, 0, 0, false, []⟩] }
      let p := s.modBrick 0 fun y => { y with entries := m.pins ++ y.entries }; let va := d.itemAt ((d.live p 0 0 true).toOption.getD 0)
      (s.brick 0).matq.find? (·.fired) = some m ∧ linesReady (p.openFor m.id) 0 0 (tileLines va 4096) = true ∧ d.homes p 0 0 = true ∧
        (match engineWrite p 0 m.engine va (leBytes 4096 5) with
        | some (.ok u) => (u.brick 0).enginePosted 16 m.id == decide (base ≠ 0x6000) && d.homes u 0 0
        | _ => false) = true) ∧
    (let d := parseDesc (desc 0x6000 12 12 1 0 1 0) 64; let m := cmd .st [d] true none; let s := queued m
      (s.brick 0).matq.find? (·.fired) = some m ∧ m.kind.stores = true ∧ (s.brick 0).engineBusy 16 m.id = false ∧ d.homes s 0 0 = true) := by decide +kernel
theorem witness_remote : (∀ panel ∈ [true, false], let c := remote panel 7 none; let s := target c; s.rcmds[0]? = some c ∧ c.answered = none ∧
      ((target (remote panel 8 none)).brick 1).slotFor 0 8 = none ∧ (s.brick 1).slotFor 0 7 = some (2, ⟨0, 7, 0, 0, 0, 0⟩) ∧ ((s.brick 1).whereIs 0 0).isSome = true ∧
      (s.brick 1).queued < 128 ∧ (s.brick 1).accown.getLsbD 63 = true ∧ ((slotDescs s 1 ⟨0, 7, 0, 0, 0, 0⟩ c).any fun ds =>
        (descChecks s 1 0 0 0 (ds.zip (if panel then [.out] else [.opA, .opB, .out]))).toOption.any fun t => decide ((t.brick 1).queued < 128) && (ringFor t 1 0 0 0 0 0).isSome) = true) ∧
    (∀ ok, let s : State := { (me fun x => { x with ops := [{ newOp State.reset 0 (.remote 3 1 []) none with id := 9 }] }) with rcmds := [remote false 7 (some ok)] };
      (s.brick 0).panels = [] ∧ ((s.brick 0).findOp 9).map (fun q => q.2.kind) = some (.remote 3 1 [])) := by decide
theorem witness_capabilities : (∀ i ∈ ([.mxOpen 3 (r 4) 4, .mxClose 3 (r 4) 4, .mxRing 3 (r 4) (k 1) 4] : List Instr), Accepts i (me id) ∧ Accepts i (inService id)) ∧ (me id).me.mode = .task ∧ (inService id).me.mode = .service ∧
    RingFree (me id) ∧ ((me (reg 4 0x100000)).scalar (r 4) false).toNat / 2 ^ 20 % 2 ^ 12 ≠ 0 ∧ ((me id).scalar (r 4) false).toNat / 2 ^ 20 % 2 ^ 12 = 0 ∧
    (me id).here.slots.toList.findIdx? Option.isNone = some 0 ∧
    (let s := (me id).modBrick 0 fun y => { y with slots := Vector.replicate 8 (some ⟨0, 1, 0, 0, 0, 0⟩) }; none ∉ s.here.slots.toList) ∧
    (let s := (me (reg 4 3)).modBrick 0 fun y => { y with slots := y.slots.set 3 (some ⟨0, 0, 0, 0, 0, 0⟩), matq := [{ cmd .zero [] false none with slot := some 3 }] };
      ((s.here.slots.toList)[3]?.any fun o => o.any fun z => z.ctx = s.me.ctxKey) = true ∧ s.here.matq.all (fun m => !(m.slot = some 3 && m.fired)) = true) := by decide
theorem witness_buffers : (∀ i ∈ ([.bufSet 0 7, .bufAdvP 0 6, .bufAdvC 0 6, .bufQ 3 0] : List Instr), Accepts i matrix) ∧ (∃ q, matrix.desc? 0 0 0 false = some q ∧ q.ppmem = false ∧ q.cpmem = false) ∧
    FreeLocal matrix 16 8 ∧ FreeLocal matrix 24 8 ∧ matrix.inDeque 16 = false ∧ matrix.me.unacked = 0 ∧ loadBusy matrix.me.ops matrix.nextId = false ∧ matrix.me.answers = [] ∧
    (∀ off ∈ [16, 24], matrix.lineBusy 0 0 matrix.nextId 0 off (some off) = false ∧ matrix.readPoison off 8 = false) ∧ (matrix.me.sreg 7).toNat % 8 = 0 ∧
    (∃ q, readRec matrix 0 (matrix.me.sreg 7) 8 32 needLoad 0 = .ok q ∧ descBad q.1 true = false ∧ gate q.2 0 = .ok () ∧ q.2.answer 40 0 = some 0 ∧ q.2.ownBusy = false ∧
      q.2.inDeque (sramPa q.2.cur.1 0) = false) ∧ ∃ q, readRec matrix 0 (matrix.me.sreg 4) 8 32 needLoad 0 = .ok q ∧ descBad q.1 true = true :=
  ⟨by decide, ⟨_, rfl, by decide⟩, by decide, by decide, by decide, by decide, by decide, by decide, by decide, by decide, ⟨_, rfl, by decide⟩, ⟨_, rfl, by decide⟩⟩
/-- A start store at its channel, a copy that begins (its template good, and bad), one with a chunk left, and one with none. -/
theorem witness_copies : (let s := starting; let f := flight (2 ^ 40 + 32); (s.brick 0).flights[0]? = some f ∧ f.arrived = false ∧ (s.brick 0).held = [] ∧
      s.lineBusy 0 f.strand f.id f.space f.ea.toNat (s.flightPa 0 f) = false ∧ (match startChannel s 0 f with
        | some (c, t) => c == 2 && decide (((t.brick 0).chan 2).latched = none) && (t.brick 0).held.isEmpty
        | none => false) = true ∧ templateWaits s 0 ⟨f.id, f.ctx, BitVec.ofNat 64 f.act.value, none, none, f.strand, f.space, f.pc, []⟩ = false) ∧
    (let s := copying tmpl false []; ((s.brick 0).chan 2).job = some (start tmpl) ∧ ((s.brick 0).chan 2).begun = false ∧ tmpl.bad 0 = false ∧
      (copyExtents s 0 0 tmpl 0).toOption.isSome = true ∧ ({ tmpl with xlen := 0 } : Template).bad 0 = true) ∧
    (let s := copying tmpl true [⟨0, 0x100, 0x2000, 16⟩]; ((s.brick 0).chan 2).left[0]? = some ⟨0, 0x100, 0x2000, 16⟩ ∧ copyHeld s (start tmpl) = false ∧ tmpl.land = 0 ∧
      linesReady s 0 0 (linePieces 16 0x100 16 ++ linePieces 16 0x2000 16) = true ∧ ((bytePlaces s 0 0 true (copyFault true false) (linePieces 16 0x100 16)).toOption.any fun q =>
      (bytePlaces q.2 0 0 false (copyFault false true) (linePieces 16 0x2000 16)).toOption.any fun r =>
        (writeRuns r.2 0 ((start tmpl).engine 2 0) 0x2000 (runs (chunkBytesOut s (q.1.any fun a => s.linkDown 0 0 0x100 a) (paRanges s 0 0 [(0x100, 16)]) (paRanges s 0 0 [(0x2000, 16)])
          q.1 r.1))).any fun v => !(v.brick 0).enginePosted 10 0) = true) ∧
    (let f : Flight := { flight 0x103000000000000 with strand := 10, op := some 0 }; let s := (copying tmpl true [⟨0, 0x100, 0x2000, 16⟩]).modBrick 0 fun y => { y with flights := [f] }
      (s.brick 0).enginePosted 10 0 = true ∧ (s.brick 0).engineBusy 10 0 = false) ∧
    ((copying tmpl true []).brick 0 |>.chan 2).left = [] ∧ tmpl.compl ≠ 0 ∧ tmpl.compl.toNat % 8 = 0 ∧ tmpl.compl.toNat < Config.sramBytes := by decide
theorem witness_copy_instructions : (let s := copying tmpl true []; RingFree s ∧ (∀ i ∈ ([.cpPtr 3 2 4, .cpWait 3 2 5 1 0 4, .cpWait 3 2 5 0 0 4, .cpInv 4] : List Instr), Accepts i s) ∧
    ¬((s.here.chan 2).st = .done ∨ (s.here.chan 2).st = .failed ∨ (s.me.sreg 5 ≠ 0 ∧ (s.here.chan 2).chunks &&& s.me.sreg 5 = s.me.sreg 5))) ∧
    ((me id).modBrick 0 fun y => y.modChan 2 fun c => { c with st := .done }).here.chan 2 = { Channel.fresh with st := .done } := by decide

/-! Tasks, messages, footings, chains, spaces and control. -/

/-- A record of the deque, a task of launch 0, and a message for a task with TAG 5. -/
def record : DeqRec := ⟨0, 0x1000, true, 0, 1, 2, none, false⟩
def task : Task := ⟨0, none, true, 0, 0, []⟩
def message : Msg := ⟨30, 0, 0, 0, 0x50001, 0, [7], [], 0, none, false, 0⟩
/-- The strand runs a task. -/
def running (f : Strand → Strand) : State := me fun x => { f x with task := some task }
/-- Channel 3 of die 0, two members, and the brick may use it. -/
def footed : State := { (me (reg 4 9)).modBrick 0 fun y => { y with footmask := 8 } with foots := [⟨3, 0, 2, 6, [], []⟩] }
/-- A chain record at 0x1000 with a CTRL; link 0 holds items of 2^item bytes at 0x4000, with prod put and cons taken; s4 names the record. -/
def chained (ctrl item prod cons : Nat) : State :=
  { (me (reg 4 0x1000 ∘ reg 5 0x77 ∘ fun x => { x with task := some { task with stages := [(0x1000, 0)] } })).modBrick 0 fun y => { y with chains := if ctrl.testBit 3 then [0x1000] else [] } with
    mem := cellsSet (cellsSet (cellsSet [] 0x1000 (leBytes 8 ctrl)) 0x1040 (desc 0x4000 7 item 1 0 prod cons)) 0x4000 [9] }
/-- A launch of space 0 with one brick and eight blocks. -/
def someLaunch : Launch :=
  { Launch.waiting 0 0 (parseLaunch (leBytes 40 1 ++ leBytes 4 8 ++ leBytes 4 0 ++ [1, 1, 14] ++ leBytes 13 0)) 0 none [] false 0 with st := .running }

theorem test_fork_record : (after (.fork (r 4) (k 0)) (me (reg 4 0x1000 ∘ reg 0 3))).here.deque.map (fun r => (r.entry, r.nojoin, r.arg0)) = [(0x1000, true, 3)] := by decide
theorem test_fork_counts_first : (after (.fork (r 4) (r 5)) (me (reg 4 0x1000 ∘ reg 5 0x80))).num 0x80 8 = 1 := by decide
theorem test_join_blocks : (after (.join (r 4)) { running (reg 4 16) with mem := [(16, 1)] }).me.block = some (.join 16) := by decide
theorem test_texit_frees : (after (.texit (r 4)) (running (reg 4 5))).me.task = none := by decide
theorem test_exit_with_stores_waits : (after .exit (running fun x => { x with unacked := 1 })).me.task = some task := by decide
theorem test_migrate_with_a_ring_entry : (after (.migrate (r 4)) (running fun x => { x with ring := [⟨0, 4, none, 0, 0, 0, 0, x.ctxKey, false⟩] })).me.trapcause = 10 := by decide
theorem test_wfm_takes_the_oldest : let s := after (.wfm 3 (r 4) (k 5)) ((running (reg 4 64)).modBrick 0 fun y => { y with inbox := [message, { message with id := 31 }] })
    s.me.sreg 3 = 0x50001 ∧ s.num 80 8 = 7 ∧ s.here.inbox.map (·.id) = [31] := by decide
theorem test_fbar_of_a_stranger : (after (.fbar 3 0) (me id)).me.trapcause = 5 := by decide
theorem test_fbar_arrives : (after (.fbar 3 2) footed).foots.map (·.arrivals.length) = [1] := by decide
theorem test_fpoll_phase : (after (.fpoll 3 6 0) footed).me.sreg 6 = 6 := by decide
theorem test_get_takes_an_item : let s := after (.get 6 (r 4) (k 0) 0) (chained 1 3 1 0); s.me.sreg 6 = 9 ∧ s.num 0x1058 8 = 1 := by decide +kernel
theorem test_get_blocks_when_empty : (after (.get 6 (r 4) (k 0) 0) (chained 1 3 0 0)).me.block = some (.get 0x1000 0) := by decide
theorem test_put_writes_an_item : let s := after (.put 5 (r 4) (k 0) 0) (chained 1 3 1 0); s.num 0x4008 8 = 0x77 ∧ s.num 0x1050 8 = 2 := by decide +kernel
theorem test_put_folded_transfers : ((after (.put 5 (r 4) (k 0) 0) (chained 0x19 3 0 0)).num 0x1000 8) = 0x10119 := by decide
theorem test_chsw_has_the_form : (after (.chsw 6 (r 4) (k 1) 0) (chained 0x19 3 0 0)).me.sreg 6 = 1 := by decide
theorem test_chsw_pends : ((after (.chsw 6 (r 4) (k 0) 0) (chained 0x19 3 0 0)).num 0x1000 8) = 0x39 := by decide
theorem test_map_misaligned : (after (.map (r 4) (r 5) 0) (me (reg 4 4))).me.trapcause = 6 := by decide
theorem test_mapw_reads_the_status : (after (.mapw 6 (r 4) 0) { me (reg 4 16) with mem := [(16, 1), (21, 2)] }).me.sreg 6 = 0x20000000001 := by decide
theorem test_csrr_brick_strand : (after (.csrr 3 0x071) (inService id)).me.sreg 3 = 256 := by decide
theorem test_csrw_fpstat_clears : (after (.csrw 4 0x002) (me (reg 4 1 ∘ fun x => { x with fpstat := 3 }))).me.fpstat = 2 := by decide
theorem test_csrw_privilege : (after (.csrw 4 0x030) (me (reg 4 0x1000))).me.trapcause = 5 := by decide
theorem test_trap_entry : let s := after .trap (me fun x => { x with pc := 0x400, trapvec := 0x200 }); s.me.pc = 0x800 ∧ s.me.trappc = 0x400 ∧ s.me.trapcause = 8 ∧ s.me.mode = .service := by decide
theorem test_eret_returns : let s := after .eret (inService fun x => { x with trappc := 0x404 }); s.me.pc = 0x404 ∧ s.me.mode = .task := by decide
theorem test_halt_in_task_mode : (after .halt (me id)).me.trapcause = 5 := by decide
theorem test_pause_stalls : (after .pause (me id)).me.pause = some 64 := by decide

theorem witness_fork : let s := me (reg 4 0x1000 ∘ reg 5 0x80); Accepts (.fork (r 4) (r 5)) s ∧ Accepts (.fork (r 4) (k 0)) s ∧ ((me (reg 4 2)).srcA (r 4) (k 0)).toNat % 4 ≠ 0 ∧
    (s.srcA (r 4) (k 0)).toNat % 4 = 0 ∧ s.srcB (k 0) = 0 ∧ s.me.phase = 0 ∧ s.creatorDrained = true ∧ s.here.deque.length < 64 ∧
    (64 ≤ (s.modBrick 0 fun y => { y with deque := List.replicate 64 record }).here.deque.length) ∧ isMessage s.cur.1 s.cur.2 = false ∧
    (s.srcB (r 5)).toNat % 8 = 0 ∧ s.srcB (r 5) ≠ 0 ∧ FreeLocal s (s.srcB (r 5)) 8 ∧ s.inDeque (s.hereAt (s.srcB (r 5))) = false ∧ s.readPoison (s.hereAt (s.srcB (r 5))) 8 = false ∧
    (∀ n ∈ [1, 2], let t := me (reg 4 0x1000 ∘ reg 5 0x80 ∘ fun x => { x with phase := n }); t.me.phase = n ∧ t.me.unacked = 0 ∧ Accepts (.fork (r 4) (r 5)) t) := by decide
/-- Tasks that end, join and spawn, and one that leaves for brick 1 and for its own brick. -/
theorem witness_tasks : (∀ n ∈ [0, 16], let s := { running (reg 4 (BitVec.ofNat 64 n)) with mem := [(24, 1)] }; s.me.ops = [] ∧ s.me.task ≠ none ∧ s.me.lates = [] ∧ endBusy s 0 0 = false ∧
      (∀ i ∈ ([.join (r 4), .texit (r 4), .exit, .jr 4, .ret, .spawnG 3 (r 4)] : List Instr), Accepts i s) ∧ s.me.sreg 14 = 0 ∧ gate s 0 = .ok () ∧ s.src1 (r 4) = BitVec.ofNat 64 n) ∧
    (∀ n ∈ [16, 24], let s := { running (reg 4 (BitVec.ofNat 64 n)) with mem := [(24, 1)] }; ReadsHere s (s.src1 (r 4)) ∧ (s.src1 (r 4)).toNat % 8 = 0) ∧
    ({ running (reg 4 16) with mem := [(24, 1)] }.num 16 8 = 0) ∧ ({ running (reg 4 24) with mem := [(24, 1)] }.num 24 8 ≠ 0) ∧
    (let s := running (reg 4 0x40); (s.src1 (r 4)).toNat % 64 = 0 ∧ s.creatorDrained = true) := by decide
/-- A device-launch queue that is empty and one that is full. -/
theorem witness_device_queue : (let s := running (reg 4 0x40); (readRec s 0 (s.src1 (r 4)) 64 64 needLoad 0).toOption.any fun q => decide ((q.2.deviceQueue 0 0).length < 64)) = true ∧
    let s := { running (reg 4 0x40) with launches := List.replicate 64 { someLaunch with child := true, st := .waiting } };
    ((readRec s 0 (s.src1 (r 4)) 64 64 needLoad 0).toOption.any fun q => decide (64 ≤ (q.2.deviceQueue 0 0).length)) = true := by decide +kernel
theorem witness_migrate : (∀ a ∈ [0, peerVa.toNat], let s := running (reg 4 (BitVec.ofNat 64 a)); s.me.ops = [] ∧ s.me.task = some task ∧ Accepts (.migrate (r 4)) s ∧ migrateRefused s = false ∧ s.me.unacked = 0) ∧
    (let s := running (reg 4 peerVa); ((sramHome s 0 (s.src1 (r 4)) false).toOption.any fun q => q.any fun q => decide (q.2.me = s.me) && q.1 == 1 && q.2.cur.1 == 0) = true) ∧
    (let s := running id; s.answer 0 (s.src1 (r 4)) = some (s.src1 (r 4)) ∧ (s.src1 (r 4)).toNat < Config.sramBytes) ∧
    migrateRefused ((running id).modBrick 0 fun y => { y with accown := ownWord 0 0 }) = true := ⟨by decide, by decide +kernel, by decide, by decide⟩
/-- The block at 0x100 holds one double and no handler, the one at 0x200 a handler of one word; the target is brick 1. -/
theorem witness_messages : (∀ h ∈ [false, true], let s : State := { me (reg 4 peerVa ∘ reg 5 (if h then 0x200 else 0x100)) with mem := [(0x100, 1), (0x201, 1)] }
      Accepts (if h then .sendh 3 (r 4) (r 5) 4 else .send 3 (r 4) (r 5) 4) s ∧ gate s 4 = .ok () ∧ (s.srcB (r 5)).toNat % 8 = 0 ∧
      ((readBlock s (s.srcB (r 5)) h).toOption.any fun q => (checkLand q.2 q.1.land).toOption.any fun z => (sramHome z.2 31 (s.srcA (r 4) (r 5)) true).toOption.any Option.isSome) = true ∧
      ((readRec s 0 (s.srcB (r 5)) 8 16 needBlock 0).toOption.any fun q => hdrBad (numAt q.1 0 8) !h) = true) ∧ ((me (reg 5 4)).srcB (r 5)).toNat % 8 ≠ 0 ∧
    (let s := onMessage; Accepts .mend s ∧ s.me.ops = [] ∧ s.me.unacked = 0) ∧ ((running (reg 4 32)).srcA (r 4) (k 5)).toNat % 64 ≠ 0 ∧
    (let s := (running (reg 4 64)).modBrick 0 fun y => { y with inbox := [message] }; Accepts (.wfm 3 (r 4) (k 5)) s ∧ (s.srcA (r 4) (k 5)).toNat % 64 = 0 ∧
      (s.srcA (r 4) (k 5)).toNat < Config.sramBytes ∧ s.me.ops = [] ∧ s.ownBusy = false ∧ wfmPick s (some 5) = some message ∧ wfmPick s (some 6) = none ∧ wfmPick s none = some message) := by decide
theorem witness_footing : RingFree footed ∧ footed.here.footmask.getLsbD 3 = true ∧ (me id).here.footmask.getLsbD 3 = false ∧
    ∀ i ∈ ([.fbar 3 4, .fbarM 3 4, .fbcast 3 6 4, .fbcastTx 3 4 6 4, .fcomb 3 4 6 5 4, .fpoll 3 6 4] : List Instr), Accepts i footed ∧ Accepts i (me id) := by decide
/-- Spread and folded, empty, with items, and with a full slot; the item read and written; a ring entry for a folded put. -/
theorem witness_get_put : (∀ c ∈ [1, 0x19, 0x119, 0x10019, 0x10119], ∀ p ∈ [0, 1, 16], let s := chained c 3 p 0; (chainRec s (s.srcA (r 4) (k 0))).toOption = some 0x1000 ∧ s.me.ops = [] ∧ RingFree s ∧
      s.me.unacked = 0 ∧ (∀ i ∈ ([.get 6 (r 4) (k 0) 4, .getv 6 (r 4) (k 0) 4, .put 5 (r 4) (k 0) 4, .putv 5 (r 4) (k 0) 4] : List Instr), Accepts i s ∧
        (ringTake (s.modMe Strand.closeWindows) i 5 0 0).toOption.isSome = true)) := by decide
theorem witness_items : (∀ p ∈ [1, 15], let s := chained 1 3 p 0; ∃ q, linkOf s 0 0x1000 0 3 = .ok q ∧ q.items s 0 = p ∧ q.cap = 16 ∧ ((itemRead s q).toOption.any fun z => decide (RingFree z.2)) = true ∧
      ((itemWrite s q (leBytes 8 7)).toOption.any fun z => decide (RingFree z)) = true) ∧
    (let s := chained 1 6 1 0; ∃ q, linkOf s 0 0x1000 0 6 = .ok q ∧ q.items s 0 < q.cap ∧ ((itemRead s q).toOption.isSome && (itemWrite s q (leBytes 64 7)).toOption.isSome) = true) ∧
    (∀ c ∈ [0x19, 0x119], (ctrlRun c && ctrlFolded c) = true ∧ ctrlCur c = 0 ∧ ctrlFull c 0 = decide (c = 0x119)) ∧ (∀ c ∈ [0x10019, 0x10119], (ctrlRun c && ctrlFolded c) = true ∧ ctrlCur c = 1) ∧
    (∃ q, linkOf (chained 0x19 3 16 0) 0 0x1000 0 3 = .ok q ∧ q.cap ≤ q.items (chained 0x19 3 16 0) 0) :=
  ⟨fun p h => by
    rcases List.mem_cons.1 h with rfl | h
    · exact ⟨_, rfl, by decide⟩
    · obtain rfl := List.mem_singleton.1 h
      exact ⟨_, rfl, by decide⟩, ⟨_, rfl, by decide⟩, by decide, by decide, ⟨_, rfl, by decide⟩⟩
theorem witness_chain_switches : (∀ c ∈ [1, 4, 9, 0x19, 0x1C, 0x29, 0x49], let s := chained c 3 0 0; Accepts (.equiv (r 4) 4) s ∧ (∀ b ∈ [0, 1, 2], Accepts (.chsw 6 (r 4) (k (BitVec.ofNat 5 b)) 4) s) ∧
      (chainRec s (s.src1 (r 4))).toOption = some 0x1000 ∧ (chainRec s (s.srcA (r 4) (k 0))).toOption = some 0x1000 ∧ RingFree s ∧ s.creatorDrained = true ∧ s.me.task.isSome = true ∧
      chainCtrl s 0 0x1000 = c ∧ chswIssue s < 2 ^ 64 ∧ s.me.answers = []) ∧
    (∀ b ∈ [0, 1], let y := ((me id).srcB (k (BitVec.ofNat 5 b))).toNat; bits y 31 1 = 0 ∧ y % 2 = b) ∧ bits ((me id).srcB (k 2)).toNat 31 1 ≠ 0 ∧
    ctrlRun 1 = false ∧ (ctrlRun 9 = true ∧ ctrlPend 9 = false ∧ ctrlFolded 9 = false ∧ ctrlLeft 9 = false) ∧ (ctrlRun 0x29 && ctrlPend 0x29) = true ∧ ctrlLeft 0x49 = true ∧
    (ctrlRun 0x1C = true ∧ ctrlPend 0x1C = false ∧ ctrlFolded 0x1C = true ∧ ctrlLeft 0x1C = false ∧ 3 < ctrlLast 0x1C ∧ 3 < ctrlLast (startCtrl 4) ∧ ctrlLast (startCtrl 1) ≤ 3) := by decide
/-- A chain that starts: four records run, or fewer; strands and blocks for its stages, or none. -/
theorem witness_chain_starts : ((chained 1 3 0 0).here.chains.length < 4) ∧ 4 ≤ ((chained 1 3 0 0).modBrick 0 fun y => { y with chains := [0x1000, 0x2000, 0x3000, 0x4000] }).here.chains.length ∧
    (∀ c ∈ [0, 1], let s := { chained c 3 0 0 with launches := [someLaunch] }; s.launch? 0 = some someLaunch ∧ s.blocksReady 0 someLaunch = true ∧
      (stageStrands s 0 someLaunch (ctrlLast (startCtrl c))).isSome = true ∧ stageStrands s 0 { someLaunch with blocks := List.range 8 } 1 = none) ∧
    (let s := { chained 0 3 0 0 with launches := [someLaunch] }; RingFree (startStages (setStageStrand (chainStart s 0x1000 (putBit (putBit (startCtrl 0) 4 false) 3 true)) 0 0x1000 0 0).bumpFree 0 0x1000 someLaunch [])) := by
  decide
/-- The record at 16 asks for a page at 2^40; the status word is at 0x80. -/
theorem witness_map_requests : (let s : State := { me (reg 4 16 ∘ reg 5 0x80) with mem := cellsSet [] 16 (leBytes 8 (2 ^ 40) ++ leBytes 8 4096 ++ leBytes 8 0 ++ leBytes 8 0) };
      (∀ i ∈ ([.map (r 4) (r 5) 4, .grant (r 4) (r 5) 4, .unmap (r 4) (r 5) 4, .unmapSelf (r 4) (r 5) 4, .mapw 6 (r 5) 4] : List Instr), Accepts i s) ∧
      (s.srcA (r 4) (r 5)).toNat % 8 = 0 ∧ (s.srcB (r 5)).toNat % 8 = 0 ∧ (∀ un ∈ [true, false], ((readRec s 0 16 8 32 needLoad 0).toOption.any fun q => !mapRecBad q.1 un &&
        (storeAccess q.2 10 0x80 8 8 (.write ((leBytes 8 0).map some)) .store).toOption.isSome) = true) ∧ gate s 0 = .ok () ∧ ReadsHere s (s.src1 (r 5)) ∧
      s.num (s.hereAt (s.src1 (r 5))) 8 % 256 = 0 ∧ { s with mem := [(0x80, 1)] }.num 0x80 8 % 256 ≠ 0) ∧
    ((me (reg 4 4)).srcA (r 4) (r 5)).toNat % 8 ≠ 0 ∧ (let s : State := { me (reg 4 16) with mem := [(16 + 27, 1)] }; (readRec s 0 16 8 32 needLoad 0).toOption.any (fun q => mapRecBad q.1 false) = true) := by decide
theorem witness_control_registers : (∀ c ∈ csrNumbers, Accepts (.csrr 3 (BitVec.ofNat 12 c)) (me id) ∧ Accepts (.csrw 4 (BitVec.ofNat 12 c)) (me id) ∧
      Accepts (.csrw 4 (BitVec.ofNat 12 c)) (inService id)) ∧ (inService id).me.phase ≠ 1 ∧ (inService id).here.ownPending = none ∧ (inService fun x => { x with phase := 1 }).me.phase = 1 ∧
    ∀ c ∈ pairCsrNumbers, let s := { State.reset with cur := (32768, 0) }; Accepts (.csrr 3 (BitVec.ofNat 12 c)) s ∧ Accepts (.csrw 3 (BitVec.ofNat 12 c)) s ∧ s.me.mode = .service := by decide
theorem witness_traps : isMessage (me id).cur.1 (me id).cur.2 = false ∧ (me id).me.ops = [] ∧ (me fun x => { x with ops := [loadOp] }).me.drained = false ∧
    isMessage onMessage.cur.1 onMessage.cur.2 = true ∧ onMessage.me.ops = [] ∧ onMessage.me.unacked = 0 := by decide
/-- Strand 0 of the pair of die 0. -/
def onPair : State := { State.reset with cur := (32768, 0) }
theorem witness_system : (∀ i ∈ ([.trap, .brk, .pause, .eret, .halt] : List Instr), Accepts i (me id) ∧ Accepts i (inService id) ∧ Accepts i onPair) ∧ (∀ i ∈ ([.trap, .brk] : List Instr), Accepts i onMessage) ∧
    (me id).me.mode = .task ∧ (inService id).me.ops = [] ∧ (inService id).me.trappc.toNat % 4 = 0 ∧ (inService fun x => { x with trappc := 2 }).me.trappc.toNat % 4 ≠ 0 ∧ (inService id).me.unacked = 0 ∧
    (onPair.me.mode = .service ∧ isPair onPair.cur.1 = true ∧ onPair.me.ops = [] ∧ onPair.me.unacked = 0 ∧ onPair.me.trappc.toNat % 4 = 0 ∧ onPair.pairs.toList[0]?.isSome = true) := by decide
/-- A yield that goes on, and one with YIELDREQ whose task leaves. -/
theorem witness_yield : (let s := running id; Accepts .yield s ∧ s.me.ops = [] ∧ s.me.unacked = 0 ∧ s.me.yieldPend = false ∧ s.me.phase ≠ 2 ∧ s.here.hasWork s.cur.2 = false ∧ s.me.task = some task) ∧
    (let s := { running fun x => { x with yieldPend := true } with launches := [someLaunch] }; let x := s.me; Accepts .yield s ∧ x.ops = [] ∧ x.unacked = 0 ∧ x.yieldPend = true ∧ x.task = some task ∧
      x.saveReady s s.cur.1 = true ∧ let y : Strand := { x with yieldPend := false, yieldLeft := 0, saveDue := false, wdCount := 0, wdDue := false, fetchOwn := s.codeLog.length }
      (leaveStrand (s.modMe fun _ => { y with pc := y.pc + 4, hints := Hints.none, phase := 0 }) 0 0 task false none).toOption.isSome = true) := ⟨by decide, by decide +kernel⟩

/-! Events of a strand. -/

/-- A blocked task, and a late fault of ring entry 0. -/
def blocked (r : BlockOn) (f : Strand → Strand) : State := running fun x => { f x with block := some r }
def late : Late := ⟨.scaleInvalid, 0⟩
def entry : RingEntry := ⟨0, 4, some .scaleInvalid, 0, 0, 0, 0, 0, false⟩
/-- A context that is away, blocked on r. -/
def gone (r : BlockOn) : Ctx := ⟨task, 0, 0, 0, some 0, true, some r, 0, [], 0, [], [], none, 0, [], none⟩
def withAway (r : BlockOn) : State := (me id).modBrick 0 fun y => { y with away := [gone r] }
/-- A reply for token 9 with a number, to brick 0. -/
def reply (n : Nat) : Msg := ⟨40, 1, 0, 0, 0x100000002, 0, [BitVec.ofNat 64 (9 + n * 2 ^ 32), 0x80], [], 0, none, false, 0⟩
def replied (c : Code) (n : Nat) : State := { blocked (.fault 9 0 c) id with net := [reply n] }
/-- The write of a value to ACCOWN by strand 0, whose save area is at 0x8000. -/
def ownWrite (v : Word) : OwnWrite := ⟨v, 0, none, [], false, 0, 0x8000, none, false⟩
/-- A csrw of ACCOWN by strand 0, that context 1 loses to context 0: its save area is at 0x4000, the new owner's at 0x8000, with an image. -/
def owning (v : Word) : State :=
  { (me fun x => { x with savearea := 8 }).modBrick 0 fun y => { y with accown := ownWord 0 1, ownSave := 0x4000, acc := 0x1234, ownPending := some (ownWrite v) } with
    mem := [(0x9000, 7), (0xA000, 1)] }

theorem test_watchdog_clears_its_count : let s := after (.watchdog 0 0) (running fun x => { x with wdDue := true, wdCount := 70000 }); s.me.trapcause = 0x67 ∧ s.me.wdCount = 0 := by decide
theorem test_late_fault_marks_its_trap : let s := after (.lateFaultTrap 0 0) (running fun x => { x with ring := [entry], lates := [late] }); s.me.trapcause = 0x120 ∧ s.me.fltseq = 0 := by decide
theorem test_block_resolve_join : (after (.blockResolve 0 0) (blocked (.join 16) id)).me.block = none := by decide
theorem test_acq_retry_waits : (after (.acqRetry 0 0) (blocked (.acq 16 3) id)).me.block = some (.acq 16 3) := by decide
theorem test_reply_redirect : (after (.faultReply 0) (replied .notMapped 2)).me.answers = [(0, .redirect 0x80)] := by decide
theorem test_reply_kill : (after (.faultReply 0) (replied .sealedLoad 2)).me.kill = some 0x8000000000000043 := by decide
theorem test_bindtab_write_keeps : (after (.bindtabWrite 6) (me fun x => { x with bindtab := 3 })).me.bindtab = 2 := by decide
theorem test_accown_write_hands_over : let s := after (.accownWrite 0) (owning (ownWord 0 0)); (s.brick 0).acc = 7 ∧ s.num 0x5000 4 = 0x1234 ∧ s.num 0x6000 8 = 1 ∧ s.num 0xA000 8 = 0 ∧
    (s.brick 0).accown = ownWord 0 0 := by decide +kernel

theorem witness_interruptions : (let x := (running fun x => { x with ring := [entry], lates := [late] }).strand 0 0; x.ops = [] ∧ x.ready = true ∧ x.saveDue = false ∧ x.firstLate = some late) ∧
    (let x := (running fun x => { x with wdDue := true, wdCount := 65536, pause := some 0, yieldPend := true }).strand 0 0; x.ops = [] ∧ x.ready = true ∧ x.saveDue = false ∧ x.lates = [] ∧
      x.wdDue = true ∧ x.task ≠ none ∧ x.block = none ∧ x.yieldPend = true ∧ x.yieldLeft = 0 ∧ x.pause = some 0) ∧
    (let x := (running fun x => { x with wdLog2 := 16, wdCount := 65536 }).strand 0 0; 2 ^ max x.wdLog2.toNat 16 ≤ x.wdCount.toNat) ∧
    (let s := { running (fun x => { x with deadline := 9 }) with launches := [someLaunch] }; s.launch? someLaunch.id = some someLaunch ∧ someLaunch.st = .running ∧ 0 ∈ someLaunch.bricks ∧
      (s.strand 0 0).task ≠ none ∧ (s.strand 0 0).yieldPend = false ∧ (s.strand 0 0).deadline ≠ 0) ∧ ({ someLaunch with raises := [96] }.raises.contains 96 = true) := by decide
theorem witness_saves : (let s := running fun x => { x with saveDue := true }; let x := s.strand 0 0; x.task = some task ∧ x.saveDue = true ∧ x.ready = true ∧ x.ops = [] ∧ x.unacked = 0 ∧
      (s.brick 0).firedOf x.ctxKey = false ∧ x.saveReady s 0 = true) ∧
    (let s := (blocked (.join 16) id).modBrick 0 fun y => { y with deque := [record] }; let x := s.strand 0 0; x.task = some task ∧ x.block = some (.join 16) ∧ x.restore = none ∧ x.ops.all (BlockOn.join 16).still = true ∧ x.saveFaulted = false ∧
      x.unacked = 0 ∧ x.saveTok = none ∧ x.halted = none ∧ x.mode = .task ∧ isPair 0 = false ∧ BlockOn.departs (.join 16) x.ops = true ∧
      x.since + 256 ≤ { s with cycle := 256 }.cycle ∧ (s.brick 0).hasWork 0 = true ∧ x.saveReady s 0 = true) := by decide
theorem witness_saved_areas : (let s := running fun x => { x with saveDue := true }; (leaveStrand (s.modStrand 0 0 Strand.closeWindows) 0 0 task true
      (if (s.brick 0).ownsAcc 0 0 then some (s.brick 0).acc else none)).toOption.isSome = true) ∧
    (leaveStrand ((blocked (.join 16) id).modStrand 0 0 Strand.closeFor) 0 0 task true none).toOption.isSome = true := by decide +kernel
theorem witness_blocks : (let s := blocked (.acq 16 0) id; (s.strand 0 0).saveTok = none ∧ acqDue s 0 0 16 0 = true) ∧ (let s := blocked (.join 16) id; s.homeDouble 0 0 16 = some (.ok 0)) ∧
    ctrlPend (chainCtrl (blocked (.equiv 0x1000 4) id) 0 0x1000) = false ∧ linkOpen (chained 1 3 1 0) 0 0x1000 0 false = true ∧ linkOpen (chained 1 3 1 0) 0 0x1000 0 true = true ∧
    (∀ e ∈ (blocked .ring id).me.ring, e.seq.toNat % 64 ≠ (blocked .ring id).me.seqNext.toNat % 64) ∧
    (let o := { loadOp with done := true }; (blocked (.op 9) fun x => { x with ops := [o] }).me.ops.find? (fun q => q.id = o.id) = some o ∧ o.done = true) ∧
    (∀ g ∈ [gone .ring, gone (.acq 16 0)], let s := (me id).modBrick 0 fun y => { y with away := [g] }; (s.brick 0).awayOf 8 = some g ∧
      (s.launch? g.task.launch).any (fun l => l.st = .preempted) = false ∧ g.kill = none ∧ acqDue s 0 g.space 16 0 = true ∧
      (s.brick 0).strands.toList[0]?.all Strand.slotFree = true ∧ g.strand = some 0) := by decide
theorem witness_replies : ∀ n ∈ [0, 1, 2, 3], ∀ c ∈ [Code.notMapped, Code.sealedLoad], let s := replied c n; let m := reply n; s.net[0]? = some m ∧ s.msgAfter 0 m = false ∧ m.dst = 0 ∧
    hdrReply m.hdr.toNat = true ∧ m.data.length = 2 ∧ m.op = none ∧ (m.data.getD 0 0).toNat % 2 ^ 32 = 9 ∧ (m.data.getD 0 0).toNat / 2 ^ 32 = n ∧
    (s.strand 0 0).block = some (.fault 9 0 c) ∧ (s.strand 0 0).saveTok = none ∧ c.sealed = decide (c = .sealedLoad) ∧
    (∀ j, (replyStrand { me id with net := [m] } 0 9 0x9 0x80 j).isNone = true) ∧ (s.brick 0).away ++ (s.brick 0).ready ++ (s.brick 0).kept = [] ∧ replyOwn s 0 9 0x9 0x80 = none ∧ replyCmd s 0 9 0x9 0x80 = none := by decide
/-- ACCOWN free and owned, the new value without and with an owner. -/
theorem witness_ownership : (let s := (owning 0).modBrick 0 fun y => { y with accown := 0 }; (s.brick 0).ownPending = some (ownWrite 0) ∧ (s.brick 0).firedOf 0 = false ∧
      (s.brick 0).accown.getLsbD 63 = false ∧ (0 : Word).getLsbD 63 = false) ∧
    (let s := owning (ownWord 0 0); (s.brick 0).ownPending = some (ownWrite (ownWord 0 0)) ∧ (s.brick 0).firedOf (2 ^ 20) = false ∧ (s.brick 0).accown.getLsbD 63 = true ∧ (s.brick 0).accown ≠ ownWord 0 0 ∧
      (ownWord 0 0).getLsbD 63 = true ∧ (owning 0).here.accown ≠ 0) ∧ decode 0 = .error .illegal ∧ (0xC4000000 : IWord).toNat / 2 ^ 26 = 0x31 := by decide
theorem witness_images_move : (let s := owning (ownWord 0 0); let named (z : State) : State := z.modBrick 0 fun y => { y with accown := ownWord 0 0, ownSave := 0x8000 }
      (takeImage ⟨0, 0, 0, 0, 0x8000⟩ (named (s.modBrick 0 fun y => { y with accown := 0 })) []).stop = none ∧
      let r := giveImage ⟨0, 0, 0, 0, 0x4000⟩ s [] false; r.stop = none ∧ (takeImage ⟨0, 0, (r.s.strand 0 0).pc, 0, 0x8000⟩ (named r.s) r.ans).stop = none) ∧
    (giveImage ⟨0, 0, 0, 0, 0x4000⟩ (owning 0) [] false).stop = none := by decide +kernel

/-! Events of tasks, messages, footings and chains. -/

/-- Brick 0 runs someLaunch. -/
def course (f : Brick → Brick) : State := { (me id).modBrick 0 fun y => f { y with launch := some 0 } with launches := [someLaunch] }
/-- An operation of send, its status on the way or returned. -/
def sendOp (land : Word) (st : Option Nat) : Op := ⟨9, some 3, false, false, ⟨none, [], false⟩, 0, none, .msg 3 land (land = 0) st, [], 16, 0, 0, 0⟩
def sent : Msg := { message with op := some 9 }
def sending (s : State) : State := { s.modStrand 0 0 fun x => { x with ops := [sendOp 0 none] } with net := [sent] }
/-- The record of the root space, torn down or not. -/
def root (down : Bool) : Space := ((State.reset.space? 0).map fun p => { p with teardown := down }).getD ⟨0, 0, 0, .unset, .kill, none, down, [], [], []⟩
/-- A launch of one row of two bricks, 0 and 1. -/
def pairLaunch : Launch := { someLaunch with cmd := { someLaunch.cmd with cols := 2 } }
def theft (a : Option (Option (DeqRec × Nat))) (f : Brick → Brick) : State :=
  { (((me id).modBrick 0 fun y => { y with launch := some 0 }).modBrick 1 fun y => f { y with launch := some 0 }) with launches := [pairLaunch], steals := [⟨0, 0, 1, 0, a⟩] }
def frame : Frame := ⟨task, 0x55, 0, 0x4000, 0x1230, 1, 2, (reg 5 6 State.reset.me).s, 0, []⟩
/-- A member of channel 3 waits, its operation under way; the phase is full. -/
def member (drain : Bool) : Op := ⟨9, some 3, false, false, ⟨none, [], false⟩, 0, none, .foot 3 (some 6) drain, [], 0, 0, 0, 0⟩
def meeting : State := { (me fun x => { x with ops := [member false] }) with cycle := 32, foots := [⟨3, 0, 1, 6, [⟨0, 0, 9, .comb 6 5, 0, false⟩], []⟩] }
/-- A chain of two stages with a pending switch, stage 0 on strand 0 and stage 1 on strand 1, both at an equivalence point. -/
def switching (form : Bool) (limit : Option Nat) : State :=
  let t : State := { (chained (if form then 0x29 else 0x39) 3 0 0).modBrick 0 fun y => { y with launch := some 0, switches := [⟨0x1000, form, some 0, none, limit⟩] } with launches := [someLaunch] }
  let s := t.modMe fun x => { x with block := some (.equiv 0x1000 0x40) }
  if form then s.modStrand 0 1 fun x => { x with task := some { task with stages := [(0x1000, 1)] }, ctxid := 1, block := some (.get 0x1000 0) } else s

theorem test_message_arrives : ((after (.messageArrival 0) { course id with net := [message] }).brick 0).inbox.map (·.id) = [30] := by decide
theorem test_send_status : let s := (me fun x => { x with ops := [sendOp 0 (some 0x66)] }); ((after (.sendStatus 0 9) s).brick 0).findOp 9 |>.any fun q => q.2.commit.sc = some (3, 0x66) := by decide +kernel
theorem test_handler_registers : let s := after (.handlerStart 0) (course fun y => { y with inbox := [{ message with code := [0], srcBrick := 3, srcStrand := 2 }] });
    (s.strand 0 4).sreg 0 = 7 ∧ (s.strand 0 4).sreg 6 = 0x20003 ∧ (s.strand 0 4).sreg 7 = 0x50001 := by decide
theorem test_dispatch_starts_a_record : let s := after (.strandDispatch 0 1 2) (course fun y => { y with deque := [record] }); (s.strand 0 1).pc = 0x1000 ∧ (s.strand 0 1).sreg 1 = 2 ∧
    (s.strand 0 1).sreg 13 = 0xC000 := by decide +kernel
theorem test_steal_takes_the_oldest : let s := after (.stealRequest 0 0 3) (theft none fun y => { y with deque := [record, { record with arg0 := 9 }] });
    s.steals.map (fun m => m.answer.map fun a => a.map fun q => (q.1.arg0, q.2)) = [some (some (9, 3))] := by decide
theorem test_frame_arrives : let s := after (.migrateArrival 0 1) { course id with frames := [frame] }; (s.strand 0 1).pc = 0x1230 ∧ (s.strand 0 1).sreg 5 = 6 := by decide
theorem test_footing_releases : let s := after (.footingRelease 0 3) meeting; s.foots.map (·.phase) = [7] ∧ ((s.brick 0).findOp 9).any (fun q => q.2.commit.sc = some (6, 5)) := by decide +kernel
theorem test_chain_folds : let s := after (.chainSwitchComplete 0 0x1000) (switching true none); s.num 0x1000 8 = 0x19 ∧ s.me.pc = 0x40 ∧ (s.strand 0 1).task = none := by decide +kernel
theorem test_chain_limit : let s := after (.chswLimitExpiry 0 0x1000) ((switching true (some 0)).modStrand 0 1 fun x => { x with block := none }); s.num 0x1000 8 = 9 ∧ (s.brick 0).switches = [] := by decide

theorem witness_arriving_messages : (∀ s ∈ [sending (course id), sending (course fun y => { y with inbox := List.replicate 64 { message with hdr := 6 } }), sending (me id)], s.net[0]? = some sent ∧
      s.msgAfter 0 sent = false ∧ hdrReply sent.hdr.toNat = false ∧ isPair sent.dst = false ∧ s.space? 0 = some (root false) ∧
      ((s.brick 0).findOp 9).any (fun q => q.1 = 0 && q.2.kind = .msg 3 0 true none) = true) ∧
    (root false).teardown = false ∧ (course id).runsSpace 0 0 = some someLaunch ∧ (me id).runsSpace 0 0 = none ∧ ((course id).brick 0).inboxUsed + sent.size ≤ 4096 ∧
    4096 < ((course fun y => { y with inbox := List.replicate 64 { message with hdr := 6 } }).brick 0).inboxUsed + sent.size ∧ (root true).teardown = true := by decide
theorem witness_statuses : (∀ land ∈ [0, 16], let o := sendOp (BitVec.ofNat 64 land) (some 0); let s := me fun x => { x with ops := [o] }; ((s.brick 0).findOp o.id) = some (0, o) ∧ o.done = false ∧
      o.kind = .msg 3 (BitVec.ofNat 64 land) (land = 0) (some 0)) ∧ (landChunk 0x4000000000000100 16).2 = false ∧ (me id).readPoison (sramPa 0 16) 8 = false ∧
    (∀ c ∈ ([[], [0]] : List (List IWord)), let m := { message with code := c }; let s := course fun y => { y with heap := [m], inbox := [m] }; (s.brick 0).heap = [m] ∧
      (s.brick 0).inboxUsed + m.size ≤ 4096 ∧ (s.brick 0).handler = none ∧ ((s.brick 0).inbox.find? (fun m => m.code ≠ [])).isSome = decide (c ≠ []) ∧ s.runsSpace 0 m.space = some someLaunch) ∧
    (let s := (course fun y => { y with handler := some message }).modStrand 0 4 fun x => { x with handlerCount := 256 }; (s.brick 0).handler ≠ none ∧ 256 ≤ (s.strand 0 4).handlerCount ∧
      (s.strand 0 4).ops = [] ∧ (s.strand 0 4).unacked = 0) := by decide
theorem witness_dispatch : (let g := gone (.join 16); let s := course fun y => { y with ready := [g] }; s.runsHere 0 = some someLaunch ∧ (s.brick 0).strandFree 1 = true ∧
      (s.brick 0).ready.find? (fun c => c.mayRun (s.brick 0) 1) = some g) ∧
    (let s := course fun y => { y with deque := [record] }; (s.brick 0).ready.find? (fun c => c.mayRun (s.brick 0) 1) = none ∧ (s.brick 0).deque = [record] ∧ (s.brick 0).frames = [] ∧
      record.frame = none ∧ someLaunch.blockFree 2 = true ∧ s.blockReady 0 someLaunch 2 = true) ∧
    ((course id).strand 0 1).steal = .idle ∧ stealGroup someLaunch 0 = [] ∧ (stealGroup pairLaunch 0)[0]? = some 1 := by decide
theorem witness_theft : (let s := theft none fun y => { y with deque := [record] }; s.steals = [⟨0, 0, 1, 0, none⟩] ∧ s.launch? 0 = some pairLaunch ∧ pairLaunch.id = 0 ∧ (s.brick 1).deque = [record] ∧
      s.runsHere 1 = some pairLaunch ∧ pairLaunch.blockFree 3 = true ∧ s.blockReady 1 pairLaunch 3 = true ∧ (s.brick 1).frames = []) ∧ ((theft none id).brick 1).deque = [] ∧
    (let s := theft (some (some (record, 3))) id; (s.brick 0).strandFree 0 = true ∧ s.runsHere 0 = some pairLaunch ∧ (s.brick 0).deque.length < 64 ∧ s.blockReady 0 pairLaunch 3 = true) ∧
    ((me fun x => { x with steal := .backoff 0 }).strand 0 0).steal = .backoff 0 ∧
    (let s := { course id with frames := [frame] }; s.frames[0]? = some frame ∧ s.space? frame.space = some (root false) ∧ s.runsSpace frame.dst frame.space = some someLaunch ∧
      someLaunch.st = .running ∧ (s.brick 0).strandFree 1 = true ∧ (me id).runsSpace frame.dst frame.space = none) ∧
    (let s := course fun y => { y with strands := Vector.replicate 5 { Strand.fresh .task with task := some task } }; (∀ j, (s.brick 0).strandFree j = false) ∧ (s.brick 0).deque.length < 64 ∧ (s.brick 0).frames = []) := by decide
theorem witness_footings : (let s := { (me fun x => { x with ops := [member true] }) with foots := [⟨3, 0, 2, 6, [], []⟩] }; let f : Foot := ⟨3, 0, 2, 6, [], []⟩;
      (s.brick 0).findOp 9 = some (0, member true) ∧ s.me.unacked = 0 ∧ s.foot? 3 = some f ∧ f.held = [] ∧ f.arrivals.length < f.expected ∧ f.arrivals.any (fun q => q.ctx = s.me.ctxKey && q.brick = 0) = false) ∧
    (let f : Foot := ⟨3, 0, 1, 6, [⟨0, 0, 9, .comb 6 5, 0, false⟩], []⟩; meeting.foot? (footKey 0 3) = some f ∧ f.key = footKey 0 3 ∧ meeting.launch? f.launch = none ∧ f.arrivals ≠ [] ∧ f.expected ≤ f.arrivals.length ∧
      (∀ a ∈ f.arrivals, a.cycle + 32 ≤ meeting.cycle) ∧ (meeting.brick 0).findOp 9 = some (0, member false)) := by decide
theorem witness_switch_limits : (let s := switching true (some 0); let w : Switch := ⟨0x1000, true, some 0, none, some 0⟩; (s.brick 0).switches.find? (fun w => w.crec = 0x1000) = some w ∧
      ctrlLeft (chainCtrl s 0 0x1000) = false ∧ (switchSpots s 0 w).isSome = true ∧ (switchSpots (s.modStrand 0 1 fun x => { x with block := none }) 0 w).isNone = true) := by decide
theorem witness_spreads : let s := switching false none; let w : Switch := ⟨0x1000, false, some 0, none, none⟩; (s.brick 0).switches.find? (fun w => w.crec = 0x1000) = some w ∧
    s.runsHere 0 = some someLaunch ∧ ctrlPend (chainCtrl s 0 0x1000) = true ∧ ctrlLeft (chainCtrl s 0 0x1000) = false ∧ ctrlLast (chainCtrl s 0 0x1000) ≤ 3 ∧ 3 < ctrlLast 0x3C ∧
    (match stageSpot s 0 0 0x1000 none with | some (.on k) => decide (k = 0) | _ => false) = true ∧ (Spot.on 0).draining s 0 w = false ∧ s.blocksReady 0 someLaunch = true ∧
    (stageStrands s 0 someLaunch (ctrlLast (chainCtrl s 0 0x1000))).isSome = true := by decide
theorem witness_folds : let s := switching true none; let w : Switch := ⟨0x1000, true, some 0, none, none⟩; (s.brick 0).switches.find? (fun w => w.crec = 0x1000) = some w ∧
    s.runsHere 0 = some someLaunch ∧ ctrlPend (chainCtrl s 0 0x1000) = true ∧ ctrlLeft (chainCtrl s 0 0x1000) = false ∧ ctrlLast (chainCtrl s 0 0x1000) = 1 ∧
    (match stageSpot s 0 0 0x1000 (some 0), stageSpot s 0 0 0x1000 (some 1) with | some (.on k), some (.on j) => decide (k = 0) && decide (j = 1) | _, _ => false) = true ∧
    (Spot.on 1).busy s 0 w = false ∧ (Spot.on 0).draining s 0 w = false ∧ (s.strand 0 1).task.map (·.stages) = some [(0x1000, 1)] := by decide
theorem witness_scheduler_switches : let s : State := { (chained 9 3 0 0).modBrick 0 fun y => { y with launch := some 0, ready := [gone .ring] } with launches := [someLaunch], cycle := 105000 }; s.runsHere 0 = some someLaunch ∧
    0x1000 ∈ (s.brick 0).chains ∧ someLaunch.cmd.nochsw = false ∧ (s.brick 0).chainOf 0 0x1000 = true ∧ ctrlPend (chainCtrl s 0 0x1000) = false ∧ ctrlLeft (chainCtrl s 0 0x1000) = false ∧
    ctrlFolded (chainCtrl s 0 0x1000) = false ∧ schedulerWants s 0 0x1000 someLaunch true 1 = true := by decide

/-! Events of the map units, spaces, queues and launches. -/

/-- Space 0 maps 64 KiB at 2^40 to brick 1's SRAM, as node 50 below node 49, and a request for 64 bytes of it, its status word at 0x80. -/
def window : Node := ⟨50, 0, 2 ^ 40, 0x10000, sramPa 1 0, Attr.clear 7, some 49, .linear, false, [], 0, false, 0⟩
def ask (fn : MapFn) (len dest : Nat) (rights : BitVec 3) : MapReq := ⟨fn, 0, 0, 0, 0, 0x10000000000, BitVec.ofNat 64 len, BitVec.ofNat 64 dest, 0, { Attr.clear 0 with rights := rights }, 0x80, 0, none⟩
def asked (q : MapReq) (f : Node → Node) : State := { me id with nodes := few ++ [f window], mapq := [q] }
/-- A withdrawal of node 50 with a request, that brick 0 has taken, and acknowledged. -/
def leaving (req : Option MapReq) : Withdrawal := ⟨70, [50], [(0, 2 ^ 40, 0x10000)], [0], [], req, 1, []⟩
def withdrawn (req : Option MapReq) (f : Brick → Brick) : State := { (me id).modBrick 0 f with nodes := few ++ [{ window with withdrawing := true }], withdrawals := [leaving req] }
/-- Queue 60 of space 0: its ring of 16 commands at 2^40 in brick 1, its head word at 0x8000 there, one command in it. -/
def queue (f : Queue → Queue) : Queue := f ⟨60, 0, 2 ^ 40, 4, sramPa 1 0x8000, 0, 1, 0, 3, some 0, 0, 0, none, 0, none, none, 0, false⟩
def queues (q : Queue) (l : List Byte) : State := { me id with nodes := few ++ [window], queues := [q], mem := cellsSet [] (sramPa 1 0) l }
/-- A command of a kind at 2^40 + 0x9000. -/
def command (h v : Nat) : List Byte := leBytes 8 h ++ leBytes 8 (2 ^ 40 + 0x9000) ++ leBytes 8 v ++ List.replicate 40 0
/-- A LAUNCH: one brick at 0, eight blocks of 16 KiB at 2^40, and a launch that waits for it. -/
def launchWords : List Byte := leBytes 8 1 ++ leBytes 8 0x4000 ++ leBytes 8 0 ++ leBytes 8 (2 ^ 40) ++ leBytes 8 0 ++ leBytes 4 2 ++ leBytes 4 0 ++ [1, 1, 14, 0] ++ leBytes 4 0 ++ leBytes 2 0x8000 ++ leBytes 6 0
def pending : Launch := Launch.waiting 80 0 (parseLaunch launchWords) 0 none [] false 0
def waitingLaunch (l : Launch) : State := { me id with nodes := few ++ [window], launches := [l] }
/-- The launch holds brick 0. -/
def held (st : LaunchSt) : Launch := { pending with st := st, win := 4, started := true }

theorem test_map_adds_a_node : (after (.mapRequest 0) (asked (ask .map 32 (2 ^ 41) 1) id)).nodes.map (fun n => n.va) = 2 ^ 41 :: few.map (·.va) ++ [2 ^ 40] := by decide
theorem test_map_len_zero : (after (.mapRequest 0) (asked (ask .map 0 (2 ^ 41) 1) id)).num 0x80 8 = 6 := by decide
theorem test_map_rights : (after (.mapRequest 0) (asked (ask .map 32 (2 ^ 41) 7) fun n => { n with attr := Attr.clear 1 })).num 0x80 8 = 3 := by decide
theorem test_unmap_counts : (after (.withdrawalPoint 70) (withdrawn (some (ask .unmapSelf 0x10000 0 0)) fun y => { y with taken := [(70, 0)], acked := [70] })).num 0x80 8 = 2 ^ 32 + 1 := by decide +kernel
theorem test_space_create : (after (.spaceCreate 5 0 7 0) (me id)).spaces.map (fun p => p.id) = [0, 5] := by decide
theorem test_doorbell_overruns : (after (.doorbell 60 0 8 17) (queues (queue id) [])).queues.map (·.err) = [3] := by decide +kernel
theorem test_signal_add : (after (.signalAdd 60) { queues (queue id) (command 0x10002 5) with mem := cellsSet (cellsSet [] (sramPa 1 0) (command 0x10002 5)) (sramPa 1 0x9000) [3] }).num (sramPa 1 0x9000) 8 = 8 := by decide +kernel
theorem test_launch_without_blocks_is_refused : let l := { pending with cmd := { pending.cmd with ctxcount := 0, compl := 0x10000009000 } };
    let s := (match execLaunchPlacement 80 0 3 4 (waitingLaunch l) with | .next t => t | _ => me id); s.launches = [] ∧ s.num (sramPa 1 0x9008) 8 = 0xC000000000000002 := by decide +kernel

theorem witness_map_unit : (∀ fn ∈ [MapFn.map, .grant, .unmap, .unmapSelf], let len := if fn = .map then 32 else 0x10000; let q := ask fn len (2 ^ 41) 1; let s := asked q id;
      s.mapq[0]? = some q ∧ s.zeroBusy q = false ∧ q.brick < 2 ^ 15 ∧ q.status.toNat < Config.dequeBase ∧ q.status.toNat % 8 = 0 ∧ s.coverOf q = some window ∧ window.grain = 32 ∧ q.base.toNat % 32 = 0 ∧
      q.len.toNat % 32 = 0 ∧ q.dest.toNat % 32 = 0 ∧ noNode s q window = false ∧ s.underWithdrawal s.nodes.length window = false ∧ mapRights s q window = false ∧
      (∀ o ∈ s.nodes, ¬(o.space = q.dspace ∧ overlaps o.va o.len q.dest.toNat q.len.toNat = true)) ∧ window.parent ≠ some window.id) ∧
    (let q := { ask .map 0 0 1 with base := 0x50000 }; (asked q id).coverOf q = none) ∧ noNode (asked (ask .map 0x20000 (2 ^ 41) 1) id) (ask .map 0x20000 (2 ^ 41) 1) window = true ∧
    (let s := asked (ask .map 32 (2 ^ 41) 1) fun n => { n with withdrawing := true }; s.coverOf (ask .map 32 (2 ^ 41) 1) = some { window with withdrawing := true }) ∧
    ((ask .map 32 0 7).attr.rights &&& ~~~(Attr.clear 1).rights) ≠ 0 ∧ overlaps window.va window.len (2 ^ 40) 32 = true := by decide
theorem witness_withdrawals : (∀ req ∈ [none, some (ask .unmap 0x10000 0 0), some (ask .grant 0x10000 0 0)],
      (let s := withdrawn req id; s.withdrawals.find? (fun q => q.id = 70) = some (leaving req) ∧ (leaving req).dies.contains (dieOf 0) = true ∧ (s.brick 0).disabled = false ∧ (s.brick 0).taken = []) ∧
      (let s := withdrawn req fun y => { y with taken := [(70, 0)] }; (s.brick 0).taken.find? (fun t => t.1 = 70) = some (70, 0) ∧ 70 ∉ (s.brick 0).acked ∧ (s.brick 0).inFlight 0 = false ∧
        (s.brick 0).pinned (leaving req) = false) ∧ (leaving req).waits = [] ∧ (leaving req).make = []) := by decide
theorem witness_acknowledged : (withdrawn none fun y => { y with taken := [(70, 0)], acked := [70] }).allAcked (leaving none) = true := by decide +kernel
theorem witness_spaces : (∀ p ∈ (me id).spaces, p.id % 65536 ≠ 5) ∧ (∀ w ∈ (me id).worlds, w.id = 0 → w.locked = 0) ∧
    (let p := { root false with id := 5 }; let s := { me id with spaces := [p] }; s.space? 5 = some p ∧ p.id ≠ 0 ∧ p.teardown = false ∧ (s.nodes.map (·.id)).Nodup) ∧
    ({ me id with cycle := 2100000 }.lastSweep + 2100000 ≤ { me id with cycle := 2100000 }.cycle) ∧
    (let n := { window with kind := .closed }; ({ me id with nodes := [n] }.node? n.id = some n) ∧ n.space = 0 ∧ n.withdrawing = false) := by decide
theorem witness_doorbells : (let s := queues (queue id) []; s.queue? 60 = some (queue id) ∧ (queue id).err = 0) ∧ (((16 : Word).truncate 32 - (queue id).head : BitVec 32).toNat ≤ 2 ^ 4) ∧
    2 ^ 4 < ((17 : Word).truncate 32 - (queue id).head : BitVec 32).toNat ∧ (queue fun q => { q with err := 3 }).err ≠ 0 ∧ (queues (queue id) []).launches = [] ∧
    (∀ h ∈ [2, 0x10002, 0x20002, 3, 0x10003, 4], commandBad (command h 0) = false ∧ (h / 2 ^ 12).testBit 0 = false) ∧ commandBad launchWords = false ∧ launchWords.length = 64 := by decide
/-- The head word in SRAM takes a write when its place is free. -/
theorem headHere_of_sram (s : State) (space head : Nat) (hc : paClass head = 0)
    (h : s.homeReady head = true ∧ s.lapsed ≠ some (head / 2 ^ 21 * 2 ^ 21) ∧ s.sealedPa head = false ∧ s.inDeque head = false) : HeadHere s space head :=
  ⟨h.1, h.2.1, h.2.2.1, h.2.2.2, by simp [hc], by simp [hc], by simp [hc]⟩
theorem witness_heads : HeadHere (queues (queue id) (command 2 5)) 0 (sramPa 1 0x8000) ∧ HeadHere (queues (queue id) launchWords) 0 (sramPa 1 0x8000) ∧ HeadHere (me id) 0 (sramPa 1 0x8000) :=
  ⟨headHere_of_sram _ _ _ (by decide) (by decide), headHere_of_sram _ _ _ (by decide) (by decide), headHere_of_sram _ _ _ (by decide) ⟨by decide, by decide, by decide, by decide⟩⟩
theorem witness_commands : (∀ l ∈ [command 2 5, launchWords], let s := queues (queue id) l; s.queueWork (queue id) = true ∧ s.unplaced 60 = false ∧
      (queue id).cmd = none ∧ s.headReady (queue id) = true ∧ (queue id).err = 0 ∧ s.queueDie (queue id) = 0 ∧ s.hwBytes 0 0 (2 ^ 40) 64 = some (.ok l)) ∧
    (let s := queues (queue id) []; ∀ n ∈ [needStore, needAtomic, needRel], (s.placeHw 0 0 (2 ^ 40 + 0x9000) n).toOption.any (fun p => p.pa = sramPa 1 0x9000 && !s.inDeque p.pa && !s.readPoison p.pa 8) = true) ∧
    (let s := me id; (s.twoPages 0).isSome = true ∧ (s.rootOver (sramPa 1 0x8000)).isSome = true ∧ ((s.rootOver (sramPa 1 0x8000)).all fun n => (s.memWorld n (n.va + (sramPa 1 0x8000 - n.pa))).all (· = 0)) = true ∧ sramPa 1 0x8000 % 4096 = 0 ∧
      s.queues.length < 65536 ∧ (∀ q ∈ s.queues, q.id ≠ s.nextId)) ∧
    (queues (queue id) []).covered 0 (2 ^ 40) (64 * 2 ^ 4) needLoad ringClass = true ∧ (queues (queue id) [7]).hwBytes 0 0 (2 ^ 40) 8 = some (.ok (leBytes 8 7)) := by decide +kernel
theorem witness_slots : ∀ t ∈ [0, 1], ∀ o ∈ [none, some 0], let x := queue fun q => { q with tail := BitVec.ofNat 32 t, slot := o }; let s := { queues x (command 2 5) with cycle := 210000 };
    s.queues = [x] ∧ s.launches = [] ∧ s.lastTick + 210000 ≤ s.cycle ∧ s.takeover = false ∧ s.queueWork x = decide (t = 1) ∧ s.queueWork { x with slot := none } = decide (t = 1) ∧ s.wantedDie x = none := by decide
theorem witness_placement : (let s := waitingLaunch pending; s.launch? 80 = some pending ∧ s.placeable pending = true ∧ pending.cmd.origin.testBit 15 = true ∧ pending.cmd.origin % 2 ^ 15 = 0 ∧
      fitsMesh 0 1 1 = true ∧ (∀ b ∈ courseBricks 0 1 1, s.mayHold pending b = true) ∧ (∀ n ∈ s.nodes, n.space = 0 → overlaps n.va n.len (4 * 2 ^ 30) 0x80000000 = false) ∧
      pending.cmd.nfd = 0 ∧ s.channels pending.cmd 0 = some [] ∧ (constBank s pending = some (.ok (Vector.replicate 32 0))) ∧ s.refusal pending = none ∧ s.outranked pending = false ∧ pending.refused = none ∧
      (∀ b ∈ courseBricks 0 1 1, s.holders b = []) ∧ pending.cmd.gang = false ∧ pending.cmd.ctxcount ≠ 0) := by decide
/-- With two blocks and one root, the roots are ready when the first line of every block's context image is. -/
theorem rootsReady_of_blocks (s : State) (l : Launch) (h1 : l.cmd.roots = 1) (h2 : l.cmd.ctxcount = 2)
    (h : ∀ j < 2, s.poolReady (courseBrick l.org 0 0) l.space (l.blockBase j + 0x2000) 64 = true) : s.rootsReady l = true := by
  have hx : ∀ x : Nat, (List.range 2).getD (x % 2) 0 < 2 := fun x => by
    have := Nat.mod_lt x (show 0 < 2 by decide)
    generalize x % 2 = y at this
    interval_cases y <;> decide
  have hd : ∀ n, 0 / n = 0 ∧ 0 % n = 0 := fun n => ⟨Nat.zero_div n, Nat.zero_mod n⟩
  simp only [State.rootsReady, h1, h2, pickFrom, pickSlots, List.length_range]
  simpa [hd, List.range_succ] using h _ (hx _)
/-- On an idle course the placed launch may start; on one with a task on its brick it may not. -/
theorem witness_starts : (∀ d ∈ [false, true], let s := if d then { running id with nodes := few ++ [window], launches := [pending] } else waitingLaunch pending;
    let g := placedLaunch s pending 0 3 4 [] (Vector.replicate 32 0); let u := holdCourse s g []; u.courseIdle g = !d ∧ u.turnOf g = true ∧ (∀ b ∈ courseBricks 0 1 1, s.mayHold pending b = true)) := by decide +kernel
theorem witness_roots : (let s := waitingLaunch pending; let g := placedLaunch s pending 0 3 4 [] (Vector.replicate 32 0); (holdCourse s g []).rootsReady g = true) ∧
    (let l := { held .preempted with started := false }; { me id with nodes := few ++ [window], launches := [l] }.rootsReady l = true) :=
  ⟨rootsReady_of_blocks _ _ (by decide) (by decide) (by decide +kernel), rootsReady_of_blocks _ _ (by decide) (by decide) (by decide +kernel)⟩
theorem witness_refusals : (let s := waitingLaunch pending; s.refusal pending = none) ∧
    (let l := { pending with cmd := { pending.cmd with ctxcount := 0 } }; (waitingLaunch l).placeable l = true ∧ (l.refused.orElse fun _ => (waitingLaunch l).refusal l) = some 2 ∧
      (writeCompl (waitingLaunch l) l 0xC000000000000002).isSome = true) := by decide +kernel
theorem witness_courses : (let l := held .preempting; let s := { me id with launches := [l] }; s.launch? 80 = some l ∧ l.bricks = [0] ∧ (s.brick 0).handler = none ∧
      (∀ k : Fin 5, k.val ≠ 4 → (s.strand 0 k).task = none ∧ (s.strand 0 k).saveTok = none) ∧ (s.brick 0).deque = [] ∧
      ((waitingLaunch l).poolReady 0 0 (l.dequeImage 0) 2048) = true) ∧
    (let l := held .preempted; let s := { me id with launches := [l] }; l.started = true ∧ s.courseIdle l = true ∧ s.turnOf l = true ∧ s.worldMoves 0 = false ∧ s.imagesReady l = true ∧ { l with started := false }.started = false) ∧
    (let l := held .running; let s := { me id with launches := [l] }; l.live = 0 ∧ s.traces l = false ∧ (writeCompl s l l.status).isSome = true) ∧
    (held .running).cmd.footprint.1 ≤ 0 ∧ 0 < (held .running).cmd.footprint.2 := by decide

/-! Events of the host, the worlds and the fleet operator. -/

/-- A region of HBM and one of host memory, and the state with such a region; a hold is on it until cycle c. -/
def hbmRegion : Nat := 2 ^ 48 + 2 ^ 21
def withRegion (f : Region → Region) : State := { me id with regions := [f ⟨hbmRegion, false, false, false, 0, 0, 0, false, []⟩], cycle := 30000 }
/-- The same with a store to the region under way. -/
def crossing (f : Region → Region) : State := (withRegion f).modBrick 0 fun y => { y with flights := [{ flight hbmVa with pa := some (hbmRegion + 8) }] }
/-- A retired atomic of brick 0 to host memory, and its entry in the driver's mailbox. -/
def hostVa : Word := 0x103000000001000
def hostAtomic : Flight := ⟨7, 0, 0, 0, 0, hostVa, 8, .amo ⟨.add, 8, 5, 0⟩, none, [], true, false, false, 0, .atomic, none⟩
def mailed : MailEntry := ⟨1, 0, 8, 44, 0x1000, 5, 0, 0, 7, 4096, 0⟩
def atomicState (f : State → State) : State := f ((me id).modBrick 0 fun y => { y with flights := [hostAtomic] })
/-- World 7 on die 0, its session open, with keys in slots 1 and 2. -/
def world : World := ⟨7, true, 0, none, 5, [⟨1, 1, 9⟩, ⟨2, 2, 9⟩], 0, [], 0, 1, 1, 0, 0, [], .none⟩
def ofWorld (f : World → World) : State := { me id with worlds := [f world], dies := Vector.ofFn fun (i : Fin 8) => { Die.fresh with world := if i = 0 then 7 else 0, cleared := false } }
/-- A far extent, at 2^49, with its root node. -/
def farNode : Node := ⟨90, 0, 2 ^ 56 + 2 ^ 49, 0x10000, 2 ^ 49, Attr.clear 7, none, .linear, false, [], 0, false, 1⟩
def farExtent : Extent := ⟨2 ^ 49, 0x10000, false, 90, false, [(2 ^ 49, 0)]⟩
def farState : State := { me id with nodes := few ++ [farNode], extents := [farExtent] }
/-- Port 1 runs CXL, and a far extent was removed. -/
def farLink : State := { me id with ports := [(1, ⟨true, [], 0, [], true⟩)], extents := [{ farExtent with gone := true }] }
/-- A debug command c for strand 0 of brick 0, with a selector. -/
def debug (c : Nat) (sel : Word) (f : Strand → Strand) : State := (me f).modBrick 0 fun y => { y with dbg := ⟨BitVec.ofNat 64 (c * 256), sel, 0, 0x40, 1, 0, 0x77⟩ }
def halted (x : Strand) : Strand := { x with halted := some .stop }

theorem test_transfer_to_a_asks_the_host : (after (.ownershipTransferToA hbmRegion) (crossing id)).mail.map (·.kind) = [2] := by decide +kernel
theorem test_region_held_after_a_move : (after (.ownershipTransferToA hbmRegion) (crossing fun q => { q with kept := 50000 })).regions.map (·.back) = [true] := by decide +kernel
theorem test_bar2_reads : (after (.bar2Access 0x1000 false 0) { withRegion id with regions := [⟨2 ^ 48, false, false, false, 0, 0, 0, false, []⟩], mem := [(2 ^ 48 + 0x1001, 2)] }).replies = [.bar2 0x1000 0x200] := by decide +kernel
theorem test_heartbeat_of_a_follower : (match execHeartbeatWrite 3 5 (me id) with | .next t => t.heartbeat | _ => 1) = 0 := by decide
theorem test_extent_add : (match execExtentAdd 0 4096 false farLink with | .next t => t.extents.map (·.base) | _ => []) = [2 ^ 49] := by decide
theorem test_key_set_in_use : (match execKeySet 7 1 1 5 { ofWorld id with nodes := [{ window with world := 7, attr := ⟨7, .raw, 0, 1, 1⟩ }] } with | .next t => t.replies | _ => []) = [.status 7 2] := by decide +kernel
theorem test_lock_adds : (match execLock 7 4 (ofWorld fun w => { w with locked := 1 }) with | .next t => t.worlds.map (·.locked) | _ => []) = [5] := by decide +kernel
theorem test_power_floor : (match execModuleCapSet 1599 (me id) with | .next t => t.cap | _ => 0) = 3600 := by decide
/-- Demands of which one is twice the others: shares of 800 and 400 W. -/
theorem test_shares_follow_demand : (match execPowerPeriod [2, 1, 1, 1, 1, 1, 1, 1] (me id) with | .next t => t.dies.toList.map (·.share) | _ => []) = 800 :: List.replicate 7 400 := by decide
theorem test_resume_at_dbgpc : (match execResume 0 0 ((debug 2 0 halted).modBrick 0 fun y => { y with dbg := { y.dbg with cmd := 0x10200 } }) with | .next t => t.me.pc | _ => 0) = 0x40 := by decide +kernel
theorem test_read_reg_of_a_world : (match execReadReg 0 0 { ofWorld id with bricks := (debug 3 4 halted).bricks } with | .next t => ((t.brick 0).dbg.state, (t.brick 0).dbg.code, (t.brick 0).dbg.data) | _ => (0, 0, 0)) = (3, 0x46, 0) := by decide +kernel

theorem witness_regions : regionBase hbmRegion = true ∧ (let s := crossing id; (s.regionAt hbmRegion).owner = false ∧ (s.regionAt hbmRegion).moving = false ∧ s.regionWanted hbmRegion = true ∧
      s.regionKept hbmRegion = false ∧ s.cxlOn = false) ∧ (let r := 3 * 2 ^ 48; let s : State := { ((me id).modBrick 0 fun y => { y with flights := [{ flight 0x50000 with pa := some r }] }) with
        ports := [(1, ⟨true, [], 0, [], true⟩)], nodes := [⟨50, 0, 0x50000, 0x1000, r, Attr.clear 7, none, .linear, false, [], 0, false, 1⟩] }
      regionBase r = true ∧ (s.regionAt r).owner = false ∧ (s.regionAt r).moving = false ∧ s.regionWanted r = true ∧ s.regionKept r = false ∧ s.cxlOn = true ∧ s.regionPort r = 1) ∧ (crossing fun q => { q with kept := 50000 }).regionKept hbmRegion = true ∧
    (let s := withRegion fun q => { q with moving := true, began := 1 }; (s.regionAt hbmRegion).moving = true ∧ (s.regionAt hbmRegion).owner = false ∧ s.hostUp = true ∧ s.cycle < 1 + 4200000 ∧
      1 + 4200000 ≤ { s with cycle := 5000000 }.cycle) := by decide +kernel
/-- A transfer that failed, without and with a brick whose strand 0 is blocked on the region. -/
def lapsing : State := { me fun x => { x with block := some (.region hbmRegion 0 .load hbmVa) } with regions := [⟨hbmRegion, false, true, false, 1, 0, 0, false, []⟩], cycle := 5000000 }
theorem witness_lapses : (∀ s ∈ [lapsing, { lapsing with bricks := [] }], let q := s.regionAt hbmRegion; q.moving = true ∧ q.owner = false ∧ q.began + 4200000 ≤ s.cycle ∧ s.queues = [] ∧ s.launches = [] ∧ s.mapq = [] ∧
      s.withdrawals = []) ∧ (let y := lapsing.brick 0; lapsing.bricks = [(0, y)] ∧ y.flights = [] ∧ y.matq = [] ∧ y.held = [] ∧ y.deque = [] ∧ y.away = [] ∧ y.ready = [] ∧ y.kept = [] ∧ y.switches = [] ∧
      y.ownPending = none ∧ y.dbg.state ≠ 1 ∧ (∀ c ∈ y.chans.toList, c.job = none)) ∧ (∀ j : Fin 5, (lapsing.strand 0 j).ops = [] ∧ (lapsing.strand 0 j).restore = none ∧ (lapsing.strand 0 j).saveDue = false ∧
      (lapsing.strand 0 j).phase = 0 ∧ (lapsing.strand 0 j).yieldPend = false ∧ (j ≠ 0 → (lapsing.strand 0 j).block = none)) ∧
    (lapsing.strand 0 0).block = some (.region hbmRegion 0 .load hbmVa) := by decide +kernel
/-- Regions that go back to the device: nothing under way, and a store under way, before and after they began to move. -/
theorem witness_returns : (∀ m ∈ [false, true], ∀ l ∈ [[], [7]], let f : Region → Region := fun q => { q with owner := true, moving := m, early := l }; ∀ s ∈ [withRegion f, crossing f],
      let q := s.regionAt hbmRegion; q.owner = true ∧ q.moving = m ∧ s.hostUp = true ∧ s.regionKept hbmRegion = false ∧ q.early = l) ∧
    (withRegion id).regionIds hbmRegion = [] ∧ (crossing id).regionIds hbmRegion = [7] ∧ (withRegion id).regionBusy ⟨hbmRegion, true, true, false, 0, 0, 0, false, [7]⟩ = false ∧
    (crossing id).regionBusy ⟨hbmRegion, true, true, false, 0, 0, 0, false, [7]⟩ = true ∧
    (∀ o ∈ [false, true], let s := withRegion fun q => { q with owner := o, back := true }; (s.regionAt hbmRegion).owner = o ∧ (s.regionAt hbmRegion).back = true ∧ (s.regionAt hbmRegion).moving = false) := by
  decide +kernel
/-- An atomic of a strand to host memory that waits for its answer. -/
def hostOp : Op := ⟨9, some 3, false, false, ⟨none, [], false⟩, 0, none, .load 8 false 3, [⟨hostVa, 3 * 2 ^ 48 + 0x1000, 8, 0, some ⟨.add, 8, 5, 0⟩, false, 0, 0, .pending⟩], 0, 0, 0, 0⟩
/-- The BAR2 window at the start of HBM, moved, and moved so that it ends past HBM. -/
theorem witness_bar2 : (∀ w ∈ [0, 2 ^ 36], let s := { me id with bar2 := w, regions := [⟨2 ^ 48 + w, false, false, false, 0, 0, 0, false, []⟩] }; s.hostUp = true ∧ s.bar2 + 0x1000 < Config.hbmBytes ∧ (w + 0x1000) % Config.dieHbm < Config.hbmOpen ∧ s.worldOf (hbmDie (w + 0x1000)) = 0 ∧
      (s.regionAt ((2 ^ 48 + (w + 0x1000)) / 2 ^ 21 * 2 ^ 21)).owner = false ∧ (s.regionAt ((2 ^ 48 + (w + 0x1000)) / 2 ^ 21 * 2 ^ 21)).moving = false) ∧
    Config.hbmBytes ≤ { me id with bar2 := Config.hbmBytes - 0x1000 }.bar2 + 0x1000 ∧ Config.hbmOpen ≤ ({ me id with bar2 := Config.hbmOpen - 0x1000 }.bar2 + 0x1000) % Config.dieHbm := by decide +kernel
theorem witness_host_accesses :
    (let s := atomicState fun s => { s with regions := [⟨3 * 2 ^ 48, true, false, false, 0, 0, 0, false, []⟩] }; (s.brick 0).findOp 7 = none ∧ (s.brick 0).flights.find? (fun g => g.id = 7 && !g.arrived && g.act.native) = some hostAtomic ∧
      s.flightPa 0 hostAtomic = some (3 * 2 ^ 48 + 0x1000) ∧ paClass (3 * 2 ^ 48 + 0x1000) = 3 ∧ 3 * 2 ^ 48 + 0x1000 < 2 ^ 52 ∧ s.homeReady (3 * 2 ^ 48 + 0x1000) = true ∧
      (s.regionAt (3 * 2 ^ 48)).noatom = false) ∧
    (let s := me fun x => { x with ops := [hostOp] }; (s.brick 0).findOp 9 = some (0, hostOp) ∧ (hostOp.accs.find? (fun a => a.amo.any Amo.native && a.st = .pending)).isSome = true) ∧
    (let s := atomicState fun s => { s with mail := [mailed] }; s.mail = [mailed] ∧ mailed.kind = 1 ∧ s.hostUp = true ∧ mailed.brick ≠ 65536 ∧ mailed.acc = 4096 ∧
      (s.brick 0).flights.find? (fun f => f.id = 7) = some hostAtomic) ∧
    (let s := { me id with ports := [(3, ⟨true, [(0, 7)], 0, [], false⟩), (4, ⟨true, [(0, 7)], 0, [1], false⟩)] }; (s.port 3).posted ≠ [] ∧ (s.port 3).flushing = [] ∧ (s.port 3).up = true ∧
      (s.port 3).lastFlush = 0 ∧ (s.port 4).flushing = [1] ∧ (s.port 4).up = true ∧ s.hostUp = true) := by decide +kernel
/-- A queue's SIGNAL add to host memory, and a parked add. -/
theorem witness_unit_adds : (let s : State := { me id with queues := [queue fun q => { q with cmd := some (leBytes 8 0x10002 ++ leBytes 8 hostVa.toNat ++ List.replicate 48 0) }], regions := [⟨3 * 2 ^ 48, true, false, false, 0, 0, 0, false, []⟩] }
      let pa := 3 * 2 ^ 48 + 0x1000
      (s.brick 0).findOp 60 = none ∧ (s.brick 0).flights = [] ∧ s.unitAdd 0 60 = some (pairKey 0, 0, hostVa) ∧ s.paAt (pairKey 0) 0 hostVa.toNat = some pa ∧ s.homeReady pa = true ∧ (s.regionAt (3 * 2 ^ 48)).noatom = false) ∧
    (let p : Parked := ⟨0, 3 * 2 ^ 48, .amo ⟨.add, 8, 5, 0⟩, 0, none, 0⟩; let s : State := { me id with park := [p] }
      (s.brick 0).findOp (2 ^ 40 + 0) = none ∧ (s.brick 0).flights = [] ∧ s.unitAdd 0 (2 ^ 40 + 0) = none ∧ s.park[0]? = some p ∧ p.act.native = true) := by decide +kernel
theorem witness_host_memory : ({ me id with regions := [⟨3 * 2 ^ 48, true, false, false, 0, 0, 0, false, []⟩] }).homeReady (3 * 2 ^ 48 + 0x1000) = true := by decide +kernel
theorem witness_pairs_and_links : (me id).pairs.toList[0]? = some ⟨true, true, 0, 0⟩ ∧ (me id).pairs.toList[1]? = some ⟨true, false, 0, 0⟩ ∧ (me id).successor = some 1 ∧
    (me id).lastBeat + 6300000 ≤ { me id with cycle := 6300000 }.cycle ∧ (me id).liveness + 1050000000 ≤ { me id with cycle := 1050000000 }.cycle ∧ (me id).portUp 0 = true ∧
    { me id with ports := [(0, ⟨false, [], 0, [], false⟩), (1, ⟨false, [], 0, [], false⟩)] }.portUp 0 = false ∧
    (let s := { me id with hostUp := false, park := [⟨0, 3 * 2 ^ 48, .write [some 5], 0, none, 0⟩] }; s.hostUp = false ∧ s.portUp 0 = true ∧ s.inGrace 0 = false ∧ paClass (3 * 2 ^ 48) = 3) ∧
    (⟨0, 0, .write [], 0, some 5, 0⟩ : Parked).vector = some 5 ∧ (⟨true, false, 0, 0⟩ : Pair).healthy = true := by decide +kernel
theorem witness_far_memory : (me id).cxlOn = false ∧ farLink.cxlOn = true ∧ (∀ e ∈ farLink.extents, e.gone = false → overlaps e.base e.len (2 ^ 49) 4096 = false) ∧ (∀ n ∈ farLink.nodes, n.space = 0 → overlaps n.va n.len (2 ^ 56 + 2 ^ 49) 4096 = false) ∧
    farState.extents.find? (fun x => x.base = farExtent.base && !x.gone) = some farExtent ∧
    (∀ m ∈ farState.nodes, m.kind = .linear → overlaps m.pa m.len farExtent.base farExtent.len = true → m.space = 0 ∧ m.parent = none) ∧
    (2 ^ 49 + 64) % 64 = 0 ∧ (2 ^ 49 + 64) ∉ farState.poison ∧ paClass (2 ^ 49) = 2 ∧ paClass (sramPa 1 8) = 0 ∧ paOff (sramPa 1 8) < Config.sramBytes := by decide
theorem witness_worlds : ((me id).die 0).world = 0 ∧ ((me id).die 0).cleared = true ∧ ((me id).die 0).quarantined = false ∧ (me id).dieHeld 0 = false ∧
    (∀ n ∈ (me id).nodes, ¬(n.space ≠ 0 ∧ (me id).spaceWorld n.space ≠ 7 ∧ n.onDie 0 = true)) ∧
    (let n := { window with space := 5 }; let s := { me id with nodes := [n] }; (n.space ≠ 0 ∧ s.spaceWorld n.space ≠ 7 ∧ n.onDie 0 = true) ∧ s.node? 50 = some n ∧ (s.die 0).world = 0 ∧ (s.die 0).cleared = true ∧
      (s.die 0).quarantined = false ∧ s.dieHeld 0 = false) ∧
    InSession (ofWorld id) 7 world ∧ (ofWorld id).slotUsed 7 3 = false ∧ ({ ofWorld id with nodes := [{ window with world := 7, attr := ⟨7, .raw, 0, 1, 1⟩ }] }).slotUsed 7 1 = true ∧
    (ofWorld fun w => { w with session := false }).world? 7 = some { world with session := false } ∧ world.lastSeen + 4200000000 ≤ 4200000000 ∧
    (ofWorld id).worldExtent 7 (2 ^ 48) 4096 = true ∧ (∀ l ∈ (ofWorld id).launches, (ofWorld id).spaceWorld l.space ≠ 7) ∧ (∃ k ∈ world.keys, k.slot = 1 ∧ k.usage = 1) ∧ (∃ k ∈ world.keys, k.slot = 2 ∧ k.usage = 2) ∧
    (∀ g ∈ [none, some 5], let s := ofWorld fun w => { w with session := false, grace := g }; (s.world? 7).any (fun x => !x.session && x.grace.all (s.cycle < ·)) = true ∧ s.identity = (true, true) ∧ s.hostUp = true ∧ s.park = [] ∧
      { s with identity := (true, false) }.identity ≠ (true, true)) := by decide +kernel
/-- A world that stops with a suspended launch, and one that comes. -/
theorem witness_moves : (∀ m ∈ [MoveSt.none, .stopping], let s : State := { ofWorld fun w => { w with move := m } with spaces := [{ root false with world := 7 }], launches := [held .preempted] }
      InSession s 7 { world with move := m } ∧ s.spaceWorld 0 = 7 ∧ ∀ l ∈ s.launches, s.spaceWorld l.space = 7 → l.st ≠ .running ∧ l.st ≠ .preempting) ∧
    (let i : Incoming := ⟨7, [], [(1, 1, 9)], .received⟩; let s := { ofWorld id with incoming := [i] }; s.incoming = [i] ∧ s.world? 7 = some world ∧ world.move ≠ .received) ∧
    (ofWorld fun w => { w with move := .received }).world? 7 = some { world with move := .received } ∧ InSession (ofWorld fun w => { w with move := .sent }) 7 { world with move := .sent } := by decide +kernel
theorem witness_dies_and_loads : (let s := { ofWorld id with dies := Vector.ofFn fun (i : Fin 8) => { Die.fresh with clearing := if i = 0 then some 0 else none } }; (s.die 0).clearing = some 0 ∧ s.cycle < 0 + 21000000 ∧ s.dieHeld 0 = false ∧
      (∀ n ∈ s.nodes, n.space = 0) ∧ Memory.wf s.mem = true ∧ (∀ q ∈ s.bricks, q.2.stuck = 0) ∧ (∃ q ∈ (s.modBrick 0 fun y => { y with stuck := 1 }).bricks, q.2.stuck ≠ 0 ∧ isPair q.1 = false ∧ dieOf q.1 = 0 ∧ q.2.disabled = false) ∧ 0 + 21000000 ≤ { s with cycle := 21000000 }.cycle) ∧
    (let s := { me id with regions := [⟨3 * 2 ^ 48, true, false, false, 0, 0, 0, false, []⟩] }; s.space? 0 = some (root false) ∧ paClass (2 ^ 48 + 0x1000) = 1 ∧ s.unready (2 ^ 48) 64 = [] ∧ s.unready (3 * 2 ^ 48) 64 = [] ∧ (me id).unready (3 * 2 ^ 48) 64 ≠ [] ∧
      s.worldOf (hbmDie 0x1000) = 0 ∧ segsOf [] = none) := by decide +kernel
/-- A container of one empty segment of data, unsigned. -/
def segEntry : List Byte := leBytes 4 3 ++ leBytes 4 2 ++ leBytes 8 224 ++ List.replicate 32 0 ++ sha384 []
def headBytes : List Byte := leBytes 4 0x314F4C46 ++ leBytes 2 1 ++ leBytes 2 1 ++ List.replicate 8 0xFF ++ leBytes 8 128 ++ leBytes 8 0
def container : List Byte := headBytes ++ sha384 (headBytes ++ segEntry) ++ List.replicate 48 0 ++ segEntry
theorem witness_unsigned_container : (segsOf container).isSome = true ∧ signedBy container [] = false := by decide +kernel
theorem witness_fleet : isPair 0 = false ∧ ((me id).brick 0).disabled = false ∧ ((me id).brick 0).retiring = false ∧ ((me id).brick 0).quiet = true ∧
    (∀ b ∈ [0, 3511], b < 32768 ∧ b / 64 % 64 < 56 ∧ b % 64 < 56) ∧ harvested [0, 3511, 3511, 56, 3584] = [0, 3511] ∧
    (let s := { me id with dies := Vector.ofFn fun (i : Fin 8) => { Die.fresh with droopUntil := if i = 0 then some 0 else none } }; (s.die 0).droopUntil = some 0 ∧ (s.die 0).hot = false) ∧
    ((me id).die 0).droopUntil = none ∧ 0 + 96 ≤ { me id with snapRaised := [0], cycle := 96 }.cycle ∧ (me id).cap = 3600 ∧ (∀ w ∈ (me id).worlds, w.locked.testBit 4 = false) ∧ (∃ w ∈ (ofWorld fun w => { w with locked := 16, tokens := [] }).worlds, w.locked.testBit 4 = true ∧ w.tokens = []) ∧
    (let s := { me id with dies := Vector.ofFn fun (i : Fin 8) => { Die.fresh with temp := Vector.replicate 64 (if i = 0 then 400 else 0), hot := decide (i = 0) } }; (s.die 0).hot = true) := by decide +kernel
/-- A token that module.cap.set takes, and one that it does not. -/
theorem witness_cap_tokens (mac : Nat) : (∃ v : Nat, let cap := v % 2 ^ 32; let tok := v / 2 ^ 32 % 2 ^ 192; cap = 1600 ∧ tok % 2 ^ 64 ∈ [5] ∧ tok / 2 ^ 64 = mac % 2 ^ 128) ∧
    (ofWorld fun w => { w with locked := 16, tokens := [5] }).worlds = [{ world with locked := 16, tokens := [5] }] ∧ (16 : Nat).testBit 4 = true ∧ 1600 / 2 ^ 32 % 2 ^ 192 % 2 ^ 64 ∉ [5] := by
  refine ⟨⟨1600 + 2 ^ 32 * (5 + 2 ^ 64 * (mac % 2 ^ 128)), ?_⟩, by decide⟩
  have := Nat.mod_lt mac (show 0 < 2 ^ 128 by decide)
  generalize mac % 2 ^ 128 = m at this
  simp only [List.mem_singleton]
  omega
theorem witness_debug_commands : ∀ c ∈ [1, 2, 3, 4, 5], let y := ((debug c 4 id).brick 0).dbg; y.state = 1 ∧ y.op = c ∧ y.who = 0 ∧ y.sel = (4 : BitVec 4).zeroExtend 64 := by decide +kernel
theorem witness_debugging : (let x := (debug 1 0 fun x => { x with task := some task }).strand 0 0; x.task ≠ none ∧ x.halted = none) ∧ ((debug 3 0 halted).strand 0 0).halted ≠ none ∧ ((debug 3 0 id).strand 0 0).halted = none ∧
    (let x := (debug 1 0 fun x => { x with stopReq := true }).strand 0 0; x.stopReq = true ∧ x.halted = none ∧ x.block = none ∧ x.phase = 0 ∧ x.hints.any = false ∧ x.windowFree = true ∧ x.drained = true) ∧
    (let x := (debug 1 0 fun x => { x with stopReq := true, block := some (.join 16) }).strand 0 0; x.stopReq = true ∧ x.halted = none ∧ x.block ≠ none) ∧
    (debug 3 0 id).worldOf (dieOf 0) = 0 ∧ (ofWorld id).worldOf (dieOf 0) ≠ 0 ∧ ((debug 3 0x1002 halted).brick 0).dbg.sel = 0x1002 ∧ ((debug 3 20 halted).brick 0).dbg.sel = 20 ∧ 2 ∈ csrNumbers := by decide +kernel
/-- A line of HBM is read, poisoned or not. -/
def pageRead (l : List Nat) : Bool :=
  let s := { debug 5 hbmVa id with poison := l }
  !s.dbgForeign 0 0 hbmVa.toNat && (s.check 0 0 hbmVa.toNat needDebug).toOption.any fun q => paClass q.1.pa = 1 && s.homeReady q.1.pa && s.readBad 0 0 hbmVa.toNat q.1.pa 64 == !l.isEmpty
/-- A line of a page of class 4, one of HBM that is poisoned, one that is not mapped and a line of SRAM. -/
theorem witness_debug_reads : (let s := { debug 5 (2 ^ 40) id with nodes := [⟨50, 0, 2 ^ 40, 0x1000, 2 ^ 50, Attr.clear 7, none, .linear, false, [], 0, false, 0⟩] };
      (s.check 0 0 (2 ^ 40) needDebug).toOption.any (fun q => paClass q.1.pa = 4 && decide (q.1.pa < 2 ^ 52)) = true ∧ (s.brick 0).dbg.space = 0 ∧ s.dbgForeign 0 0 (2 ^ 40) = false) ∧ (ofWorld id).worldOf (dieOf 4096) = 0 ∧ (ofWorld id).dbgForeign 4096 0 hbmVa.toNat = true ∧
    pageRead [] = true ∧ pageRead [2 ^ 48 + 0x1000] = true ∧ ((debug 5 0x50000 id).check 0 0 0x50000 needDebug).toOption.isNone = true ∧ (debug 5 64 id).readPoison (sramPa 0 64) 64 = false := by decide +kernel
/-- FIPS 180-4's example: the digest of the bytes of "abc". -/
theorem test_sha384 : sha384 [0x61, 0x62, 0x63] = [0xcb, 0x00, 0x75, 0x3f, 0x45, 0xa3, 0x5e, 0x8b, 0xb5, 0xa0, 0x3d, 0x69, 0x9a, 0xc6, 0x50, 0x07, 0x27, 0x2c, 0x32, 0xab, 0x0e, 0xde, 0xd1, 0x63, 0x1a, 0x8b, 0x60, 0x5a,
    0x43, 0xff, 0x5b, 0xed, 0x80, 0x86, 0x07, 0x2b, 0xa1, 0xe7, 0xcc, 0x23, 0x58, 0xba, 0xec, 0xa1, 0x34, 0xc8, 0x25, 0xa7] := by decide +kernel

/-! Encodings, a step, reset, the invariant, and frames. The words are written out by hand, field by field, from the tables of R62 to R80. -/

-- Format R: major, FN, D, KA, A, KB, B, X.
theorem test_word_sub : decode 0b000001_000_00001_01_00010_11_00011_0001 = .ok (.sub 1 (r 2) (k 3)) := by decide
theorem test_word_rol : decode 0b000010_000_01111_01_01110_10_11111_0111 = .ok (.rol 15 (r 14) ⟨2, 31⟩) := by decide
theorem test_word_divu : decode 0b000100_000_00110_01_00001_11_11111_0100 = .ok (.divu 6 (r 1) (k 31)) := by decide
theorem test_word_bswap : decode 0b000101_000_00011_01_00100_00_00000_0010 = .ok (.bswap 3 (r 4)) := by decide
theorem test_word_callr : decode 0b001111_000_00000_01_00111_00_00000_0001 = .ok (.callr 7) := by decide
theorem test_word_fenceX : decode 0b010100_000_00000_01_00010_11_00001_0110 = .ok (.fenceX (r 2) (k 1)) := by decide
theorem test_word_vshl : decode 0b011010_000_11111_00_00010_01_00011_0010 = .ok (.vshl 31 (v 2) (r 3) 2) := by decide
theorem test_word_vcmpLtu : decode 0b011011_100_00111_00_11110_00_11101_0001 = .ok (.vcmpLtu 7 (v 30) (v 29) 1) := by decide
theorem test_word_vfsqrt : decode 0b011110_011_00010_00_00100_00_00000_1001 = .ok (.vfsqrt 1 2 (v 4) 9) := by decide
theorem test_word_vslide : decode 0b100001_011_00001_00_00010_01_00011_0011 = .ok (.vslide 1 (v 2) (r 3) 3) := by decide
theorem test_word_vredmin : decode 0b100010_001_00101_00_11111_10_00000_0010 = .ok (.vredmin 5 31 ⟨2, 0⟩ 2) := by decide
theorem test_word_vexpand : decode 0b100011_001_00001_00_00010_00_00011_0000 = .ok (.vexpand 1 (v 2) (v 3) 0) := by decide
theorem test_word_pcnt : decode 0b100100_000_00101_00_00011_00_00000_0100 = .ok (.pcnt 5 3) := by decide
theorem test_word_mxRing : decode 0b101000_010_00001_01_00010_11_00100_0110 = .ok (.mxRing 1 (r 2) (k 4) 6) := by decide
theorem test_word_texit : decode 0b101011_000_00000_11_11111_00_00000_0011 = .ok (.texit (k 31)) := by decide
theorem test_word_chsw : decode 0b101110_101_00001_01_00010_01_00011_0111 = .ok (.chsw 1 (r 2) (r 3) 7) := by decide
theorem test_word_mapw : decode 0b101111_100_00011_01_00010_00_00000_0101 = .ok (.mapw 3 (r 2) 5) := by decide
-- Format I: major, D, A, IMM18.
theorem test_word_xorI : decode 0b001001_0011_0100_100000000000000001 = .ok (.xorI 3 4 0x20001) := by decide
theorem test_word_shrI : decode 0b001010_0011_0100_01_0000000000_111111 = .ok (.shrI 3 4 63) := by decide
theorem test_word_sltuI : decode 0b001011_0011_0100_1_00000000000000011 = .ok (.sltuI 3 4 3) := by decide
-- Format B: major, COND, A, second register, OFF15 or OFF19, OFF26.
theorem test_word_bgeu : decode 0b001100_101_0001_0010_111111111111110 = .ok (.bgeu 1 2 0x7FFE) := by decide
theorem test_word_bnz : decode 0b001100_111_0101_1000000000000000001 = .ok (.bnz 5 0x40001) := by decide
theorem test_word_call : decode 0b001110_10000000000000000000000011 = .ok (.call 0x2000003) := by decide
-- Format H: major, FN, PAY.
theorem test_word_hintMod : decode 0b010000_01_000000000000000000000101 = .ok (.hintMod 5) := by decide
-- Format M: major, D, B, SC, OFF11, L.
theorem test_word_ldHs : decode 0b010001_10011_0100_01_11111111111_1111 = .ok (.ldHs 3 4 0x7FF 15) := by decide
theorem test_word_stH : decode 0b010010_00011_0100_01_00000000010_0000 = .ok (.stH 3 4 2) := by decide
theorem test_word_vstp : decode 0b010101_00110_0100_11_00000000001_0000 = .ok (.vstp 3 4 1) := by decide
-- Format A: major, D, B, V, FN, SCOPE, ORD, L.
theorem test_word_amoCas : decode 0b010011_0001_0010_0011_010_001_0111_0100 = .ok (.amoCas 1 2 3 1 7 4) := by decide
-- Format T: major, D, A, KB, B, KC, C, FN.
theorem test_word_vsel : decode 0b100101_00001_00010_00_00011_10_00100_00 = .ok (.vsel 1 2 (v 3) ⟨2, 4⟩) := by decide
-- Format F: major, FN, CH, S, D, COMB, L.
theorem test_word_fbcast : decode 0b101101_010_000011_0000_0100_00000_0001 = .ok (.fbcast 3 4 1) := by decide
-- Format Y: major, S, CSR12, FN.
theorem test_word_csrw : decode 0b110000_0011_000001100000_0000000001 = .ok (.csrw 3 0x060) := by decide
theorem test_word_major_49_is_illegal : decode 0b110001_00000000000000000000000000 = .error .illegal := by decide

-- An ill-formed term for each check: an unassigned value, a reserved value, bit 4 of a scalar register's field, a source of a kind that is not accepted.
theorem smoke_unassigned_saturation : ¬ WellFormed (.vadd 1 (v 2) (v 3) 3 0) := by decide
theorem smoke_unassigned_format : ¬ WellFormed (.vfadd 1 (v 2) (v 3) 3) := by decide
theorem smoke_no_return_form_of_cas : ¬ WellFormed (.amoCas 0 2 3 0 8 0) := by decide
theorem smoke_reserved_scope : (Instr.amoAdd 1 2 3 5 0 0).encTrap = some .reserved := by decide
theorem smoke_reserved_comb : (Instr.fcomb 1 2 3 7 0).encTrap = some .reserved := by decide
theorem smoke_reserved_mode : (Instr.mma 1 2 0 0x18 0).encTrap = some .reserved := by decide
theorem smoke_reserved_codec : (Instr.vdec4 1 2 3 0).encTrap = some .reserved := by decide
theorem smoke_reserved_schedule : (Instr.hintSched 3).encTrap = some .reserved := by decide
theorem smoke_scalar_field : (Instr.add 1 ⟨1, 16⟩ (r 2)).encTrap = some .reserved := by decide
theorem smoke_kind : (Instr.add 1 (v 2) (r 2)).encTrap = some .kindTag := by decide
theorem smoke_kind_of_a_gather_base : (Instr.vgather 0 1 (k 2) 3 0).encTrap = some .kindTag := by decide
theorem smoke_well_formed : WellFormed (.add 1 (k 2) (r 2)) ∧ WellFormed (.fcomb 1 2 3 6 0) ∧ WellFormed (.mma 1 2 0 7 0) := by decide

/-- The order of the encoding's traps: an instruction and a state for each clause. -/
theorem witness_encoding_traps : let s := me id; let h := me fun x => { x with hints := ⟨[1], none, none, some 0⟩ }
    encodingTrap (.vadd 1 ⟨1, 16⟩ (v 3) 3 0) s = some .illegalOpcode ∧ encodingTrap (.yield) onMessage = some .illegalOpcode ∧
    illegalHere (.add 1 (v 2) (r 2)) 0 0 .task = false ∧ encodingTrap (.add 1 ⟨1, 16⟩ (v 2)) s = some .reservedField ∧ encodingTrap (.add 1 (v 2) (r 2)) s = some .kindTag ∧
    s.me.hints = Hints.none ∧ isMessage s.cur.1 s.cur.2 = false ∧ Accepts (.add 1 (k 2) (r 2)) s ∧ encodingTrap (.add 1 (r 2) (r 2)) h = some .hintOrphan ∧
    (Instr.add 1 (r 2) (r 2)).info.imm = false ∧ h.me.hints.mod = none ∧ h.me.hints.imms ≠ [] ∧ s.cur.1 < 32768 ∧ s.cur.2.val < 4 ∧ s.me.mode = .task ∧ (Instr.add 1 (r 2) (r 2)).info.event = false := by decide

/-- The reset state with a word for the strand that moves first, after dt cycles. -/
def placed (dt w : Nat) : State := { State.reset.withFetchWord 32 w with turns := [⟨dt, .strand 0 0⟩], nodes := few }
/-- The same for the message strand. -/
def placedMessage (w : Nat) : State := { onMessage.withFetchWord 32 w with nodes := few }
/-- A strand's turn finds nothing that holds it back. -/
def free (t u : State) : Bool := t.live && t.me.kill.isNone && t.me.halted.isNone && t.me.block.isNone && t.me.restore.isNone && u.me.pause.isNone && u.me.waiting.isNone &&
  u.me.trapDue.isNone && (asyncEvent u).isNone && !t.stopped && !atRtcause u
/-- What the step does before it fetches. -/
def ticked (s : State) (b : Nat) (k : Fin 5) (d : Nat) : State := { passTime { s with turns := [] } d with cur := (b, k) }
def settled (t : State) (b : Nat) (k : Fin 5) : State := (t.settleHolds b k).modMe Strand.settle

/-- A turn of a free strand: the states of each clause. -/
theorem witness_step_task : let s := placed 3 0x040D2250; let t := ticked s 0 0 3; let u := settled t 0 0
    s.turns = [⟨3, .strand 0 0⟩] ∧ s.stopped = false ∧ free t u = true ∧ isMessage u.cur.1 u.cur.2 = false ∧ fetch u = .ok 0x040D2250 := by decide +kernel
theorem witness_step_message : let s := placedMessage 0x040D2250; let t := ticked s 0 4 0; let u := settled t 0 4
    s.turns = [⟨0, .strand 0 4⟩] ∧ s.stopped = false ∧ free t u = true ∧ isMessage u.cur.1 u.cur.2 = true ∧ handlerWord u = some 0x040D2250 := by decide +kernel
theorem witness_local_fetch : let s := placed 0 0x040D2250; s.me.pc.toNat % 4 = 0 ∧ s.me.pc.toNat + 4 ≤ Config.sramBytes ∧ s.me.answers = [] ∧ s.codeLog = [] ∧
    s.readPoison (s.hereAt s.me.pc) 4 = false := by decide +kernel
/-- The word the first step runs: add s3, s4, s5 and a word that traps. -/
theorem test_first_step_adds : (match step ({ placed 0 0x040D2250 with cur := (0, 0) }.modMe fun x => reg 4 5 (reg 5 6 x)) with
    | .next t => t.me.sreg 3
    | _ => 0) = 11 := by decide +kernel
theorem test_first_step_traps : (match step (placed 0 0) with
    | .next t => t.me.trapcause
    | _ => 0) = BitVec.ofNat 10 Code.illegalOpcode.num := by decide +kernel

/-- The invariant's hypotheses are met: a state with a listed byte that is in canonical form, and whose step answers a next state. -/
theorem placed_inv : (placed 0 0x040D2250).Inv ∧ (placed 0 0x040D2250).mem ≠ [] := by
  unfold State.Inv
  decide +kernel
theorem witness_step_next : (match step (placed 0 0x040D2250) with
    | .next _ => true
    | _ => false) = true := by decide +kernel
/-- A task in task mode, an instruction that answers a next state, and a write of a service register that traps. -/
theorem witness_task_mode : let s := me id; (Instr.csrw 3 0x030).info.event = false ∧ s.me.mode = .task ∧ exec (.csrw 3 0x030) s = .next (after (.csrw 3 0x030) s) := ⟨by decide, by decide, rfl⟩
theorem witness_frames : let s := me id; s.me.ops = [] ∧ (0, 1) ≠ s.cur ∧ (Instr.add 3 (r 4) (r 5)).info.event = false ∧ (Instr.add 3 (r 4) (r 5)).info.major ≤ 0x0E ∧
    (Instr.add 3 (r 4) (r 5)).scalars = [3, 4, 5] ∧ exec (.add 3 (r 4) (r 5)) s = .next (after (.add 3 (r 4) (r 5)) s) := ⟨by decide, by decide, by decide, by decide, by decide, rfl⟩

/-- The same of the vector majors: a form that leaves the ring alone, and one that takes an entry. -/
theorem witness_vector_frames : let s := me id; let i := Instr.vadd 1 (v 2) (v 3) 0 0; let j := Instr.vfdiv 0 1 (v 2) (v 3) 4
    s.me.ops = [] ∧ i.info.event = false ∧ j.info.event = false ∧ 0x17 ≤ i.info.major ∧ i.info.major ≤ 0x25 ∧ 0x17 ≤ j.info.major ∧ j.info.major ≤ 0x25 ∧ exec i s = .next (after i s) ∧
    exec j s = .next (after j s) ∧ ¬((∃ k d a b l, i = .vfdiv k d a b l) ∨ (∃ k d a l, i = .vfsqrt k d a l) ∨ ∃ d a k l, i = .vdec4 d a k l) :=
  ⟨by decide, by decide, by decide, by decide, by decide, by decide, by decide, rfl, rfl, by rintro (⟨_, _, _, _, _, h⟩ | ⟨_, _, _, _, h⟩ | ⟨_, _, _, _, h⟩) <;> cases h⟩
/-- A strand at MATCH that issues its instruction and one that does not, and a strand that is not there. -/
theorem witness_match : let s := (me id).modBrick 0 fun y => { y with trctl := 0x400 }; s.atMatch = true ∧ s.issuedBy (after .nop s) = true ∧ s.issuedBy s = false ∧ (me id).atMatch = false := by decide
theorem test_match_freezes : (match step ((placed 0 0x040D2250).modBrick 0 fun y => { y with trctl := 0x400 }) with
    | .next t => (t.brick 0).trctl
    | _ => 0) = 0x500 := by decide +kernel

/-- Windows that close at different boundaries: the younger first, then the older. -/
def older : Op := { newOp State.reset 0 .plain none with left := some 4, done := true, commit := ⟨some (3, 1), [], false⟩ }
def younger : Op := { newOp State.reset 0 .plain none with left := some 0, done := true, commit := ⟨some (3, 2), [], false⟩ }
theorem witness_window_orders : older.left = some (3 + 1) ∧ younger.left = some 0 ∧ younger.done = true ∧ (me fun x => { x with ops := [older, younger] }).me.ops = [older, younger] ∧
    { older with left := some 0 }.done = true ∧ (me fun x => { x with ops := [older] }).me.ops = [older] ∧ older.left = some (2 + 2) ∧
    older.commit = ⟨some (3, 1), [], false⟩ ∧ younger.commit = ⟨some (3, 2), [], false⟩ := by decide
theorem test_younger_commits_first : (me fun x => { x with ops := [older, younger] }).me.settle.sreg 3 = 2 := by decide
/-- Strands that implement a part of the map, and hints beyond the limits: a state and an instruction for each clause. -/
theorem witness_kinds_of_strand : let pair : State := { State.reset with cur := (32769, 0) }
    isMessage onMessage.cur.1 onMessage.cur.2 = true ∧ (Instr.vadd 1 (v 2) (v 3) 0 2).info.major = 0x17 ∧ encodingTrap (.vadd 1 (v 2) (v 3) 0 2) onMessage = some .illegalOpcode ∧
    encodingTrap .yield onMessage = some .illegalOpcode ∧ 32768 ≤ pair.cur.1 ∧ encodingTrap .exit pair = some .illegalOpcode ∧ encodingTrap .mend pair = some .illegalOpcode ∧
    illegalHere (.ldD 5 4 0 0) pair.cur.1 pair.cur.2 pair.me.mode = false ∧ (me id).me.mode = .task ∧ Accepts .eret (me id) ∧ Accepts .halt (me id) := by decide
theorem witness_hint_limits : let h (x : Hints) : State := me fun y => { y with hints := x }
    (h ⟨[1, 2], none, none, some 0⟩).me.hints.imms.length = 2 ∧ (h ⟨[], some 1, none, some 0⟩).me.hints.mod ≠ none ∧ (h ⟨[], none, some 1, some 0⟩).me.hints.sched ≠ none ∧
    schedReserved 1 = false ∧ WellFormed (.stD 5 4 0) ∧ illegalHere (.stD 5 4 0) 0 0 .task = false ∧ isMessage 0 0 = false ∧ (Instr.stD 5 4 0).info.mods = 0 ∧
    (Instr.stD 5 4 0).info.major ≠ 0x10 ∧ (Instr.vand 1 (v 2) (v 3)).info.imm = false ∧ modFault (h ⟨[1], some 0x10, none, some 0⟩).me.hmod (Instr.vand 1 (v 2) (v 3)).info.mods = false := by decide
theorem witness_ring_in_service : Accepts (.mxRing 3 (k 5) (k 2) 2) (inService id) ∧ (inService id).me.mode = .service := by decide

end Sys2Proof.Tests
end

section
/-! SUPPORT. The encoding: words and instructions, sources and immediates, the traps of an encoding, hints and lookahead windows. -/

open Sys2Proof Sys2Proof.Machine

namespace Sys2Proof.Machine

/-! Words and instructions (R62 to R67, R80, R81). -/

/-- Refutes O51: the statement asks every value of every field back, and the source code of vcvt has eight, of which 111 belongs to the
codec group (R80, R147). The word that the encoder writes for vcvt with source code 111 is the word of vdec4, and decodes to it. -/
theorem not_decodingAndEncodingAgree : ¬ Obligations.DecodingAndEncodingAgree := by
  unfold Obligations.DecodingAndEncodingAgree
  rintro ⟨hback, -⟩
  have hcvt : decode (BitVec.ofNat 32 (encode (.vcvt 7 0 0 0 0 0 0))) = .ok (.vcvt 7 0 0 0 0 0 0) := (hback _ rfl).1
  have hdec : decode (BitVec.ofNat 32 (encode (.vcvt 7 0 0 0 0 0 0))) = .ok (.vdec4 0 0 0 0) := by decide
  rw [hdec] at hcvt
  exact absurd hcvt (by decide)

/-- Settles O52: the decoder evaluated on each word. -/
theorem decodedWordsAreTheSpecWords : Obligations.DecodedWordsAreTheSpecWords := by
  unfold Obligations.DecodedWordsAreTheSpecWords
  decide

/-! Sources and immediates (R65, R67, R76). -/

/-- The model's signed reading of a number is the signed value of its low bits (R11). -/
theorem toS_eq_toInt (x n : Nat) : toS x n = (BitVec.ofNat n x).toInt := by
  simp [toS, BitVec.toInt]

/-- Arithmetic on payload and field is concatenation of bits (R76). -/
theorem toS_append {m : Nat} (a : BitVec m) (x n : Nat) :
    toS (a.toNat * 2 ^ n + x % 2 ^ n) (n + m) = (a ++ BitVec.ofNat n x).toInt := by
  have hx : x % 2 ^ n < 2 ^ n := Nat.mod_lt _ (Nat.two_pow_pos n)
  have happ : (a ++ BitVec.ofNat n x).toNat = a.toNat * 2 ^ n + x % 2 ^ n := by
    rw [BitVec.toNat_append, BitVec.toNat_ofNat, ← Nat.shiftLeft_add_eq_or_of_lt hx, Nat.shiftLeft_eq]
  rw [← happ, Nat.add_comm n m, toS_eq_toInt, BitVec.ofNat_toNat, BitVec.setWidth_eq]

theorem extendImm_nil (n x : Nat) : extendImm [] n x = (BitVec.ofNat n x).signExtend 64 := by
  rw [extendImm, toS_eq_toInt, BitVec.signExtend]

theorem extendImm_one (p : BitVec 24) (n x : Nat) : extendImm [p] n x = (p ++ BitVec.ofNat n x).signExtend 64 := by
  rw [extendImm, toS_append, BitVec.signExtend]

theorem extendImm_two (p q : BitVec 24) (n x : Nat) :
    extendImm [p, q] n x = (p ++ q ++ BitVec.ofNat n x).signExtend 64 := by
  have hpq : (p ++ q).toNat = p.toNat * 2 ^ 24 + q.toNat := by
    rw [BitVec.toNat_append, ← Nat.shiftLeft_add_eq_or_of_lt q.isLt, Nat.shiftLeft_eq]
  rw [extendImm, ← hpq, toS_append, BitVec.signExtend]

section
variable {s : State}

theorem State.scalar_register (n : BitVec 5) (ext : Bool) : s.scalar ⟨1, n⟩ ext = s.me.sreg (n.extractLsb' 0 4) := rfl
theorem State.scalar_constant (n : BitVec 5) (ext : Bool) : s.scalar ⟨2, n⟩ ext = s.here.creg n := rfl
theorem State.scalar_literal (n : BitVec 5) (ext : Bool) :
    s.scalar ⟨3, n⟩ ext = extendImm (if ext then s.me.hints.imms else []) 5 n.toNat := rfl

theorem State.imm_of_hint_pair {p q : BitVec 24} {n x : Nat} (hn : 64 ≤ 24 + 24 + n) (h : s.me.hints.imms = [p, q]) :
    s.imm n x = (p ++ q ++ BitVec.ofNat n x).truncate 64 := by
  rw [State.imm, h, extendImm_two, BitVec.signExtend_eq_setWidth_of_le _ hn]
end

/-- Settles O4: every immediate is the concatenation of the payloads and the field, sign-extended. -/
theorem sourcesAndImmediatesByTagAndHint : Obligations.SourcesAndImmediatesByTagAndHint := by
  unfold Obligations.SourcesAndImmediatesByTagAndHint
  intro s n ext p q x
  have hn : BitVec.ofNat 5 n.toNat = n := by simp
  refine ⟨State.scalar_register n ext, State.scalar_constant n ext, ?literal, fun h => ?literal0, fun h => ?literal1, fun h => ?literal2,
    fun h => ?a0, fun h => ?a1, State.imm_of_hint_pair (by decide), fun h => ?b0, fun h => ?b1, State.imm_of_hint_pair (by decide),
    fun h => ?c0, fun h => ?c1, fun h => ?c2⟩
  case literal => rw [State.scalar_literal, if_neg Bool.false_ne_true, extendImm_nil, hn]
  case literal0 => rw [State.scalar_literal, if_pos rfl, h, extendImm_nil, hn]
  case literal1 => rw [State.scalar_literal, if_pos rfl, h, extendImm_one, hn]
  case literal2 => rw [State.scalar_literal, if_pos rfl, h, extendImm_two, hn]
  case a0 | b0 | c0 => rw [State.imm, h, extendImm_nil]
  case a1 | b1 | c1 => rw [State.imm, h, extendImm_one]
  case c2 => rw [State.imm, h, extendImm_two]

/-! A trap of the encoding is taken by whatever shape of meaning the instruction has (R81). -/

section
variable {i : Instr} {s : State} {e : Code} (h : encodingTrap i s = some e)
include h

theorem scalar2_encoding {d : BitVec 4} {a b : Src} {f : Word → Word → Word} :
    scalar2 i d a b f s = .next (takeTrap s e) := run_encoding _ h
theorem scalar1_encoding {d : BitVec 4} {a : Src} {f : Word → Word} :
    scalar1 i d a f s = .next (takeTrap s e) := run_encoding _ h
theorem scalarImm_encoding {d a : BitVec 4} {n x : Nat} {f : Word → Word → Word} :
    scalarImm i d a n x f s = .next (takeTrap s e) := run_encoding _ h
theorem scalarShift_encoding {d a : BitVec 4} {f : Word → Word} :
    scalarShift i d a f s = .next (takeTrap s e) := run_encoding _ h
theorem branch_encoding {c : Bool} {n x : Nat} :
    branch i s c n x = .next (takeTrap s e) := runJump_encoding _ h
theorem jumpReg_encoding {t : Word} {link : Bool} :
    jumpReg i s t link = .next (takeTrap s e) := runRaw_encoding _ h
theorem hint_encoding {f : Hints → Hints} :
    hint i s f = .next (takeTrap s e) := runRaw_encoding _ h
theorem vecI2_encoding {d : BitVec 5} {a b : Src} {w : Nat} {f : Nat → Nat → Nat → Nat} :
    vecI2 i d a b w f s = .next (takeTrap s e) := run_encoding _ h
theorem vecI1_encoding {d : BitVec 5} {a : Src} {w : Nat} {f : Nat → Nat → Nat} :
    vecI1 i d a w f s = .next (takeTrap s e) := run_encoding _ h
theorem vecC2_encoding {d : BitVec 3} {a b : Src} {w : Nat} {f : Nat → Nat → Nat → Bool} :
    vecC2 i d a b w f s = .next (takeTrap s e) := run_encoding _ h
theorem vecF2_encoding {d : BitVec 5} {a b : Src} {c : BitVec 2} {g : FFmt → BitVec 2 → Nat → Nat → Nat × BitVec 5} :
    vecF2 i d a b c g s = .next (takeTrap s e) := run_encoding _ h
theorem vecF1_encoding {d : BitVec 5} {a : Src} {c : BitVec 2} {g : FFmt → BitVec 2 → Nat → Nat × BitVec 5} :
    vecF1 i d a c g s = .next (takeTrap s e) := run_encoding _ h
theorem vecFC_encoding {d : BitVec 3} {a b : Src} {c : BitVec 2} {q : FCmp} :
    vecFC i d a b c q s = .next (takeTrap s e) := run_encoding _ h
theorem fusedV_encoding {d a : BitVec 5} {b c : Src} {neg : Bool} :
    fusedV i d a b c neg s = .next (takeTrap s e) := run_encoding _ h
theorem permV_encoding {d : BitVec 5} {a b : Src} {w : Nat} {f : (Nat → Nat) → (Nat → Nat) → Int → Nat → Nat} :
    permV i d a b w f s = .next (takeTrap s e) := run_encoding _ h
theorem reduceV_encoding {d : BitVec 4} {a : BitVec 5} {b : Src} {w : Nat} {f : Nat → Nat → Nat → Nat} :
    reduceV i d a b w f s = .next (takeTrap s e) := run_encoding _ h
theorem wholeV_encoding {d : BitVec 5} {a b : Src} {w : Nat} {f : PReg → (Nat → Nat) → Nat → Nat → Nat} :
    wholeV i d a b w f s = .next (takeTrap s e) := run_encoding _ h
theorem predP_encoding {d : BitVec 3} {f : Strand → PReg} :
    predP i d f s = .next (takeTrap s e) := run_encoding _ h
end

/-- A trap of the encoding comes before anything an instruction does (R81). -/
theorem exec_of_encodingTrap {i : Instr} {s : State} {c : Code} (hev : i.info.event = false) (h : encodingTrap i s = some c) :
    exec i s = .next (takeTrap s c) := by
  cases i with
  | add | sub | min | max | minu | maxu | and | or | xor | andn | shl | shr | sar | rol | seq | sne | slt | sltu
    | sle | sleu | sel | mul | mulh | mulhu | div | divu | rem | remu | clmul | clmulh =>
    dsimp only [exec]
    exact scalar2_encoding h
  | clz | ctz | popc | bswap =>
    dsimp only [exec]
    exact scalar1_encoding h
  | addI | andI | orI | xorI | sltI | sltuI =>
    dsimp only [exec]
    exact scalarImm_encoding h
  | shlI | shrI | sarI =>
    dsimp only [exec]
    exact scalarShift_encoding h
  | beq | bne | blt | bge | bltu | bgeu | bz | bnz =>
    dsimp only [exec]
    exact branch_encoding h
  | jmp | call | fork | eret =>
    dsimp only [exec]
    exact runJump_encoding _ h
  | jr | callr | ret =>
    dsimp only [exec]
    exact jumpReg_encoding h
  | yield | exit | migrate | texit | mend | get | put | getv | putv | halt =>
    dsimp only [exec]
    exact runRaw_encoding _ h
  | trap | nop | ldB | ldBs | ldH | ldHs | ldW | ldWs | ldD | stB | stH | stW | stD | amoAdd | amoXchg | amoCas
    | amoMin | amoMax | amoAnd | amoOr | amoXor | bind | unbind | acq | acqAll | rel | fenceS | fenceX | landSet
    | vld | vst | vldp | vstp | vgather | vscatter | vfdiv | vfsqrt | vcvt | vdec4 | venc4 | vbcast | vfredadd
    | vprefixAdd | pcnt | pmovS | vsel | mma | mmaR | mmaP | accZero | accLd | accSt | mxOpen | mxClose | mxRing
    | bufSet | bufAdvP | bufAdvC | bufQ | cpWait | cpPtr | cpInv | join | spawnG | send | sendh | wfm | fbar
    | fbarM | fbcast | fbcastTx | fcomb | fpoll | equiv | chsw | map | grant | unmap | unmapSelf | mapw | csrr
    | csrw | pause | brk =>
    dsimp only [exec]
    exact run_encoding _ h
  | hintImm | hintMod | hintSched =>
    dsimp only [exec]
    exact hint_encoding h
  | vadd | vsub | vmul | vmulh | vmin | vmax | vand | vor | vxor | vandn | vshl | vshr | vsar | vclmul =>
    dsimp only [exec]
    exact vecI2_encoding h
  | vabs | vneg | vpopc =>
    dsimp only [exec]
    exact vecI1_encoding h
  | vcmpEq | vcmpNe | vcmpLt | vcmpLe | vcmpLtu | vcmpLeu =>
    dsimp only [exec]
    exact vecC2_encoding h
  | vfadd | vfsub | vfmul | vfmin | vfmax =>
    dsimp only [exec]
    exact vecF2_encoding h
  | vrcp | vrsqrt =>
    dsimp only [exec]
    exact vecF1_encoding h
  | vfcmpEq | vfcmpLt | vfcmpLe | vfcmpUn =>
    dsimp only [exec]
    exact vecFC_encoding h
  | vfma | vfms =>
    dsimp only [exec]
    exact fusedV_encoding h
  | vperm | vshuf | vslide =>
    dsimp only [exec]
    exact permV_encoding h
  | vredadd | vredmin | vredmax =>
    dsimp only [exec]
    exact reduceV_encoding h
  | vcompress | vexpand =>
    dsimp only [exec]
    exact wholeV_encoding h
  | pand | por | pxor | pnot | pfirst | psMov =>
    dsimp only [exec]
    exact predP_encoding h
  | _ => cases hev

/-! What the encoding traps come to (R75, R77, R81, R82). -/

/-- Without a hint.mod, no field of one is wrongly set (R77). -/
theorem modFault_zero (m : Nat) : modFault 0 m = false := by
  simp [modFault]

theorem Strand.hmod_of_no_mod {x : Strand} (h : x.hints.mod = none) : x.hmod = 0 := by simp [Strand.hmod, h]

section
variable {i : Instr} {s : State}

theorem encodingTrap_of_illegal (h : i.encTrap = some .illegal ∨ illegalHere i s.cur.1 s.cur.2 s.me.mode = true) :
    encodingTrap i s = some .illegalOpcode := if_pos h

theorem encodingTrap_of_reserved (hh : illegalHere i s.cur.1 s.cur.2 s.me.mode = false) (h : i.encTrap = some .reserved) :
    encodingTrap i s = some .reservedField := by simp [encodingTrap, hh, h]

theorem encodingTrap_of_kindTag (hh : illegalHere i s.cur.1 s.cur.2 s.me.mode = false) (h : i.encTrap = some .kindTag)
    (hmod : i.info.mods ≠ 0 → modFault s.me.hmod i.info.mods = false)
    (hreg : isMessage s.cur.1 s.cur.2 = true → handlerReg i = false) : encodingTrap i s = some .kindTag := by
  simp_all [encodingTrap]

/-- A well-formed instruction that its strand implements, with no field or register that it may not have: its hints alone decide. -/
theorem encodingTrap_of_wellFormed (hh : illegalHere i s.cur.1 s.cur.2 s.me.mode = false) (hw : WellFormed i)
    (hmod : i.info.mods ≠ 0 → modFault s.me.hmod i.info.mods = false)
    (hreg : isMessage s.cur.1 s.cur.2 = true → handlerReg i = false) :
    encodingTrap i s = if hintOrphan i s.me.hints then some .hintOrphan else none := by
  simp_all [encodingTrap]

theorem hintOrphan_none (i : Instr) : hintOrphan i Hints.none = false := by
  unfold hintOrphan; split <;> simp [Hints.none, Hints.count]

/-- An instruction that is no hint cannot consume a hint.imm when it has no immediate to extend, nor a hint.mod of which it honours no
field (R75 to R77). -/
theorem hintOrphan_of_consumer (hm : i.info.major ≠ 0x10) (h : Hints) :
    hintOrphan i h = ((decide (h.imms ≠ []) && !i.info.imm) || (h.mod.isSome && i.info.mods == 0)) := by
  unfold hintOrphan
  split
  · exact absurd rfl hm
  · exact absurd rfl hm
  · exact absurd rfl hm
  · rfl

theorem illegalHere_yield (b : Nat) (k : Fin 5) (m : Mode) :
    illegalHere .yield b k m = (majorMissing 0x0F b k || (isMessage b k || isPair b || m == .service)) := rfl
theorem illegalHere_exit (b : Nat) (k : Fin 5) (m : Mode) :
    illegalHere .exit b k m = (majorMissing 0x0F b k || (isMessage b k || isPair b)) := rfl

/-- R82: a strand that is no message strand and has an instruction's major has the instruction, but for yield and exit on a service core,
mend, and control registers that it may lack. -/
theorem illegalHere_of_not_message {b : Nat} {k : Fin 5} {m : Mode} (hk : isMessage b k = false)
    (hmj : majorMissing i.info.major b k = false) (hy : i = .yield → isPair b = false ∧ m = .task) (he : i = .exit → isPair b = false)
    (hmend : i ≠ .mend) (hcsr : ∀ d c, i ≠ .csrr d c ∧ i ≠ .csrw d c) : illegalHere i b k m = false := by
  cases i with
  | csrr d c => exact absurd rfl (hcsr d c).1
  | csrw d c => exact absurd rfl (hcsr d c).2
  | mend => exact absurd rfl hmend
  | yield =>
    obtain ⟨hp, rfl⟩ := hy rfl
    rw [illegalHere_yield, show majorMissing 0x0F b k = false from hmj, hk, hp]
    rfl
  | exit =>
    rw [illegalHere_exit, show majorMissing 0x0F b k = false from hmj, hk, he rfl]
    rfl
  | jmp | call | jr | callr | ret | join | migrate | texit | wfm | mapw => exact Bool.or_eq_false_iff.2 ⟨hmj, hk⟩
  | _ => exact Bool.or_eq_false_iff.2 ⟨hmj, rfl⟩
end

/-- R82: a strand that lacks an instruction's major does not have the instruction. -/
theorem illegalHere_of_majorMissing {i : Instr} {b : Nat} {k : Fin 5} {m : Mode} (h : majorMissing i.info.major b k = true) :
    illegalHere i b k m = true := Bool.or_eq_true_iff.2 (.inl h)

theorem isPair_of_ge {b : Nat} (h : 32768 ≤ b) : isPair b = true := decide_eq_true h
theorem isPair_of_lt {b : Nat} (h : b < 32768) : isPair b = false := decide_eq_false (by omega)

theorem isMessage_of_isPair {b : Nat} (h : isPair b = true) (k : Fin 5) : isMessage b k = false := by simp [isMessage, h]
theorem isMessage_of_lt {b : Nat} {k : Fin 5} (h : k.val < 4) : isMessage b k = false := by
  have hk : k ≠ 4 := by omega
  simp [isMessage, hk]
theorem isPair_of_isMessage {b : Nat} {k : Fin 5} (h : isMessage b k = true) : isPair b = false := by
  simp_all [isMessage]

theorem majorMissing_task (mj : Nat) {b : Nat} {k : Fin 5} (hp : isPair b = false) (hk : isMessage b k = false) :
    majorMissing mj b k = false := by simp [majorMissing, hp, hk]
theorem majorMissing_pair_iff {mj b : Nat} {k : Fin 5} (hp : isPair b = true) :
    majorMissing mj b k = true ↔ ¬(1 ≤ mj ∧ mj ≤ 0x14) ∧ mj ≠ 0x30 := by
  simp only [majorMissing, hp, isMessage_of_isPair hp, Bool.true_and, Bool.false_and, Bool.or_false, Bool.or_eq_true, Bool.and_eq_true,
    beq_iff_eq, decide_eq_true_eq, bne_iff_ne]
  omega
theorem majorMissing_message_iff {mj b : Nat} {k : Fin 5} (hk : isMessage b k = true) :
    majorMissing mj b k = true ↔ (0x15 ≤ mj ∧ mj ≤ 0x2A) ∨ mj = 0x2D ∨ mj = 0x2E := by
  simp only [majorMissing, hk, isPair_of_isMessage hk, Bool.true_and, Bool.false_and, Bool.false_or, Bool.or_eq_true, Bool.and_eq_true,
    beq_iff_eq, decide_eq_true_eq, or_assoc]

/-- R100, R105: eret and halt are for service mode. -/
theorem eret_traps_in_task_mode {s : State} (hm : s.me.mode = .task) (h : Accepts .eret s) : Traps .eret s .privilege := by
  rw [Traps, exec_eret, execEret]
  exact runJump_trap h (if_pos hm)
theorem halt_traps_in_task_mode {s : State} (hm : s.me.mode = .task) (h : Accepts .halt s) : Traps .halt s .privilege := by
  rw [Traps, exec_halt, execHalt]
  exact runRaw_trap h (if_pos hm)

/-- Settles O53: every body runs behind the check of its encoding, and that check is a chain of conditions in the order of R81. -/
theorem encodingTrapsComeFirstInOrder : Obligations.EncodingTrapsComeFirstInOrder := by
  unfold Obligations.EncodingTrapsComeFirstInOrder
  refine ⟨fun i s c => exec_of_encodingTrap, fun i s => ?order, fun i s hb hk hm _ hcsr hmend => ?task, fun i s _ => ?kinds⟩
  case order =>
    have hmod (hn : s.me.hints.mod = none) : i.info.mods ≠ 0 → modFault s.me.hmod i.info.mods = false :=
      fun _ => by rw [Strand.hmod_of_no_mod hn, modFault_zero]
    have hreg (hk : isMessage s.cur.1 s.cur.2 = false) : isMessage s.cur.1 s.cur.2 = true → handlerReg i = false :=
      fun h => absurd h (by simp [hk])
    refine ⟨encodingTrap_of_illegal, encodingTrap_of_reserved, fun hh ht hn hk => ?_, fun hh hw hn hk => ?_,
      fun hh hw hn hk hi him _ hmj => ?_⟩
    · exact encodingTrap_of_kindTag hh ht (hmod (by rw [hn]; rfl)) (hreg hk)
    · rw [Accepts, encodingTrap_of_wellFormed hh hw (hmod (by rw [hn]; rfl)) (hreg hk), hn, hintOrphan_none]
      rfl
    · rw [encodingTrap_of_wellFormed hh hw (hmod hn) (hreg hk), hintOrphan_of_consumer hmj, him]
      simp [hi]
  case task =>
    have hp := isPair_of_lt hb
    have hmsg := isMessage_of_lt (b := s.cur.1) hk
    exact illegalHere_of_not_message hmsg (majorMissing_task _ hp hmsg) (fun _ => ⟨hp, hm⟩) (fun _ => hp) hmend hcsr
  case kinds =>
    refine ⟨fun hk h => encodingTrap_of_illegal (.inr ?message), fun hb h => encodingTrap_of_illegal (.inr ?core),
      fun hb hlo hhi hy he => ?coreHas, fun hm h ha => ?privilege⟩
    case message =>
      rcases h with h | h | h | rfl
      · exact illegalHere_of_majorMissing ((majorMissing_message_iff hk).2 (.inl h))
      · exact illegalHere_of_majorMissing ((majorMissing_message_iff hk).2 (.inr (.inl h)))
      · exact illegalHere_of_majorMissing ((majorMissing_message_iff hk).2 (.inr (.inr h)))
      · simp [illegalHere_yield, hk]
    case core =>
      rcases h with h | rfl | rfl
      · exact illegalHere_of_majorMissing ((majorMissing_pair_iff (isPair_of_ge hb)).2 h)
      · simp [illegalHere_yield, isPair_of_ge hb]
      · simp [illegalHere_exit, isPair_of_ge hb]
    case coreHas =>
      have hp := isPair_of_ge hb
      have hmj : majorMissing i.info.major s.cur.1 s.cur.2 = false := by
        rw [← Bool.not_eq_true, majorMissing_pair_iff hp]
        exact fun h => h.1 ⟨hlo, hhi⟩
      refine illegalHere_of_not_message (isMessage_of_isPair hp _) hmj (fun h => absurd h hy) (fun h => absurd h he) ?_ fun d c => ⟨?_, ?_⟩
      -- the majors of mend, csrr and csrw lie above 0x14
      all_goals
        rintro rfl
        exact absurd hhi (of_decide_eq_false rfl)
    case privilege =>
      rcases h with rfl | rfl
      · exact eret_traps_in_task_mode hm ha
      · exact halt_traps_in_task_mode hm ha

/-! Hints (R75 to R79). -/

/-- A hint that completes leaves itself, and its own address if it is the group's first, for its consumer (R75, R79). -/
theorem advanceHint_me_of_no_ops {s : State} (h : s.me.ops = []) (f : Hints → Hints) : (advanceHint s f).me =
    { s.me with
      pc := s.me.pc + 4, hints := { f s.me.hints with start := some s.me.groupPc }
      issued := if s.me.asyncDue then s.me.issued + 1 else 0
      handlerCount := s.me.handlerCount + 1 } := by
  rw [advanceHint, State.bumpFree_me, State.me_modMe, Strand.tickWindows_of_no_ops (by exact h), Strand.settle_of_no_ops (by exact h)]

theorem majorMissing_hint (b : Nat) (k : Fin 5) : majorMissing 0x10 b k = false := by simp [majorMissing]

section
variable {s : State} {p : BitVec 24}

/-- Every strand has the hints, and nothing in a hint can trap but a reserved payload and the limits of its group (R75, R78). -/
theorem encodingTrap_hintImm : encodingTrap (.hintImm p) s = if hintOrphan (.hintImm p) s.me.hints then some .hintOrphan else none :=
  encodingTrap_of_wellFormed (Bool.or_eq_false_iff.2 ⟨majorMissing_hint _ _, rfl⟩) rfl (absurd rfl) fun _ => rfl
theorem encodingTrap_hintMod : encodingTrap (.hintMod p) s = if hintOrphan (.hintMod p) s.me.hints then some .hintOrphan else none :=
  encodingTrap_of_wellFormed (Bool.or_eq_false_iff.2 ⟨majorMissing_hint _ _, rfl⟩) rfl (absurd rfl) fun _ => rfl
theorem wellFormed_hintSched (hp : schedReserved p = false) : WellFormed (.hintSched p) := by simp [WellFormed, Instr.encTrap, Instr.info, hp]
theorem encodingTrap_hintSched (hp : schedReserved p = false) :
    encodingTrap (.hintSched p) s = if hintOrphan (.hintSched p) s.me.hints then some .hintOrphan else none :=
  encodingTrap_of_wellFormed (Bool.or_eq_false_iff.2 ⟨majorMissing_hint _ _, rfl⟩) (wellFormed_hintSched hp) (absurd rfl) fun _ => rfl

theorem hintOrphan_hintImm_iff {h : Hints} : hintOrphan (.hintImm p) h = true ↔ 2 ≤ h.imms.length ∨ 3 ≤ h.count := by simp [hintOrphan]
theorem hintOrphan_hintMod_iff {h : Hints} : hintOrphan (.hintMod p) h = true ↔ h.mod ≠ none ∨ 3 ≤ h.count := by
  simp [hintOrphan, Option.isSome_iff_ne_none]
theorem hintOrphan_hintSched_iff {h : Hints} : hintOrphan (.hintSched p) h = true ↔ h.sched ≠ none ∨ 3 ≤ h.count := by
  simp [hintOrphan, Option.isSome_iff_ne_none]
end

theorem hint_ok {i : Instr} {s : State} {f : Hints → Hints} (h : Accepts i s) : hint i s f = .next (advanceHint s f) := runRaw_ok h rfl

/-- Settles O6: a hint completes into its group, and what hintOrphan says of the group decides the traps. -/
theorem hintsWaitForTheirConsumer : Obligations.HintsWaitForTheirConsumer := by
  unfold Obligations.HintsWaitForTheirConsumer
  intro s p keeps
  refine ⟨(exec_hintImm s p).trans ∘ hint_ok, (exec_hintMod s p).trans ∘ hint_ok, (exec_hintSched s p).trans ∘ hint_ok,
    fun f hops => ?waits, fun hops => ?consumed, fun h2 => ?imm3, fun hm => ?mod2, fun hs hp => ?sched2,
    fun h2 hm hp => ?sched4, fun h2 hs => ?mod4, fun h1 hm hs => ?imm4,
    fun i hw hh hk hmj => ⟨fun hm hmods => ?noMods, fun himm hi hmf => ?noImm⟩, fun h => run_ok h rfl⟩
  case waits =>
    intro t
    rw [show t.me = _ from advanceHint_me_of_no_ops hops f]
    exact ⟨rfl, rfl, rfl, rfl, rfl, rfl⟩
  case consumed => rw [advance, advanceTo_me_of_no_ops hops]
  case imm3 => rw [encodingTrap_hintImm, if_pos (hintOrphan_hintImm_iff.2 (.inl h2.ge))]
  case mod2 => rw [encodingTrap_hintMod, if_pos (hintOrphan_hintMod_iff.2 (.inl hm))]
  case sched2 => rw [encodingTrap_hintSched hp, if_pos (hintOrphan_hintSched_iff.2 (.inl hs))]
  case sched4 =>
    obtain ⟨m, hm⟩ := Option.ne_none_iff_exists'.1 hm
    have hc : 3 ≤ s.me.hints.count := by simp [Hints.count, h2, hm]
    rw [encodingTrap_hintSched hp, if_pos (hintOrphan_hintSched_iff.2 (.inr hc))]
  case mod4 =>
    obtain ⟨m, hs⟩ := Option.ne_none_iff_exists'.1 hs
    have hc : 3 ≤ s.me.hints.count := by simp [Hints.count, h2, hs]
    rw [encodingTrap_hintMod, if_pos (hintOrphan_hintMod_iff.2 (.inr hc))]
  case imm4 =>
    obtain ⟨m, hm⟩ := Option.ne_none_iff_exists'.1 hm
    obtain ⟨n, hs⟩ := Option.ne_none_iff_exists'.1 hs
    have hc : 3 ≤ s.me.hints.count := by simp [Hints.count, h1, hm, hs]
    rw [encodingTrap_hintImm, if_pos (hintOrphan_hintImm_iff.2 (.inr hc))]
  case noMods =>
    rw [encodingTrap_of_wellFormed hh hw (absurd hmods) fun h => absurd h (by simp [hk]), hintOrphan_of_consumer hmj]
    simp [hmods, Option.isSome_iff_ne_none, hm]
  case noImm =>
    rw [encodingTrap_of_wellFormed hh hw hmf fun h => absurd h (by simp [hk]), hintOrphan_of_consumer hmj]
    simp [hi, himm]

/-! Windows (R70 to R72). -/

section
variable {o : Op} {t : List Op} {x : Strand}

theorem settleList_of_done (hl : o.left = some 0) (hd : o.done = true) : settleList (o :: t) x = settleList t (retireOp o x) := by
  rw [settleList, if_pos hl, if_pos hd]

theorem settleList_of_held (hl : o.left = some 0) (hd : o.done = false) (hs : o.isScatter = false) :
    settleList (o :: t) x = (x, o :: t) := by simp [settleList, hl, hd, hs]

theorem settleList_of_open (hl : o.left ≠ some 0) :
    settleList (o :: t) x = ((settleList t x).1, o :: (settleList t x).2) := by rw [settleList, if_neg hl]

/-- R71: an operation with a scalar result alone, as it commits and leaves. -/
theorem retireOp_scalar {d : BitVec 4} {v : Word} (hc : o.commit = ⟨some (d, v), [], false⟩) : retireOp o x =
    { x.setS d v with fpstat := x.fpstat ||| o.flags, ring := ringFree x.ring o.seq } := by
  simp [retireOp, commit, hc]

theorem sreg_retireOp {d : BitVec 4} {v : Word} (hc : o.commit = ⟨some (d, v), [], false⟩) : (retireOp o x).sreg d = v := by
  rw [retireOp_scalar hc]
  exact x.sreg_setS_same d v
end

theorem Strand.settle_of_due {o : Op} {x : Strand} (hx : x.ops = [o]) (hl : o.left = some 0) (hd : o.done = true) :
    x.settle = { retireOp o x with ops := [] } := by
  rw [Strand.settle, hx, settleList_of_done hl hd, settleList_nil]

theorem Strand.settle_of_open {o : Op} {x : Strand} (hx : x.ops = [o]) (hl : o.left ≠ some 0) : x.settle = x := by
  rw [Strand.settle, hx, settleList_of_open hl, settleList_nil, ← hx]

theorem Strand.settle_of_open_due {o p : Op} {x : Strand} (hx : x.ops = [o, p]) (hl : o.left ≠ some 0) (hpl : p.left = some 0)
    (hpd : p.done = true) : x.settle = { retireOp p x with ops := [o] } := by
  rw [Strand.settle, hx, settleList_of_open hl, settleList_of_done hpl hpd, settleList_nil]

/-- The operation of State.loaded, with n instructions still to run. -/
def State.loadedOp (s : State) (n : Nat) (d : BitVec 4) (v : Word) : Op :=
  { (newOp s 0 .plain none) with left := some n, done := true, commit := ⟨some (d, v), [], false⟩ }

theorem State.loaded_me (s : State) (L d : BitVec 4) (v : Word) :
    (s.loaded L d v).me = { s.me with ops := s.me.ops ++ [s.loadedOp (L.toNat + 1) d v] } := by
  rw [State.loaded, State.addOp, State.bumpId_me, State.me_modMe]
  rfl

/-- The strand as an instruction with a window of L completes: each window has one instruction less to run, and what is due commits. -/
theorem advance_loaded_me (s : State) (L d : BitVec 4) (v : Word) : (advance (s.loaded L d v)).me =
    ({ s.me with
        pc := s.me.pc + 4, hints := Hints.none, answers := [], phase := 0
        issued := if s.me.asyncDue then s.me.issued + 1 else 0
        handlerCount := s.me.handlerCount + 1
        ops := s.me.ops.map (fun o => { o with left := o.left.map (· - 1) }) ++ [s.loadedOp L.toNat d v] } : Strand).settle := by
  rw [advance, advanceTo_me, State.loaded_me, Strand.tickWindows, List.map_append]
  rfl

/-- Settles O8: the operations commit in their order of age, each when its own window is due. -/
theorem windowsDelayAndOrderTheRegisterWrites : Obligations.WindowsDelayAndOrderTheRegisterWrites := by
  unfold Obligations.WindowsDelayAndOrderTheRegisterWrites
  refine ⟨fun s L d v hops => ?single, fun d v w o p ho hp => ⟨fun x hx hol hpl hs hpd => ⟨fun hod => ?both, fun hod => ?held⟩,
    fun x n hx hol hpl hpd => ?younger, fun x hx hol hod => ?alone, fun s n hops hol => ?zero⟩⟩
  case single =>
    intro t
    have ht : t.me = _ := advance_loaded_me s L d v
    rw [hops] at ht
    by_cases hL : L = 0
    · subst hL
      rw [Strand.settle_of_due rfl rfl rfl, retireOp_scalar rfl] at ht
      rw [ht]
      exact ⟨rfl, rfl, rfl, BitVec.or_zero, rfl, fun _ => ⟨Strand.sreg_setS_same .., fun e he => Strand.sreg_setS_ne _ _ _ _ he, rfl⟩,
        fun h => absurd rfl h⟩
    · have hleft : (s.loadedOp L.toNat d v).left ≠ some 0 := fun h => hL (BitVec.eq_of_toNat_eq (Option.some.inj h))
      rw [Strand.settle_of_open rfl hleft] at ht
      rw [ht]
      exact ⟨rfl, rfl, rfl, rfl, rfl, fun h => absurd h hL, fun _ => ⟨rfl, _, rfl, rfl, rfl, rfl⟩⟩
  case both =>
    rw [Strand.settle, hx, settleList_of_done hol hod, settleList_of_done hpl hpd, settleList_nil]
    exact ⟨sreg_retireOp hp, rfl⟩
  case held =>
    have hwait : (o.left = some 0 && o.holds) = true := by simp [hol, Op.holds, hod, hs]
    rw [Strand.settle, hx, settleList_of_held hol hod hs]
    exact ⟨rfl, rfl, List.find?_cons_of_pos hwait⟩
  case younger =>
    rw [Strand.settle_of_open_due hx (by simp [hol]) hpl hpd]
    exact ⟨sreg_retireOp hp, rfl⟩
  case alone =>
    rw [Strand.settle_of_due hx hol hod]
    exact ⟨sreg_retireOp ho, rfl⟩
  case zero =>
    intro t
    have ht : t.me = _ := advance_loaded_me s 0 d w
    rw [hops, Strand.settle_of_open_due rfl (by simp [hol]) rfl rfl] at ht
    rw [ht]
    refine ⟨sreg_retireOp rfl, ?_⟩
    simp [hol]

end Sys2Proof.Machine
end

section
/-! SUPPORT. Scalar instructions: what a function of sources writes, the values of R85 and R87 as numbers and bits, and the statements about
results, shifts, products, quotients and immediates. -/

open Sys2Proof Sys2Proof.Machine

namespace Sys2Proof.Machine

/-! An accepted function of sources, or of a register and an immediate, writes its value (R84, R87). -/

section
variable {i : Instr} {s : State} {d : BitVec 4} {v : Word}

theorem writesS_of_run {g : State → Word} (he : exec i s = run i s fun s => .ok (s.setS d (g s))) (hv : g s = v) (h : Accepts i s) :
    WritesS i s d v := by
  rw [WritesS, Completes, he, ← hv]
  exact run_ok h rfl

theorem writesS_scalar2 {a b : Src} {f : Word → Word → Word} (he : exec i s = scalar2 i d a b f s)
    (hv : f (s.srcA a b) (s.srcB b) = v) : Accepts i s → WritesS i s d v :=
  writesS_of_run (g := fun s => f (s.srcA a b) (s.srcB b)) he hv
theorem writesS_scalar1 {a : Src} {f : Word → Word} (he : exec i s = scalar1 i d a f s)
    (hv : f (s.src1 a) = v) : Accepts i s → WritesS i s d v :=
  writesS_of_run (g := fun s => f (s.src1 a)) he hv
theorem writesS_scalarImm {a : BitVec 4} {n x : Nat} {f : Word → Word → Word} (he : exec i s = scalarImm i d a n x f s)
    (hv : f (s.me.sreg a) (s.imm n x) = v) : Accepts i s → WritesS i s d v :=
  writesS_of_run (g := fun s => f (s.me.sreg a) (s.imm n x)) he hv
theorem writesS_scalarShift {a : BitVec 4} {f : Word → Word} (he : exec i s = scalarShift i d a f s)
    (hv : f (s.me.sreg a) = v) : Accepts i s → WritesS i s d v :=
  writesS_of_run (g := fun s => f (s.me.sreg a)) he hv
end

/-! Sums, logic and comparisons (R85). -/

theorem truth_of_iff {c : Bool} {p : Prop} [Decidable p] (h : c = true ↔ p) : truth c = if p then 1 else 0 := by
  simp only [truth, h]

section
variable (x y : Word)

theorem sub_eq_ofInt : x - y = BitVec.ofInt 64 ((x.toNat : Int) - y.toNat) := by
  apply BitVec.eq_of_toInt_eq
  rw [BitVec.toInt_sub, BitVec.toInt_ofInt, BitVec.toInt_eq_toNat_bmod, BitVec.toInt_eq_toNat_bmod, Int.sub_bmod_bmod, Int.bmod_sub_bmod]

theorem min_eq_ofInt : (if x.slt y then x else y) = BitVec.ofInt 64 (min x.toInt y.toInt) := by
  by_cases h : x.toInt < y.toInt
  · rw [if_pos (BitVec.slt_iff_toInt_lt.2 h), min_eq_left h.le, BitVec.ofInt_toInt]
  · rw [if_neg (mt BitVec.slt_iff_toInt_lt.1 h), min_eq_right (not_lt.1 h), BitVec.ofInt_toInt]
theorem max_eq_ofInt : (if x.slt y then y else x) = BitVec.ofInt 64 (max x.toInt y.toInt) := by
  by_cases h : x.toInt < y.toInt
  · rw [if_pos (BitVec.slt_iff_toInt_lt.2 h), max_eq_right h.le, BitVec.ofInt_toInt]
  · rw [if_neg (mt BitVec.slt_iff_toInt_lt.1 h), max_eq_left (not_lt.1 h), BitVec.ofInt_toInt]

theorem ofNat_toNat_self : BitVec.ofNat 64 x.toNat = x := by rw [BitVec.ofNat_toNat, BitVec.setWidth_eq]

theorem minu_eq_ofNat : (if x < y then x else y) = BitVec.ofNat 64 (min x.toNat y.toNat) := by
  by_cases h : x < y
  · rw [if_pos h, min_eq_left (BitVec.le_of_lt h), ofNat_toNat_self]
  · rw [if_neg h, min_eq_right (BitVec.not_lt.1 h), ofNat_toNat_self]
theorem maxu_eq_ofNat : (if x < y then y else x) = BitVec.ofNat 64 (max x.toNat y.toNat) := by
  by_cases h : x < y
  · rw [if_pos h, max_eq_right (BitVec.le_of_lt h), ofNat_toNat_self]
  · rw [if_neg h, max_eq_left (BitVec.not_lt.1 h), ofNat_toNat_self]

theorem and_eq_ofNat : x &&& y = BitVec.ofNat 64 (x.toNat &&& y.toNat) := by
  rw [BitVec.ofNat_and, ofNat_toNat_self, ofNat_toNat_self]
theorem or_eq_ofNat : x ||| y = BitVec.ofNat 64 (x.toNat ||| y.toNat) := by
  rw [BitVec.ofNat_or, ofNat_toNat_self, ofNat_toNat_self]
theorem xor_eq_ofNat : x ^^^ y = BitVec.ofNat 64 (x.toNat ^^^ y.toNat) := by
  rw [BitVec.ofNat_xor, ofNat_toNat_self, ofNat_toNat_self]
theorem andn_eq_ofNat : x &&& ~~~y = BitVec.ofNat 64 (x.toNat &&& (2 ^ 64 - 1 - y.toNat)) := by
  rw [and_eq_ofNat, BitVec.toNat_not]

/-! Shifts and products (R39, R85). -/

theorem shiftLeft_eq_ofNat (n : Nat) : x <<< n = BitVec.ofNat 64 (x.toNat * 2 ^ n) := by
  rw [← Nat.shiftLeft_eq]
  rfl
theorem shiftRight_eq_ofNat (n : Nat) : x >>> n = BitVec.ofNat 64 (x.toNat / 2 ^ n) := by
  rw [← Nat.shiftRight_eq_div_pow, ← BitVec.toNat_ushiftRight, ofNat_toNat_self]
theorem sshiftRight_eq_ofInt (n : Nat) : x.sshiftRight n = BitVec.ofInt 64 (x.toInt / 2 ^ n) := by
  rw [BitVec.sshiftRight_eq, Int.shiftRight_eq_div_pow, Nat.cast_pow, Nat.cast_ofNat]
theorem rotl_eq_rotateLeft {n : Nat} (h : n < 64) : rotl x n = x.rotateLeft n := by
  rw [rotl, BitVec.rotateLeft_def, Nat.mod_eq_of_lt h]
theorem mul_eq_ofNat : x * y = BitVec.ofNat 64 (x.toNat * y.toNat) := by
  rw [BitVec.ofNat_mul, ofNat_toNat_self, ofNat_toNat_self]

end

/-! Counts (R85). -/

theorem popCount_eq_length (x n : Nat) : popCount x n = ((List.range n).filter fun i => x.testBit i).length := by
  induction n with
  | zero => rfl
  | succ n ih =>
    rw [popCount, ih, List.range_succ, List.filter_append, List.length_append, List.filter_singleton]
    cases x.testBit n <;> rfl

/-- leadingZeros counts the zeros above the highest bit that is set (R85). -/
theorem testBit_leadingZeros (x : Word) : leadingZeros x ≤ 64 ∧ (∀ i, 64 ≤ i + leadingZeros x → x.toNat.testBit i = false) ∧
    (leadingZeros x < 64 → x.toNat.testBit (63 - leadingZeros x) = true) := by
  by_cases hx : x = 0
  · subst hx
    exact ⟨le_refl _, fun i _ => Nat.zero_testBit i, fun h => absurd h (by decide)⟩
  · have hn : x.toNat ≠ 0 := fun h => hx (BitVec.eq_of_toNat_eq h)
    have hlog : x.toNat.log2 < 64 := (Nat.log2_lt hn).2 x.isLt
    rw [leadingZeros, if_neg hx]
    refine ⟨by omega, fun i hi => ?above, fun _ => ?top⟩
    case above => exact Nat.testBit_lt_two_pow (Nat.lt_of_lt_of_le Nat.lt_log2_self (Nat.pow_le_pow_right (by decide) (by omega)))
    case top => rw [show 63 - (63 - x.toNat.log2) = x.toNat.log2 by omega, Nat.testBit_log2 hn]

/-- Among n bits from i on, trailingFrom finds the lowest one that is set, or their end. -/
theorem testBit_trailingFrom (x n i : Nat) : i ≤ trailingFrom x n i ∧ trailingFrom x n i ≤ i + n ∧
    (∀ j, i ≤ j → j < trailingFrom x n i → x.testBit j = false) ∧ (trailingFrom x n i < i + n → x.testBit (trailingFrom x n i) = true) := by
  induction n generalizing i with
  | zero => exact ⟨le_refl i, le_refl i, fun j h1 h2 => absurd h2 (not_lt.2 h1), fun h => absurd h (lt_irrefl i)⟩
  | succ n ih =>
    rw [trailingFrom]
    by_cases hi : x.testBit i = true
    · rw [if_pos hi]
      exact ⟨le_refl i, by omega, fun j h1 h2 => absurd h2 (not_lt.2 h1), fun _ => hi⟩
    · obtain ⟨hlo, hhi, hzero, hone⟩ := ih (i + 1)
      rw [if_neg hi]
      refine ⟨by omega, by omega, fun j h1 h2 => ?_, fun h => hone (by omega)⟩
      rcases Nat.eq_or_lt_of_le h1 with rfl | h1
      · exact Bool.not_eq_true _ ▸ hi
      · exact hzero j h1 h2

/-- Settles O1: each result is the model's function of the sources, whose value the lemmas above give. -/
theorem scalarResultsFollowTheTable : Obligations.ScalarResultsFollowTheTable := by
  unfold Obligations.ScalarResultsFollowTheTable
  refine ⟨fun s d a b => ?table, fun s d a => ⟨fun h => ?clz, fun h => ?ctz, writesS_scalar1 (exec_popc ..) ?popc⟩⟩
  case table =>
    refine ⟨writesS_scalar2 (exec_add ..) (BitVec.add_def _ _), writesS_scalar2 (exec_sub ..) (sub_eq_ofInt _ _),
      writesS_scalar2 (exec_min ..) (min_eq_ofInt _ _), writesS_scalar2 (exec_max ..) (max_eq_ofInt _ _),
      writesS_scalar2 (exec_minu ..) (minu_eq_ofNat _ _), writesS_scalar2 (exec_maxu ..) (maxu_eq_ofNat _ _),
      writesS_scalar2 (exec_and ..) (and_eq_ofNat _ _), writesS_scalar2 (exec_or ..) (or_eq_ofNat _ _),
      writesS_scalar2 (exec_xor ..) (xor_eq_ofNat _ _), writesS_scalar2 (exec_andn ..) (andn_eq_ofNat _ _),
      writesS_scalar2 (exec_seq ..) (truth_of_iff ?seq), writesS_scalar2 (exec_sne ..) (truth_of_iff ?sne),
      writesS_scalar2 (exec_slt ..) (truth_of_iff BitVec.slt_iff_toInt_lt), writesS_scalar2 (exec_sltu ..) (truth_of_iff BitVec.ult_iff_lt),
      writesS_scalar2 (exec_sle ..) (truth_of_iff BitVec.sle_iff_toInt_le), writesS_scalar2 (exec_sleu ..) (truth_of_iff BitVec.ule_iff_le),
      writesS_scalar2 (exec_sel ..) rfl⟩
    case seq => rw [beq_iff_eq, BitVec.toNat_inj]
    case sne => rw [bne_iff_ne, ne_eq, ne_eq, BitVec.toNat_inj]
  case clz => exact ⟨_, writesS_scalar1 (exec_clz ..) rfl h, testBit_leadingZeros _⟩
  case ctz =>
    obtain ⟨-, hle, hzero, hone⟩ := testBit_trailingFrom (s.src1 a).toNat 64 0
    rw [Nat.zero_add] at hle hone
    exact ⟨_, writesS_scalar1 (exec_ctz ..) rfl h, hle, fun i hi => hzero i (Nat.zero_le i) hi, hone⟩
  case popc => rw [popCount_eq_length]

/-! Quotients and remainders (R39). -/

section
variable {x y : Word}

theorem sdivWord_of_ne_zero (h : y ≠ 0) : sdivWord x y = x.sdiv y := by
  rw [sdivWord, if_neg h]
  exact BitVec.eq_of_toInt_eq (by rw [BitVec.toInt_ofInt, BitVec.toInt_sdiv])
theorem sremWord_of_ne_zero (h : y ≠ 0) : sremWord x y = x.srem y := by
  rw [sremWord, if_neg h, ← BitVec.toInt_srem, BitVec.ofInt_toInt]

theorem eq_intMin_iff : x = BitVec.intMin 64 ↔ x.toInt = -2 ^ 63 := BitVec.toInt_inj.symm
theorem eq_neg_one_iff : y = -1#64 ↔ y.toInt = -1 := BitVec.toInt_inj.symm

theorem sdivWord_overflow (hx : x.toInt = -2 ^ 63) (hy : y.toInt = -1) : sdivWord x y = x := by
  rw [eq_intMin_iff.2 hx, eq_neg_one_iff.2 hy]
  decide
theorem sremWord_overflow (hx : x.toInt = -2 ^ 63) (hy : y.toInt = -1) : sremWord x y = 0 := by
  rw [eq_intMin_iff.2 hx, eq_neg_one_iff.2 hy]
  decide

theorem toInt_sdivWord (h : y ≠ 0) (hov : ¬(x.toInt = -2 ^ 63 ∧ y.toInt = -1)) : (sdivWord x y).toInt = x.toInt.tdiv y.toInt := by
  rw [sdivWord_of_ne_zero h]
  rw [← eq_intMin_iff, ← eq_neg_one_iff, not_and_or] at hov
  exact BitVec.toInt_sdiv_of_ne_or_ne x y hov
theorem toInt_sremWord (h : y ≠ 0) : (sremWord x y).toInt = x.toInt.tmod y.toInt := by
  rw [sremWord_of_ne_zero h, BitVec.toInt_srem]
theorem toNat_udivWord (h : y ≠ 0) : (udivWord x y).toNat = x.toNat / y.toNat := by
  rw [udivWord, if_neg h, BitVec.toNat_ofNat, Nat.mod_eq_of_lt (Nat.lt_of_le_of_lt (Nat.div_le_self ..) x.isLt)]
theorem toNat_uremWord (h : y ≠ 0) : (uremWord x y).toNat = x.toNat % y.toNat := by
  rw [uremWord, if_neg h, BitVec.toNat_ofNat, Nat.mod_eq_of_lt (Nat.lt_of_le_of_lt (Nat.mod_le ..) x.isLt)]
end

/-! The carry-less product (R85). -/

/-- Bit n of a carry-less product by the low m bits of y is the parity of the products of bits whose places add up to n. -/
theorem testBit_clprod (x y m n : Nat) : (clprod x y m).testBit n =
    decide (((List.range m).filter fun i => decide (i ≤ n) && y.testBit i && x.testBit (n - i)).length % 2 = 1) := by
  induction m with
  | zero => simp [clprod]
  | succ m ih =>
    have hterm : (if y.testBit m then x * 2 ^ m else 0).testBit n = (decide (m ≤ n) && y.testBit m && x.testBit (n - m)) := by
      cases y.testBit m
      · simp
      · simp [Nat.testBit_mul_two_pow]
    rw [clprod, Nat.testBit_xor, ih, hterm, List.range_succ, List.filter_append, List.length_append, List.filter_singleton]
    cases decide (m ≤ n) && y.testBit m && x.testBit (n - m)
    · simp
    · simp only [cond_true, List.length_singleton, Bool.bne_true, ← decide_not, decide_eq_decide]
      omega

/-! Bytes in reverse order (R85). -/

theorem leNat_div_pow (l : List Byte) (k : Nat) : leNat l / 256 ^ k = leNat (l.drop k) := by
  induction k generalizing l with
  | zero => simp
  | succ k ih =>
    cases l with
    | nil => simp [leNat]
    | cons b t =>
      have hb := b.isLt
      rw [Nat.pow_succ', ← Nat.div_div_eq_div_mul, leNat, show (b.toNat + 256 * leNat t) / 256 = leNat t by omega, ih, List.drop_succ_cons]

/-- Byte k of the number that little-endian bytes make up is the byte at k. -/
theorem leNat_div_mod {l : List Byte} {k : Nat} (h : k < l.length) : leNat l / 256 ^ k % 256 = l[k].toNat := by
  have hb := l[k].isLt
  rw [leNat_div_pow, List.drop_eq_getElem_cons h, leNat]
  omega

theorem getElem_leBytes (n x k : Nat) (h : k < (leBytes n x).length) : (leBytes n x)[k] = BitVec.ofNat 8 (x / 256 ^ k) := by
  induction n generalizing x k with
  | zero => exact absurd h (by simp)
  | succ n ih =>
    cases k with
    | zero => simp [leBytes]
    | succ k =>
      simp only [leBytes, List.getElem_cons_succ]
      rw [ih, Nat.pow_succ', Nat.div_div_eq_div_mul]

/-- Byte k of a word. -/
theorem extractLsb'_byte (v : Word) (k : Nat) : v.extractLsb' (8 * k) 8 = BitVec.ofNat 8 (v.toNat / 256 ^ k) := by
  rw [BitVec.extractLsb', Nat.shiftRight_eq_div_pow, Nat.pow_mul]

theorem extractLsb'_byteSwap (x : Word) {k : Nat} (h : k < 8) :
    (byteSwap x).extractLsb' (8 * k) 8 = x.extractLsb' (56 - 8 * k) 8 := by
  have hl : k < (leBytes 8 x.toNat).reverse.length := by simpa using h
  have hpow : (2 : Nat) ^ 64 = 256 ^ k * 256 ^ (8 - k) := by rw [← Nat.pow_add, show k + (8 - k) = 8 by omega]; rfl
  have hbyte : (byteSwap x).toNat / 256 ^ k % 256 = (x.toNat / 256 ^ (7 - k)) % 256 := by
    have hdvd : 256 ∣ 256 ^ (8 - k) := dvd_pow_self 256 (by omega)
    rw [byteSwap, BitVec.toNat_ofNat, hpow, Nat.mod_mul_right_div_self, Nat.mod_mod_of_dvd _ hdvd, leNat_div_mod hl, List.getElem_reverse,
      getElem_leBytes, length_leBytes]
    rfl
  rw [extractLsb'_byte, show 56 - 8 * k = 8 * (7 - k) by omega, extractLsb'_byte]
  exact BitVec.eq_of_toNat_eq (by simpa using hbyte)

/-- Settles O2: shifts and products by the numbers that they are, quotients by their cases, the carry-less product by its bits. -/
theorem shiftsProductsAndQuotientsFollowTheirRules : Obligations.ShiftsProductsAndQuotientsFollowTheirRules := by
  unfold Obligations.ShiftsProductsAndQuotientsFollowTheirRules
  refine ⟨fun s d a b => ?shifts, fun s d a b => ?products, fun s d a b => ?carryLess⟩
  case shifts =>
    have hn : (s.srcB b).toNat % 64 < 64 := Nat.mod_lt _ (by decide)
    exact ⟨writesS_scalar2 (exec_shl ..) (shiftLeft_eq_ofNat _ _), writesS_scalar2 (exec_shr ..) (shiftRight_eq_ofNat _ _),
      writesS_scalar2 (exec_sar ..) (sshiftRight_eq_ofInt _ _), writesS_scalar2 (exec_rol ..) (rotl_eq_rotateLeft _ hn)⟩
  case products =>
    refine ⟨writesS_scalar2 (exec_mul ..) (mul_eq_ofNat _ _), writesS_scalar2 (exec_mulh ..) rfl, writesS_scalar2 (exec_mulhu ..) rfl,
      fun h => ⟨_, writesS_scalar2 (exec_div ..) rfl h, fun hy => if_pos hy, sdivWord_overflow, toInt_sdivWord⟩,
      fun h => ⟨_, writesS_scalar2 (exec_rem ..) rfl h, fun hy => if_pos hy, sremWord_overflow, fun hy _ => toInt_sremWord hy⟩,
      fun h => ⟨_, writesS_scalar2 (exec_divu ..) rfl h, fun hy => if_pos hy, toNat_udivWord⟩,
      fun h => ⟨_, writesS_scalar2 (exec_remu ..) rfl h, fun hy => if_pos hy, toNat_uremWord⟩⟩
  case carryLess =>
    refine ⟨fun h => ⟨_, writesS_scalar2 (exec_clmul ..) rfl h, fun n hn => ?low⟩, fun h => ⟨_, writesS_scalar2 (exec_clmulh ..) rfl h, fun n hn => ?high⟩,
      fun h => ⟨_, writesS_scalar1 (exec_bswap ..) rfl h, fun k hk => extractLsb'_byteSwap _ hk⟩⟩
    case low => rw [BitVec.getLsbD_ofNat, testBit_clprod, decide_eq_true hn, Bool.true_and]
    case high =>
      rw [BitVec.getLsbD_ofNat, Nat.testBit_div_two_pow, testBit_clprod, decide_eq_true hn, Bool.true_and, Nat.add_comm n]

/-- Settles O3: each instruction is the model's function of the register and of the extended immediate. -/
theorem immediateInstructionsWriteTheirValue : Obligations.ImmediateInstructionsWriteTheirValue := by
  unfold Obligations.ImmediateInstructionsWriteTheirValue
  intro s d a j t n
  exact ⟨writesS_scalarImm (exec_addI ..) rfl, writesS_scalarImm (exec_andI ..) rfl, writesS_scalarImm (exec_orI ..) rfl,
    writesS_scalarImm (exec_xorI ..) rfl, writesS_scalarImm (exec_sltI ..) (truth_of_iff BitVec.slt_iff_toInt_lt),
    writesS_scalarImm (exec_sltuI ..) (truth_of_iff BitVec.ult_iff_lt), writesS_scalarShift (exec_shlI ..) (shiftLeft_eq_ofNat _ _),
    writesS_scalarShift (exec_shrI ..) (shiftRight_eq_ofNat _ _), writesS_scalarShift (exec_sarI ..) (sshiftRight_eq_ofInt _ _)⟩

end Sys2Proof.Machine
end

section
/-! SUPPORT. Branches, jumps, traps and their return, halting, pausing and yielding: what each does once it is accepted, and the statements
about them. -/

open Sys2Proof Sys2Proof.Machine

namespace Sys2Proof.Machine

/-! Branches, jumps and calls (R89, R90). -/

theorem ofInt_four_mul_toS {n : Nat} (o : BitVec n) : BitVec.ofInt 64 (4 * toS o.toNat n) = o.signExtend 64 <<< 2 := by
  rw [toS_eq_toInt, BitVec.ofNat_toNat, BitVec.setWidth_eq, BitVec.ofInt_mul, BitVec.shiftLeft_eq_mul_twoPow, BitVec.mul_comm,
    BitVec.signExtend]
  rfl

theorem branchTarget_eq (s : State) {n : Nat} (o : BitVec n) : branchTarget s n o.toNat = s.me.pc + (o.signExtend 64 <<< 2) := by
  rw [branchTarget, ofInt_four_mul_toS]

section
variable {i : Instr} {s : State}

/-- A conditional branch off the message strand, by its condition (R89). -/
theorem branch_goesTo {c : Bool} {p : Prop} {n : Nat} {o : BitVec n} (he : exec i s = branch i s c n o.toNat) (hc : c = true ↔ p)
    (hm : isMessage s.cur.1 s.cur.2 = false) (h : Accepts i s) :
    (p → GoesTo i s (s.traceMe 1 0 (s.me.pc + (o.signExtend 64 <<< 2))) (s.me.pc + (o.signExtend 64 <<< 2))) ∧
      (¬p → GoesTo i s s (s.me.pc + 4)) := by
  rw [GoesTo, GoesTo, he, ← hc, ← branchTarget_eq]
  refine ⟨fun ht => runJump_ok h ?_, fun ht => runJump_ok h (if_neg ht)⟩
  simp [ht, hm]

theorem jumpReg_misaligned {t : Word} {link : Bool} (he : exec i s = jumpReg i s t link) (h : Accepts i s) (ht : t.toNat % 4 ≠ 0) :
    Traps i s .misaligned := by
  rw [Traps, he]
  exact runRaw_trap h (if_pos ht)

/-- A jump through a register to an aligned target but 0 (R90). -/
theorem jumpReg_goesTo {t : Word} {link : Bool} (he : exec i s = jumpReg i s t link) (h : Accepts i s) (ht : t.toNat % 4 = 0) (h0 : t ≠ 0) :
    GoesTo i s ((if link then s.setS 14 (s.me.pc + 4) else s).traceMe 1 0 t) t := by
  rw [GoesTo, he]
  exact runRaw_ok h ((if_neg (not_not.2 ht)).trans (if_neg fun hz => h0 hz.1))
end

/-- Settles O5: branches by their condition, jumps and calls by their target. -/
theorem branchesJumpsAndCallsGoToTheirTarget : Obligations.BranchesJumpsAndCallsGoToTheirTarget := by
  unfold Obligations.BranchesJumpsAndCallsGoToTheirTarget
  refine ⟨fun s a b o z hm => ⟨branch_goesTo (exec_beq ..) beq_iff_eq hm, branch_goesTo (exec_bne ..) bne_iff_ne hm,
    branch_goesTo (exec_blt ..) BitVec.slt_iff_toInt_lt hm, branch_goesTo (exec_bge ..) BitVec.sle_iff_toInt_le hm,
    branch_goesTo (exec_bltu ..) BitVec.ult_iff_lt hm, branch_goesTo (exec_bgeu ..) BitVec.ule_iff_le hm,
    branch_goesTo (exec_bz ..) beq_iff_eq hm, branch_goesTo (exec_bnz ..) bne_iff_ne hm⟩, fun s o a => ⟨fun h => ?jmp, fun h => ?call,
    fun h => ⟨jumpReg_misaligned (exec_jr ..) h, jumpReg_goesTo (exec_jr ..) h⟩,
    fun h => ⟨jumpReg_misaligned (exec_callr ..) h, jumpReg_goesTo (exec_callr ..) h⟩,
    fun h => ⟨jumpReg_misaligned (exec_ret ..) h, jumpReg_goesTo (exec_ret ..) h⟩⟩⟩
  case jmp =>
    rw [GoesTo, exec_jmp, ← branchTarget_eq]
    exact runJump_ok h rfl
  case call =>
    rw [GoesTo, exec_call, ← branchTarget_eq]
    exact runJump_ok h rfl

/-! Taking a trap (R73, R96 to R98, R187). -/

theorem Code.num_lt (c : Code) : c.num < 256 := by cases c <;> decide

/-- TRAPVEC's field as an address. -/
theorem trapvec_shiftLeft (v : BitVec 55) : v.zeroExtend 64 <<< 2 = (v ++ 0#2).zeroExtend 64 := by
  apply BitVec.eq_of_toNat_eq
  have hv := v.isLt
  simp only [BitVec.toNat_shiftLeft, BitVec.toNat_setWidth, BitVec.toNat_append, BitVec.toNat_ofNat, Nat.shiftLeft_eq, Nat.zero_mod, Nat.or_zero]
  omega

/-- A precise trap enters a strand without operations under way. -/
theorem trapEntry_of_no_ops {x : Strand} (h : x.ops = []) (c : Code) (pc : Word) : trapEntry c none pc x =
    { x with
      trappc := pc, trapcause := BitVec.ofNat 10 (c.num + (if x.mode = .service then 512 else 0))
      wdCount := if c = .watchdog then 0 else x.wdCount, wdDue := if c = .watchdog then false else x.wdDue, mode := .service
      pc := (x.trapvec ++ 0#2).zeroExtend 64, hints := Hints.none, answers := [], phase := 0, issued := 0, trapDue := none } := by
  rw [trapEntry, Strand.closeWindows_of_no_ops h, trapvec_shiftLeft]
  rfl

theorem toNat_trapcause (c : Code) (m : Mode) :
    (BitVec.ofNat 10 (c.num + (if m = .service then 512 else 0))).toNat = c.num + (if m = .service then 512 else 0) := by
  have hc := c.num_lt
  rw [BitVec.toNat_ofNat]
  split <;> omega

theorem Strand.drained_of_no_ops {x : Strand} (h : x.ops = []) : x.drained = true := by rw [Strand.drained, h]; rfl

section
variable {s : State} {c : Code}

theorem takeTrap_of_task (hm : isMessage s.cur.1 s.cur.2 = false) (hd : s.me.drained = true) :
    takeTrap s c = (s.modMe (trapEntry c none s.me.groupPc)).traceMe 4 0 (BitVec.ofNat 64 c.num) := by
  simp [takeTrap, takeTrapAt, hd, hm]

/-- A trap on the message strand with nothing under way ends the handler (R187). -/
theorem takeTrap_of_message (hm : isMessage s.cur.1 s.cur.2 = true) (hd : s.me.drained = true) (hu : s.me.unacked = 0) :
    takeTrap s c = (endHandler (s.modMe fun x => { x with trapDue := none })).traceMe 6 0 0 := by
  simp [takeTrap, takeTrapAt, hd, hm, hu]

/-- A trap found while an operation with a window is not complete is held (R73). -/
theorem takeTrap_of_not_drained (hd : s.me.drained = false) : takeTrap s c =
    s.modMe fun x => ({ x with trapDue := some (c, s.me.groupPc) } : Strand).holdFor s.cycle (s.stuck s.me) := by
  simp [takeTrap, takeTrapAt, hd, State.modMe_modMe]

end

theorem State.handler_traceMe (s : State) (kd ac : Nat) (d : Word) : (s.traceMe kd ac d).here.handler = s.here.handler :=
  s.field_modBrick s.cur.1 Brick.handler (fun x => x.record_handler _ _) s.cur.1

theorem endHandler_me_of_no_ops {s : State} (h : s.me.ops = []) : (endHandler s).me =
    { s.me with hints := Hints.none, answers := [], phase := 0, handlerCount := 0 } := by
  simp [endHandler, Strand.closeWindows_of_no_ops h]
theorem endHandler_handler (s : State) : (endHandler s).here.handler = none := by simp [endHandler]

/-- What a held trap leaves alone, and the block that its wait may be (R73, R118). -/
theorem Strand.holdFor_fields (x : Strand) (n : Nat) (r : Option BlockOn) : (x.holdFor n r).trapDue = x.trapDue ∧ (x.holdFor n r).s = x.s ∧
    (x.holdFor n r).pc = x.pc ∧ (x.holdFor n r).mode = x.mode ∧ (x.holdFor n r).block = r.orElse fun _ => x.block := by
  cases r <;> exact ⟨rfl, rfl, rfl, rfl, rfl⟩

/-- The message strand after a trap (R187). -/
theorem takeTrap_message_ends {s : State} {c : Code} (hm : isMessage s.cur.1 s.cur.2 = true) (hops : s.me.ops = []) (hu : s.me.unacked = 0) :
    (takeTrap s c).here.handler = none ∧ (takeTrap s c).me.trapDue = none ∧ (takeTrap s c).me.mode = s.me.mode ∧
      (takeTrap s c).me.s = s.me.s ∧ (takeTrap s c).mem = s.mem := by
  rw [takeTrap_of_message hm (Strand.drained_of_no_ops hops) hu, State.handler_traceMe, endHandler_handler, State.me_traceMe,
    endHandler_me_of_no_ops (by simpa using hops), State.me_modMe]
  exact ⟨rfl, rfl, rfl, rfl, rfl⟩

/-- Settles O34: a task's strand by trapEntry, a strand that waits by holdFor, the message strand by endHandler. -/
theorem trapsEnterServiceModeOnceWindowsClosed : Obligations.TrapsEnterServiceModeOnceWindowsClosed := by
  unfold Obligations.TrapsEnterServiceModeOnceWindowsClosed
  refine ⟨fun s c hm hops => ?task, fun s c => ⟨fun hd => ?held, takeTrap_message_ends⟩⟩
  case task =>
    intro t
    have hme : t.me = _ := (takeTrap_me hm hops).trans (trapEntry_of_no_ops hops c s.me.groupPc)
    have ht : t = _ := takeTrap_of_task hm (Strand.drained_of_no_ops hops)
    rw [hme]
    refine ⟨rfl, toNat_trapcause c s.me.mode, rfl, rfl, rfl, rfl, rfl, rfl, rfl, rfl, rfl, ?mem, fun b k hne => ?others⟩
    case mem => rw [ht]; rfl
    case others => rw [ht, State.strand_traceMe, State.strand_modMe_ne _ _ _ _ hne]
  case held =>
    rw [takeTrap_of_not_drained hd, State.me_modMe]
    obtain ⟨hdue, hs, hpc, hmode, hblock⟩ := Strand.holdFor_fields { s.me with trapDue := some (c, s.me.groupPc) } s.cycle (s.stuck s.me)
    exact ⟨hdue, hs, hpc, hmode, hblock, rfl⟩

/-! Events that close windows, on a strand without any (R73). -/

/-- Changes of the moving strand that agree on it are one. -/
theorem State.modMe_congr {s : State} {f g : Strand → Strand} (h : f s.me = g s.me) : s.modMe f = s.modMe g := by
  change s.modMe (fun _ => f s.me) = s.modMe fun _ => g s.me
  rw [h]

theorem closing_of_no_ops {s : State} (h : s.me.ops = []) : closing s = .ok (s.modMe id) := by
  rw [closing, if_pos (Strand.drained_of_no_ops h), State.modMe_congr (Strand.closeWindows_of_no_ops h : _ = id s.me)]

/-! trap, brk, pause, eret and halt (R95, R99, R100, R105). -/

theorem exec_trap_traps {s : State} (h : Accepts .trap s) : Traps .trap s .trapInsn := by
  rw [Traps, exec_trap]
  exact run_trap h rfl
theorem exec_brk_traps {s : State} (h : Accepts .brk s) : Traps .brk s .breakpoint := by
  rw [Traps, exec_brk]
  exact run_trap h rfl

section
variable {s : State} (hmode : s.me.mode = .service) (hops : s.me.ops = [])
include hmode hops

theorem eret_misaligned (h : Accepts .eret s) (hpc : s.me.trappc.toNat % 4 ≠ 0) : Traps .eret s .misaligned := by
  rw [Traps, exec_eret, execEret]
  exact runJump_trap h (by simp [hmode, eretBody, closing_of_no_ops hops, bind, Except.bind, hpc])

theorem eret_goesTo (h : Accepts .eret s) (hpc : s.me.trappc.toNat % 4 = 0) :
    GoesTo .eret s (s.modMe (eretStrand (isPair s.cur.1))) s.me.trappc := by
  rw [GoesTo, exec_eret, execEret]
  exact runJump_ok h (by simp [hmode, eretBody, closing_of_no_ops hops, bind, Except.bind, hpc, State.modMe_modMe])

theorem halt_ends (h : Accepts .halt s) (hu : s.me.unacked = 0) : exec .halt s = .next (let t := (advance (s.modMe id)).modMe fun x =>
    { x with halted := some .halt }; if isPair s.cur.1 then haltPair t (dieOf s.cur.1) else t) := by
  rw [exec_halt, execHalt]
  refine runRaw_ok h ((if_neg (by simp [hmode])).trans ?_)
  rw [closing_of_no_ops hops]
  exact if_neg (by simp [hu])
end

theorem haltPair_me (s : State) (d : Nat) : (haltPair s d).me = s.me := rfl
theorem haltPair_mem (s : State) (d : Nat) : (haltPair s d).mem = s.mem := rfl
theorem haltPair_unhealthy {s : State} {d : Nat} {p : Pair} (h : (haltPair s d).pairs.toList[d]? = some p) : p.healthy = false := by
  obtain ⟨hd, rfl⟩ := List.getElem?_eq_some_iff.1 h
  simp [haltPair, State.logHealth]

/-! What saves and translation leave alone. -/

theorem exists_of_bind_eq_ok {ε α β : Type} {x : Except ε α} {f : α → Except ε β} {r : β} (h : (x >>= f) = .ok r) :
    ∃ a, x = .ok a ∧ f a = .ok r := by
  cases x with
  | error e => cases h
  | ok a => exact ⟨a, rfl, h⟩

theorem State.fill_cur (s : State) (b : Nat) (e : XEntry) (rd : Bool) : (s.fill b e rd).cur = s.cur := by
  unfold State.fill
  split <;> rfl

/-- A lookup of what stands against an access leaves the state that it is made in. -/
theorem ok_of_fault {α : Type} {o : Option Code} {q r : α} (h : (match o with | some c => Except.error c | none => Except.ok q) = .ok r) :
    q = r := by
  cases o with
  | some c => cases h
  | none => exact Except.ok.inj h

/-- What translation does to the state: nothing, or one entry is filled (R259). -/
theorem translate_state {s t : State} {b space ea : Nat} {rd : Bool} {p : Place} (h : s.translate b space ea rd = .ok (p, t)) :
    t = s ∨ ∃ e, t = s.fill b e rd := by
  unfold State.translate at h
  by_cases h57 : 2 ^ 57 ≤ ea
  · rw [if_pos h57] at h
    cases h
  rw [if_neg h57] at h
  by_cases hw : pairWindow b space ea = true
  · rw [if_pos hw] at h
    exact .inl (Prod.mk.inj (ok_of_fault h)).2.symm
  rw [if_neg hw] at h
  cases hhit : (s.brick b).entries.find? fun e => decide (e.space = space) && decide (e.va ≤ ea) && decide (ea < e.va + e.len) with
  | some e =>
    rw [hhit] at h
    obtain ⟨_, ⟨⟩, h⟩ := exists_of_bind_eq_ok h
    obtain ⟨pa, -, h⟩ := exists_of_bind_eq_ok h
    exact .inl (Prod.mk.inj (ok_of_fault h)).2.symm
  | none =>
    rw [hhit] at h
    obtain ⟨n, -, h⟩ := exists_of_bind_eq_ok h
    obtain ⟨_, ⟨⟩, h⟩ := exists_of_bind_eq_ok h
    obtain ⟨pa, -, h⟩ := exists_of_bind_eq_ok h
    exact .inr ⟨_, (Prod.mk.inj (ok_of_fault h)).2.symm⟩

theorem check_cur {s t : State} {b space ea : Nat} {n : Need} {p : Place} (h : s.check b space ea n = .ok (p, t)) : t.cur = s.cur := by
  unfold State.check at h
  by_cases hl : ea < Config.sramBytes
  · rw [if_pos hl] at h
    rw [← (Prod.mk.inj (Except.ok.inj h)).2]
  rw [if_neg hl] at h
  obtain ⟨⟨q, u⟩, hq, h⟩ := exists_of_bind_eq_ok h
  rw [← (Prod.mk.inj (ok_of_fault h)).2]
  rcases translate_state hq with rfl | ⟨e, rfl⟩
  · rfl
  · exact State.fill_cur ..

/-- An act at its home changes memory and its poison alone (R114, R120, R127). -/
theorem performAct_eq {s t : State} {pa : Nat} {act : FAct} (h : performAct s pa act = .ok t) :
    t = { s with mem := t.mem, poison := t.poison } := by
  have hw (l : List (Option Byte)) : s.writeOpt pa l = { s with mem := (s.writeOpt pa l).mem, poison := (s.writeOpt pa l).poison } := by
    rw [State.writeOpt_eq]
  cases act with
  | write l =>
    simp only [performAct] at h
    split at h
    · cases h
    · cases h; exact hw _
  | amo a =>
    simp only [performAct] at h
    split at h
    · cases h
    · split at h
      · cases h
      · cases h; exact hw _
  | rel b =>
    simp only [performAct, relStep] at h
    split at h
    · cases h
    · split at h
      · cases h
      · split at h <;> (cases h; exact hw _)
  | landSet m =>
    simp only [performAct] at h
    split at h
    · cases h
    · cases h; exact hw _
  | bufAdv n =>
    simp only [performAct] at h
    split at h
    · cases h
    · cases h; exact hw _

/-- A fault message on its way changes neither whose turn it is nor the launches nor the time. -/
theorem State.sendFault_frame (s : State) (f : FaultMsg) :
    (s.sendFault f).cur = s.cur ∧ (s.sendFault f).launches = s.launches ∧ (s.sendFault f).cycle = s.cycle := by
  have hcount : (s.countRefusal f).cur = s.cur ∧ (s.countRefusal f).launches = s.launches ∧ (s.countRefusal f).cycle = s.cycle := by
    unfold State.countRefusal
    split
    · exact ⟨rfl, rfl, rfl⟩
    · split <;> exact ⟨rfl, rfl, rfl⟩
  exact hcount
theorem State.report_frame (s : State) (b k space : Nat) (c : Code) (a : Access) (pc addr : Word) (seq : BitVec 32) :
    (s.report b k space c a pc addr seq).cur = s.cur ∧ (s.report b k space c a pc addr seq).launches = s.launches ∧
      (s.report b k space c a pc addr seq).cycle = s.cycle := State.sendFault_frame _ _

theorem noteBy_cur (s : State) (b k space pa n : Nat) : (noteBy s b k space pa n).cur = s.cur := by
  simp only [noteBy, State.touchFar]
  split <;> rfl
theorem wakeAt_cur (s : State) (pa : Nat) : (wakeAt s pa).cur = s.cur := by
  unfold wakeAt
  split <;> rfl

/-- A line of a save at its home does not change whose turn it is. -/
theorem homeAct_cur {s t : State} {b space va pa : Nat} {l : List (Option Byte)} (h : homeAct s b space va pa (.write l) = some (.ok t)) :
    t.cur = s.cur := by
  unfold homeAct at h
  by_cases hh : (isHost pa && s.hostHeld space) = true
  · rw [if_pos hh] at h
    obtain ⟨u, hu, hut⟩ := Option.map_eq_some_iff.1 h
    unfold State.parkAct at hu
    split at hu
    · rw [← Except.ok.inj hut, ← Option.some.inj hu]
    · cases hu
  rw [if_neg hh] at h
  by_cases hr : (!s.homeReady pa) = true
  · rw [if_pos hr] at h
    cases h
  rw [if_neg hr] at h
  by_cases hd : s.linkDown b space va pa = true
  · rw [if_pos hd] at h
    cases h
  rw [if_neg hd] at h
  cases hp : performAct (noteWrite s b space pa (FAct.size (.write l))) pa (.write l) with
  | error c => simp [hp, Except.map] at h
  | ok u =>
    have huc : u.cur = s.cur := by
      rw [performAct_eq hp]
      exact noteBy_cur s b 7 space pa _
    simp only [hp, Except.map, Option.some.injEq, Except.ok.injEq] at h
    rw [← h, ← huc]
    split
    · rfl
    · exact wakeAt_cur u pa

/-- A line of a save that is made leaves the turn where it is, whether it is dropped, written at its home, or dropped there and reported (R33, R316). -/
theorem saveLine_cur {s t : State} {b k : Nat} {x : Strand} {q : Nat × List Byte} (h : saveLine s b k x q = some (.ok t)) : t.cur = s.cur := by
  unfold saveLine at h
  cases ha : x.answers.find? fun a => a.1 = saveOrd q.1 ∧ a.2 = .skip with
  | some a =>
    rw [ha] at h
    rw [← Except.ok.inj (Option.some.inj h)]
  | none =>
    rw [ha] at h
    cases hc : s.check b x.space (x.saveBase + q.1) needStore with
    | error c => simp [hc] at h
    | ok r =>
      obtain ⟨p, s'⟩ := r
      have hs' : s'.cur = s.cur := check_cur hc
      simp only [hc] at h
      by_cases h4 : paClass p.pa = 4 ∧ p.pa < 2 ^ 52
      · rw [if_pos h4] at h
        cases h
      rw [if_neg h4] at h
      by_cases hl : x.lapse = some (p.pa / 2 ^ 21 * 2 ^ 21)
      · rw [if_pos hl] at h
        cases h
      rw [if_neg hl] at h
      obtain ⟨r, hr, h⟩ := Option.map_eq_some_iff.1 h
      split at h
      · rw [← Except.ok.inj h]
        exact (homeAct_cur hr).trans hs'
      · rw [← Except.ok.inj h]
        exact (State.report_frame ..).1.trans hs'
      · cases h

theorem saveAll_cur {s t : State} {b k : Nat} {x : Strand} {l : List (Nat × List Byte)} (h : saveAll s b k x l = .ok t) : t.cur = s.cur := by
  induction l generalizing s with
  | nil => cases h; rfl
  | cons q l ih =>
    rw [saveAll] at h
    split at h
    · cases h
    · rename_i u hu
      rw [ih h, saveLine_cur hu]
    · cases h

theorem letGo_me (s : State) (x : Strand) (c : Ctx) : (letGo s s.cur.1 s.cur.2 x c).me = x.vacate s.cycle := by
  have hv : (letGo s s.cur.1 s.cur.2 x c).me = (s.bumpId.modStrand s.cur.1 s.cur.2 fun _ => x.vacate s.cycle).me :=
    State.me_modHere_of _ _ fun y => by dsimp only; split <;> rfl
  rw [hv]
  exact State.me_modMe ..

/-- A strand whose task leaves it has none. -/
theorem leaveStrand_me_task {s u : State} {t : Task} {full : Bool} {acc : Option Acc}
    (h : leaveStrand s s.cur.1 s.cur.2 t full acc = .ok u) : u.me.task = none := by
  rw [leaveStrand] at h
  split at h
  · rename_i v hv
    cases h
    have hc : v.cur = s.cur := saveAll_cur hv
    rw [← hc, letGo_me]
    rfl
  · cases h
  · cases h

/-! yield (R92). -/

/-- A change of a strand that keeps its ring leaves the work that waits for every strand (R236). -/
theorem Brick.hasWork_modStrand {x : Brick} {j : Fin 5} {f : Strand → Strand} (h : (f (x.strand j)).ring = (x.strand j).ring) (k : Nat) :
    (x.modStrand j f).hasWork k = x.hasWork k := by
  have hring (i : Nat) : ((x.modStrand j f).strands.toList[i]?.map fun t => t.ring) = x.strands.toList[i]?.map fun t => t.ring := by
    simp only [Brick.modStrand, Vector.toList_set, List.getElem?_set, Vector.length_toList]
    split
    · rename_i hi
      subst hi
      simp [h]
      rfl
    · rfl
  have hbound (key : Nat) : (x.modStrand j f).boundTo key = x.boundTo key := by
    have hany (o : Option Strand) : (o.map fun t => t.ring.any fun e => e.tag = key) = (o.map fun t => t.ring).map fun r => r.any fun e => e.tag = key := by
      rw [Option.map_map]
      rfl
    simp only [Brick.boundTo, hany, hring]
  simp only [Brick.hasWork, Ctx.mayRun, hbound]
  rfl

section
variable (s : State) (f : Strand → Strand)

theorem State.field_modMe {α : Type} (p : Brick → α) (hp : ∀ x : Brick, p (x.modStrand s.cur.2 f) = p x) (b : Nat) :
    p ((s.modMe f).brick b) = p (s.brick b) := s.field_modBrick s.cur.1 p hp b

theorem State.hasWork_modMe (h : (f s.me).ring = s.me.ring) (k : Nat) : (s.modMe f).here.hasWork k = s.here.hasWork k := by
  rw [State.here_modMe]
  exact Brick.hasWork_modStrand h k

theorem State.nodeAt_modMe (b space va : Nat) : nodeAt (s.modMe f) b space va = nodeAt s b space va := by
  simp only [nodeAt, s.field_modMe f Brick.entries fun _ => rfl]
  rfl

theorem Strand.saveReady_modMe (x : Strand) (b : Nat) : x.saveReady (s.modMe f) b = x.saveReady s b := by
  simp only [Strand.saveReady, State.homesReady, State.paAt, State.nodeAt_modMe]
  rfl
end

/-- The strand that yields, as its stores have drained: YIELDREQ is taken and WATCHDOG.COUNT is 0 (R92). -/
def Strand.yielded (x : Strand) (n : Nat) : Strand :=
  { x with yieldPend := false, yieldLeft := 0, saveDue := false, wdCount := 0, wdDue := false, fetchOwn := n }

section
variable {s : State} (hops : s.me.ops = []) (hu : s.me.unacked = 0)
include hops hu

/-- yield goes on where nothing asks it to leave. -/
theorem yieldBody_goesOn (hp : s.me.yieldPend = false) (hph : s.me.phase ≠ 2) (hw : s.here.hasWork s.cur.2 = false) :
    yieldBody s = .ok (advance (s.modMe fun x => undefVectors { (x.yielded s.codeLog.length) with phase := 1, lastSpace := x.space } s.free)) := by
  rw [yieldBody, closing_of_no_ops hops]
  simp (disch := rfl) only [bind, Except.bind, State.me_modMe, State.modMe_modMe, State.hasWork_modMe, State.modMe_cur, State.modMe_codeLog,
    State.modMe_free, id, hu, hp, hph, hw, ne_eq, not_true, decide_false, Bool.or_self, Bool.false_eq_true, if_false]
  cases s.me.task <;> rfl

/-- yield leaves where it must, or where work waits. -/
theorem yieldBody_leaves {t : Task} {u : State} (ht : s.me.task = some t) (hp : s.me.yieldPend = true ∨ s.here.hasWork s.cur.2 = true)
    (hr : s.me.saveReady s s.cur.1 = true) (hl : leaveStrand (s.modMe fun _ => { (s.me.yielded s.codeLog.length) with pc := s.me.pc + 4, hints := Hints.none, phase := 0 })
      s.cur.1 s.cur.2 t false none = .ok u) : yieldBody s = .ok u := by
  rw [yieldBody, closing_of_no_ops hops]
  have hpend : (s.me.yieldPend || decide (s.me.phase = 2) || s.here.hasWork s.cur.2) = true := by
    rcases hp with hp | hp <;> simp [hp]
  have hleave : ∀ f : Strand → Strand, f s.me = { (s.me.yielded s.codeLog.length) with pc := s.me.pc + 4, hints := Hints.none, phase := 0 } →
      leaveStrand (s.modMe f) s.cur.1 s.cur.2 t false none = .ok u := fun f hf => by
    rw [← hl]
    exact congrArg (leaveStrand · _ _ _ _ _) (State.modMe_congr hf)
  simp (disch := rfl) only [bind, Except.bind, State.me_modMe, State.modMe_modMe, State.hasWork_modMe, State.modMe_cur, State.modMe_codeLog,
    Strand.saveReady_modMe, id, hu, ht, hr, hpend, ne_eq, not_true, Bool.not_true, Bool.false_eq_true, if_false, if_true]
  rw [hleave _ rfl]
end

theorem undefVectors_keeps (x : Strand) (n : Nat) : ∃ v p, undefVectors x n = { x with v := v, p := p } := by
  unfold undefVectors
  split
  · exact ⟨_, _, rfl⟩
  · exact ⟨_, _, rfl⟩

/-- Settles O35: each instruction by what it comes to on a strand without operations under way. -/
theorem systemInstructionsDoTheirPart : Obligations.SystemInstructionsDoTheirPart := by
  unfold Obligations.SystemInstructionsDoTheirPart
  refine ⟨by decide, fun s => ?instructions⟩
  intro x takes
  have htakes {i : Instr} {c : Code} (hi : Accepts i s → Traps i s c) : takes i c := fun h => ⟨hi h, fun hm hops => ?task, fun hm hops hu => ?message⟩
  case task =>
    have hme : (takeTrap s c).me = _ := (takeTrap_me hm hops).trans (trapEntry_of_no_ops hops c s.me.groupPc)
    refine ⟨_, hi h, ?_⟩
    rw [hme]
    refine ⟨rfl, toNat_trapcause c s.me.mode, rfl, rfl, rfl, ?_⟩
    rw [takeTrap_of_task hm (Strand.drained_of_no_ops hops)]
    rfl
  case message =>
    obtain ⟨hh, -, -, hs, hmem⟩ := takeTrap_message_ends (c := c) hm hops hu
    exact ⟨_, hi h, hh, hs, hmem⟩
  refine ⟨htakes exec_trap_traps, htakes exec_brk_traps, fun h => ?pause,
    fun h => ⟨fun hm => eret_traps_in_task_mode hm h, fun hm hops => eret_misaligned hm hops h, fun hm hops hpc => ?eret⟩,
    fun h => ⟨fun hm => halt_traps_in_task_mode hm h, fun hm hops hu => ?halt⟩,
    fun h hops hu => ⟨fun hp hph hw => ?goesOn, fun t u ht hp hr hl => ?leaves⟩⟩
  case pause =>
    rw [exec_pause]
    exact run_ok h rfl
  case eret =>
    refine ⟨_, eret_goesTo hm hops h hpc, ?_⟩
    rw [advanceTo_me_of_no_ops (by rw [State.me_modMe]; exact hops), State.me_modMe]
    refine ⟨rfl, ?_, rfl, rfl, rfl, rfl, rfl⟩
    simp [eretStrand, x]
  case halt =>
    refine ⟨_, halt_ends hm hops h hu, ?_⟩
    have hadv : (advance (s.modMe id)).me = _ := advanceTo_me_of_no_ops (by rw [State.me_modMe]; exact hops) _
    dsimp only
    split
    · rename_i hpair
      rw [haltPair_me, haltPair_mem, State.me_modMe, hadv, State.me_modMe]
      exact ⟨rfl, rfl, rfl, rfl, fun _ p hp => haltPair_unhealthy hp⟩
    · rename_i hpair
      rw [State.me_modMe, hadv, State.me_modMe]
      exact ⟨rfl, rfl, rfl, rfl, fun hp => absurd hp hpair⟩
  case goesOn =>
    obtain ⟨v, p, hv⟩ := undefVectors_keeps { (s.me.yielded s.codeLog.length) with phase := 1, lastSpace := s.me.space } s.free
    have hyield : exec .yield s = _ := (exec_yield s).trans (runRaw_ok h (yieldBody_goesOn hops hu hp hph hw))
    refine ⟨_, hyield, ?_⟩
    rw [advance, advanceTo_me_of_no_ops (by rw [State.me_modMe, hv]; exact hops), State.me_modMe, hv]
    exact ⟨rfl, rfl, rfl, rfl, rfl, rfl, rfl⟩
  case leaves =>
    exact ⟨(exec_yield s).trans (runRaw_ok h (yieldBody_leaves hops hu ht hp hr hl)), leaveStrand_me_task hl⟩

end Sys2Proof.Machine
end

section
/-! SUPPORT. Tasks: what a strand without operations reads once its windows have closed, the end of a task, join, spawn.g and migrate. -/

open Sys2Proof Sys2Proof.Machine

namespace Sys2Proof.Machine

/-! The state in which an instruction goes on whose closing of windows changed nothing reads as before. -/

theorem putKey_of_findKey {α : Type} {k : Nat} {x : α} {l : List (Nat × α)} (h : findKey k l = some x) : putKey k x l = l := by
  induction l with
  | nil => cases h
  | cons q t ih =>
    obtain ⟨j, y⟩ := q
    by_cases hj : j = k
    · simp_all [findKey, putKey]
    · simp_all [findKey, putKey]

theorem putKey_of_findKey_none {α : Type} {k : Nat} {x : α} {l : List (Nat × α)} (h : findKey k l = none) : putKey k x l = l ++ [(k, x)] := by
  induction l with
  | nil => rfl
  | cons q t ih =>
    obtain ⟨j, y⟩ := q
    by_cases hj : j = k
    · simp_all [findKey]
    · simp_all [findKey, putKey]

theorem Brick.modStrand_id (x : Brick) (k : Fin 5) : x.modStrand k id = x := by
  simp [Brick.modStrand, Brick.strand, Vector.get_eq_getElem]

section
variable (s : State)

theorem State.modMe_id_eq : s.modMe id = s.modBrick s.cur.1 id := by
  rw [State.modMe, State.modStrand]
  exact congrArg (s.modBrick s.cur.1) (funext fun x => x.modStrand_id s.cur.2)

@[simp] theorem State.brick_modMe_id (b : Nat) : (s.modMe id).brick b = s.brick b := by
  rw [State.modMe_id_eq]
  exact s.field_modBrick s.cur.1 (fun x => x) (fun _ => rfl) b
@[simp] theorem State.strand_modMe_id (b : Nat) (k : Fin 5) : (s.modMe id).strand b k = s.strand b k := by
  rw [State.strand, State.brick_modMe_id, ← State.strand]
@[simp] theorem State.here_modMe_id : (s.modMe id).here = s.here := s.brick_modMe_id s.cur.1
@[simp] theorem State.me_modMe_id : (s.modMe id).me = s.me := s.me_modMe id

theorem sameView_id : SameView id := fun _ => ⟨rfl, rfl, rfl, rfl, rfl, rfl, rfl⟩

@[simp] theorem State.num_modMe_id (pa n : Nat) : (s.modMe id).num pa n = s.num pa n := by
  rw [State.modMe_id_eq, sameView_id.num]
@[simp] theorem State.flightPa_modMe_id (b : Nat) (f : Flight) : (s.modMe id).flightPa b f = s.flightPa b f := by
  rw [State.modMe_id_eq, sameView_id.flightPa]
@[simp] theorem State.lineBusy_modMe_id (b k id' space ea : Nat) (pa : Option Nat) :
    (s.modMe id).lineBusy b k id' space ea pa = s.lineBusy b k id' space ea pa := by
  simp only [State.lineBusy, State.strandAt, State.brick_modMe_id, State.flightPa_modMe_id]
@[simp] theorem State.ownBusy_modMe_id : (s.modMe id).ownBusy = s.ownBusy := by
  unfold State.ownBusy
  rw [State.here_modMe_id, State.modMe_cur, show (s.modMe id).flightPa s.cur.1 = s.flightPa s.cur.1 from funext (s.flightPa_modMe_id s.cur.1)]
@[simp] theorem State.answer_modMe_id (ord : Nat) (ea : Word) : (s.modMe id).answer ord ea = s.answer ord ea := by
  simp only [State.answer, State.me_modMe_id]

/-- A brick that no list names has no matrix commands, and its being listed adds none. -/
theorem State.matrixBusy_modMe_id (b k id' : Nat) : (s.modMe id).matrixBusy b k id' = s.matrixBusy b k id' := by
  have hany (p : Brick → Bool) (hp : p (Brick.initial s.cur.1) = false) :
      ((s.modMe id).bricks.any fun q => p q.2) = s.bricks.any fun q => p q.2 := by
    rw [State.modMe_id_eq]
    change (putKey s.cur.1 (s.brick s.cur.1) s.bricks).any (fun q => p q.2) = _
    cases hf : findKey s.cur.1 s.bricks with
    | some x => rw [State.brick, hf, Option.getD_some, putKey_of_findKey hf]
    | none =>
      rw [State.brick, hf, Option.getD_none, putKey_of_findKey_none hf, List.any_append]
      simp [hp]
  have hmatq : (Brick.initial s.cur.1).matq = [] := by
    unfold Brick.initial
    split <;> rfl
  simp only [State.matrixBusy, State.brick_modMe_id, State.modMe_rcmds]
  rw [hany (fun y => y.matq.any fun m => m.issuer.any fun (c, j, n) => c = b && j = k && decide (n < id')) (by rw [hmatq]; rfl)]

theorem State.holdDone_modMe_id (h : FxHold) : (s.modMe id).holdDone h = s.holdDone h := by
  simp only [State.holdDone, State.drainedOf, State.copyBusy, State.messageBusy, State.brick_modMe_id, State.flightPa_modMe_id,
    State.matrixBusy_modMe_id, State.modMe_net]

theorem gate_modMe_id {c : Nat} (h : gate s c = .ok ()) : gate (s.modMe id) c = .ok () := by
  simp only [gate, State.me_modMe_id, State.holdDone_modMe_id] at h ⊢
  split at h
  · cases h
  · rename_i hfx
    split at h
    · cases h
    · rename_i hops
      rw [if_neg hfx, if_neg hops]

theorem endBusy_modMe_id (b : Nat) (k : Fin 5) : endBusy (s.modMe id) b k = endBusy s b k := by
  simp only [endBusy, State.strand_modMe_id, State.brick_modMe_id]

end

/-! The end of a task (R93, R178, R180, R281). -/

/-- Nothing of the course of tasks differs: whose turn it is, the launches and frames, the time, and the task of every strand. -/
def State.SameTasks (s t : State) : Prop :=
  t.cur = s.cur ∧ t.launches = s.launches ∧ t.frames = s.frames ∧ ∀ b k, (t.strand b k).task = (s.strand b k).task

theorem State.SameTasks.refl (s : State) : s.SameTasks s := ⟨rfl, rfl, rfl, fun _ _ => rfl⟩

theorem State.SameTasks.trans {s t u : State} (h : s.SameTasks t) (g : t.SameTasks u) : s.SameTasks u := by
  obtain ⟨hc, hl, hf, ht⟩ := h
  obtain ⟨gc, gl, gf, gt⟩ := g
  exact ⟨gc.trans hc, gl.trans hl, gf.trans hf, fun b k => (gt b k).trans (ht b k)⟩

theorem State.SameTasks.me_task {s t : State} (h : s.SameTasks t) : t.me.task = s.me.task := by
  obtain ⟨hc, -, -, ht⟩ := h
  rw [State.me, hc]
  exact ht _ _

theorem sameTasks_modBrick (s : State) (b : Nat) {f : Brick → Brick} (h : ∀ x k, ((f x).strand k).task = (x.strand k).task) :
    s.SameTasks (s.modBrick b f) :=
  ⟨rfl, rfl, rfl, fun c k => s.field_modBrick b (fun x => (x.strand k).task) (fun x => h x k) c⟩

theorem sameTasks_setChainCtrl (s : State) (b r x : Nat) : s.SameTasks (setChainCtrl s b r x) := by
  have he : setChainCtrl s b r x = { s with mem := (setChainCtrl s b r x).mem, poison := (setChainCtrl s b r x).poison } := by
    unfold setChainCtrl State.writeNum State.write
    rw [State.writeOpt_eq]
  rw [he]
  exact ⟨rfl, rfl, rfl, fun _ _ => rfl⟩

theorem Brick.modOp_task (x : Brick) (n : Nat) (f : Op → Op) (k : Fin 5) : ((x.modOp n f).strand k).task = (x.strand k).task := by
  simp only [Brick.modOp, Brick.strand, Vector.get_eq_getElem, Vector.getElem_map]

theorem sameTasks_dropSwitch (s : State) (b r : Nat) : s.SameTasks (dropSwitch s b r) := sameTasks_modBrick s b fun _ _ => rfl

theorem sameTasks_refuseSwitch (s : State) (b : Nat) (w : Switch) (v : Word) : s.SameTasks (refuseSwitch s b w v) := by
  unfold refuseSwitch
  refine ((sameTasks_setChainCtrl s b w.crec (putBit (chainCtrl s b w.crec) 5 false)).trans (sameTasks_dropSwitch _ b w.crec)).trans ?_
  split
  · exact sameTasks_modBrick _ b fun _ _ => rfl
  · exact sameTasks_modBrick _ b fun x k => x.modOp_task _ _ k

theorem sameTasks_leaveChain (s : State) (b r : Nat) : s.SameTasks (leaveChain s b r) := by
  unfold leaveChain
  dsimp only
  split
  · split
    · exact (sameTasks_setChainCtrl ..).trans (sameTasks_refuseSwitch ..)
    · exact sameTasks_setChainCtrl ..
  · exact ((sameTasks_setChainCtrl ..).trans (sameTasks_dropSwitch ..)).trans (sameTasks_modBrick _ b fun _ _ => rfl)

theorem sameTasks_chainLeft (s : State) (b : Nat) (t : Task) : s.SameTasks (chainLeft s b t) := by
  unfold chainLeft
  induction t.stages generalizing s with
  | nil => exact .refl s
  | cons q l ih => exact (sameTasks_leaveChain s b q.1).trans (ih _)

/-- A launch learns the end of a task from the launches and the time alone. -/
theorem launchEnd_launches {s s' : State} (hl : s'.launches = s.launches) (hc : s'.cycle = s.cycle) (t : Task) (status : Word) :
    (launchEnd s' t status).launches = (launchEnd s t status).launches := by
  simp only [launchEnd, State.modLaunch, hl, hc]

/-- The join counter's decrement changes neither launches nor the time (R180). -/
theorem joinDown_frame (s : State) (b : Nat) (k : Fin 5) (a : Word) :
    (joinDown s b k a).cur = s.cur ∧ (joinDown s b k a).launches = s.launches ∧ (joinDown s b k a).cycle = s.cycle := by
  unfold joinDown
  generalize FAct.amo _ = act
  dsimp only
  by_cases hl : a.toNat < Config.sramBytes
  · rw [if_pos hl]
    split
    · rename_i t ht
      rw [performAct_eq ht]
      exact ⟨rfl, rfl, rfl⟩
    · exact State.report_frame ..
  · rw [if_neg hl]
    exact ⟨rfl, rfl, rfl⟩

/-- The moving strand is left by the task of a context, which owns nothing in its brick any more (R93, R161, R180). -/
def State.vacated (s : State) (x : Strand) : State :=
  (s.modMe fun y => { y.vacate s.cycle with ring := y.ring.filter fun e => e.tag ≠ y.ctxKey }).modHere fun y => y.releaseCtx x.space x.ctxid

theorem State.vacated_me_task (s : State) (x : Strand) : (s.vacated x).me.task = none := by
  rw [State.vacated, State.me_modHere_of _ (fun y => y.releaseCtx x.space x.ctxid) fun _ => rfl, State.me_modMe]
  rfl

/-- The end of a task: its join counter, its strand, its launch, and its chains (R180, R281). -/
theorem endTask_eq {s : State} {t : Task} (ht : s.me.task = some t) (status : Word) :
    ∃ s' : State, s'.cur = s.cur ∧ s'.launches = s.launches ∧ s'.cycle = s.cycle ∧
      endTask s s.cur.1 s.cur.2 status = chainLeft (launchEnd (s'.vacated s.me) t status) s.cur.1 t := by
  obtain ⟨hc, hl, hy⟩ := joinDown_frame s s.cur.1 s.cur.2 t.joinAddr
  unfold endTask
  dsimp only
  rw [show (s.strand s.cur.1 s.cur.2).task = some t from ht]
  dsimp only
  split
  · exact ⟨s, rfl, rfl, rfl, rfl⟩
  · refine ⟨joinDown s s.cur.1 s.cur.2 t.joinAddr, hc, hl, hy, ?_⟩
    simp only [State.vacated, State.modMe, State.modHere, State.modStrand_cur, hc]
    rfl

/-- A task that ends leaves its strand free, and its launch counts it off (R180). -/
theorem endTask_ends {s : State} {t : Task} (ht : s.me.task = some t) (status : Word) :
    (endTask s s.cur.1 s.cur.2 status).me.task = none ∧ (endTask s s.cur.1 s.cur.2 status).launches = (launchEnd s t status).launches := by
  obtain ⟨s', hc, hl, hy, he⟩ := endTask_eq ht status
  have hchain := sameTasks_chainLeft (launchEnd (s'.vacated s.me) t status) s.cur.1 t
  rw [he]
  refine ⟨hchain.me_task.trans (s'.vacated_me_task s.me), ?_⟩
  obtain ⟨-, hlaunch, -, -⟩ := hchain
  exact hlaunch.trans (launchEnd_launches hl hy t status)

section
variable {s : State} (hops : s.me.ops = [])
include hops

theorem endSelf_ends (status : Word) (hlate : s.me.lates = []) (hbusy : endBusy s s.cur.1 s.cur.2 = false) :
    endSelf s status = .ok (endTask (s.modMe id) s.cur.1 s.cur.2 status) := by
  have hfirst : s.me.firstLate = none := by rw [Strand.firstLate, hlate]; rfl
  rw [endSelf, closing_of_no_ops hops]
  simp [bind, Except.bind, hfirst, endBusy_modMe_id, hbusy]

theorem ends_of_endSelf {i : Instr} {status : Word} {body : State → Except Stop State} (he : exec i s = runRaw i s body) (hb : body s = endSelf s status)
    (h : Accepts i s) (htask : s.me.task ≠ none) (hlate : s.me.lates = []) (hbusy : endBusy s s.cur.1 s.cur.2 = false) : Ends i s status := by
  obtain ⟨t, ht⟩ := Option.ne_none_iff_exists'.1 htask
  obtain ⟨hnone, hl⟩ := endTask_ends (s := s.modMe id) (t := t) (by rw [State.me_modMe_id, ht]) status
  exact ⟨_, t, he.trans (runRaw_ok h (hb.trans (endSelf_ends hops status hlate hbusy))), ht, hnone, hl⟩

/-- A jump through a register to 0 ends a task as texit s0 does (R178). -/
theorem ends_of_jumpReg {i : Instr} {t : Word} {link : Bool} (he : exec i s = jumpReg i s t link) (ht : t = 0) (h : Accepts i s)
    (htask : s.me.task ≠ none) (hlate : s.me.lates = []) (hbusy : endBusy s s.cur.1 s.cur.2 = false) : Ends i s (s.me.sreg 0) := by
  refine ends_of_endSelf hops he ?_ h htask hlate hbusy
  simp [ht, Option.isSome_iff_ne_none, htask]
end

/-! join (R179). -/

/-- No link carries an access to the own SRAM. -/
theorem linkDown_sramPa (s : State) (b space va c : Nat) {ea : Nat} (h : ea < Config.sramBytes) : s.linkDown b space va (sramPa c ea) = false := by
  have hne (n : Nat) (hn : 0 < n) (hc : paClass (sramPa c ea) = n) : decide (sramPa c ea < 2 ^ 52) = false :=
    decide_eq_false fun hlt => not_class_sramPa h hn ⟨hc, hlt⟩
  unfold State.linkDown
  split
  · rename_i hc
    rw [hne 2 (by decide) hc, Bool.false_and]
  · rename_i hc
    rw [hne 3 (by decide) hc, Bool.false_and]
  · rename_i hc
    rw [hne 5 (by decide) hc, Bool.false_and]
  · rw [Bool.and_false]

/-- A double of the own SRAM as readHome answers it. -/
theorem readHome_here {s : State} {ea : Word} (n : Need) (seq : BitVec 32) (hal : ea.toNat % 8 = 0) (h : ReadsHere s ea) :
    readHome s 0 ea 8 n seq = .ok (s.bytes (s.hereAt ea) 8, s) := by
  obtain ⟨hlt, hans, hown, hline, hpoison⟩ := h
  have hea : ea.toNat < Config.sramBytes := by omega
  have hclass := not_class_sramPa (b := s.cur.1) hea (c := 4) (by decide)
  have hbad : s.readBad s.cur.1 s.me.space ea.toNat (s.hereAt ea) 8 = false := by
    rw [State.readBad, hpoison, State.hereAt, linkDown_sramPa _ _ _ _ _ hea, Bool.or_self]
  unfold State.hereAt at hline hbad
  simp only [readHome, reach_local n seq hans hal hea, localPlace, bind, Except.bind, hline, hown, if_neg hclass, homeWait, homeReady_sramPa s hea, hbad,
    Bool.false_eq_true, and_false, or_self, if_false, if_true, State.hereAt]

theorem readsHere_modMe_id {s : State} {ea : Word} (h : ReadsHere s ea) : ReadsHere (s.modMe id) ea := by
  obtain ⟨hlt, hans, hown, hline, hpoison⟩ := h
  exact ⟨hlt, by rw [State.answer_modMe_id, hans], by rw [State.ownBusy_modMe_id, hown],
    by rw [State.lineBusy_modMe_id, State.me_modMe_id]; exact hline, hpoison⟩

theorem joinRead_here {s : State} {v : Word} (hal : v.toNat % 8 = 0) (hg : gate s 0 = .ok ()) (h : ReadsHere s v) :
    joinRead s v = if s.num (s.hereAt v) 8 = 0 then .ok s else .error (.block s (.join v)) := by
  obtain ⟨-, hans, -⟩ := id h
  simp only [joinRead, hg, hans, hal, readHome_here needLoad 0 hal h, bind, Except.bind, State.num, ne_eq, not_true, if_false]
  rfl

section
variable {s : State} {a : Src} (hops : s.me.ops = [])
include hops

theorem join_completes (h : Accepts (.join a) s) (hv : s.src1 a = 0 ∨ joinRead (s.modMe id) (s.src1 a) = .ok (s.modMe id)) :
    Completes (.join a) s ((s.modMe id).modHere Brick.rrbClear) := by
  rw [Completes, exec_join]
  refine run_ok h ?_
  dsimp only
  rw [closing_of_no_ops hops]
  rcases hv with hv | hv <;> simp [bind, Except.bind, hv]

theorem join_blocks (h : Accepts (.join a) s) (hv : s.src1 a ≠ 0) {r : BlockOn}
    (hr : joinRead (s.modMe id) (s.src1 a) = .error (.block (s.modMe id) r)) : exec (.join a) s = .next ((s.modMe id).blockOn r) := by
  rw [exec_join]
  refine run_block h ?_
  dsimp only
  rw [closing_of_no_ops hops]
  simp only [bind, Except.bind, if_neg hv, hr]
end

theorem join_effect (s : State) : ((s.modMe id).modHere Brick.rrbClear).here.rrb = [] ∧ ((s.modMe id).modHere Brick.rrbClear).me.s = s.me.s ∧
    ((s.modMe id).modHere Brick.rrbClear).mem = s.mem := by
  rw [State.here_modHere, State.me_modHere_of _ Brick.rrbClear fun _ => rfl, State.me_modMe_id]
  exact ⟨rfl, rfl, rfl⟩

/-! spawn.g (R182). -/

section
variable {s s' : State} {d : BitVec 4} {a : Src} {l : List Byte} (h : Accepts (.spawnG d a) s) (hal : (s.src1 a).toNat % 64 = 0)
  (hdr : s.creatorDrained = true) (hrec : readRec s 0 (s.src1 a) 64 64 needLoad 0 = .ok (l, s'))
include h hal hdr hrec

theorem spawnG_adds (hn : (s'.deviceQueue (dieOf s'.cur.1) s'.me.space).length < 64) :
    Completes (.spawnG d a) s (({ s' with launches := s'.launches ++ [spawned s' l] } : State).bumpId.setS d 0) := by
  rw [Completes, exec_spawnG]
  refine run_ok h ?_
  dsimp only
  rw [if_neg (by simp [hal]), if_neg (by simp [hdr]), hrec]
  exact if_neg (not_le.2 hn)

theorem spawnG_full (hn : 64 ≤ (s'.deviceQueue (dieOf s'.cur.1) s'.me.space).length) :
    Completes (.spawnG d a) s (s'.setS d (BitVec.allOnes 64)) := by
  rw [Completes, exec_spawnG]
  refine run_ok h ?_
  dsimp only
  rw [if_neg (by simp [hal]), if_neg (by simp [hdr]), hrec]
  exact if_pos hn
end

/-! migrate (R181). -/

/-- The moving strand's task has left in its frame for a brick (R238). -/
def State.departed (s : State) (t : Task) (dst : Nat) : State :=
  { (s.modMe fun x => { x.vacate s.cycle with fetchOwn := s.codeLog.length }) with frames := s.frames ++ [frameOf s t dst] }

theorem State.departed_me_task (s : State) (t : Task) (dst : Nat) : (s.departed t dst).me.task = none :=
  congrArg Strand.task (s.me_modMe fun x => { x.vacate s.cycle with fetchOwn := s.codeLog.length })

theorem frameOf_modMe_id (s : State) (t : Task) (dst : Nat) : frameOf (s.modMe id) t dst = frameOf s t dst := by
  rw [frameOf, State.me_modMe_id, ← frameOf]

section
variable {s : State} {a : Src}

theorem migrate_refused (h : Accepts (.migrate a) s) (hr : migrateRefused s = true) : Traps (.migrate a) s .migrateWithAcc := by
  rw [Traps, exec_migrate]
  exact runRaw_trap h (if_pos hr)

theorem migrate_of_sramHome {dst : Nat} {s' u : State} (h : Accepts (.migrate a) s) (hr : migrateRefused s = false)
    (hd : sramHome s 0 (s.src1 a) false = .ok (some (dst, s'))) (hm : migrateTo s' dst = .ok u) : exec (.migrate a) s = .next u := by
  rw [exec_migrate]
  refine runRaw_ok h ?_
  rw [if_neg (by simp [hr]), hd]
  exact hm

/-- A task that migrates to another brick leaves in its frame, and all its chains (R181, R238, R281). -/
theorem migrateTo_away {dst : Nat} {t : Task} (hops : s.me.ops = []) (hu : s.me.unacked = 0) (ht : s.me.task = some t) (hne : dst ≠ s.cur.1) :
    migrateTo s dst = .ok (chainLeft ((s.modMe id).departed t dst) s.cur.1 t) := by
  rw [migrateTo, closing_of_no_ops hops]
  simp only [bind, Except.bind, State.me_modMe_id, hu, ht, State.modMe_cur, hne, ne_eq, not_true, if_false]
  rfl

/-- A task that migrates to its own brick goes on there, its bindings gone (R181). -/
theorem migrateTo_own {t : Task} (hops : s.me.ops = []) (hu : s.me.unacked = 0) (ht : s.me.task = some t) :
    ∃ u, migrateTo s s.cur.1 = .ok u ∧ u.me.pc = s.me.pc + 4 ∧ u.me.s = s.me.s ∧ u.me.bindtab = 0 ∧ u.here.rrb = [] ∧
      u.me.task = some t ∧ u.mem = s.mem := by
  have hadv : (advance (s.modMe id)).me = _ := advanceTo_me_of_no_ops (by rw [State.me_modMe_id]; exact hops) _
  rw [migrateTo, closing_of_no_ops hops]
  simp only [bind, Except.bind, State.me_modMe_id, hu, ht, State.modMe_cur, ne_eq, not_true, if_false, if_true]
  refine ⟨_, rfl, ?_⟩
  rw [State.here_modHere, State.me_modHere_of _ Brick.rrbClear fun _ => rfl, State.bumpFree_me, State.me_modMe]
  obtain ⟨v, p, hv⟩ := undefVectors_keeps
    { (advance (s.modMe id)).me with
      bindtab := 0, bufbase := (s.modMe id).bufDefault t.launch s.cur.2, fetchOwn := (s.modMe id).codeLog.length } (s.modMe id).free
  rw [hv, hadv, State.me_modMe_id]
  exact ⟨rfl, rfl, rfl, rfl, ht, rfl⟩
end

/-- Settles O27: a task ends through endTask, waits at its counter, spawns a launch, or leaves in its frame. -/
theorem tasksJoinSpawnMigrateAndEnd : Obligations.TasksJoinSpawnMigrateAndEnd := by
  unfold Obligations.TasksJoinSpawnMigrateAndEnd
  refine ⟨fun s d r a hops => ⟨fun h hv => ⟨_, join_completes hops h (.inl hv), join_effect s⟩,
    fun h hv hal hg hr => ⟨fun hz => ⟨_, join_completes hops h (.inr ?zero), join_effect s⟩, fun hnz => ?blocks⟩,
    ends_of_endSelf hops (exec_texit ..) rfl, ends_of_endSelf hops (exec_exit ..) rfl,
    ends_of_jumpReg hops (exec_jr ..), ends_of_jumpReg hops (exec_ret ..),
    fun l s' h hal hdr hrec => ⟨fun hn => ⟨_, _, spawnG_adds h hal hdr hrec hn, rfl, rfl, rfl, rfl, rfl⟩, spawnG_full h hal hdr hrec⟩⟩,
    fun s a t hops ht h => ⟨migrate_refused h, fun dst s' hr hd hme hne hu => ?away, fun hr hu ha hx => ?own⟩⟩
  case zero =>
    rw [joinRead_here hal (gate_modMe_id s hg) (readsHere_modMe_id hr)]
    exact if_pos ((s.num_modMe_id ..).trans hz)
  case blocks =>
    have hb : joinRead (s.modMe id) (s.src1 a) = .error (.block (s.modMe id) (.join (s.src1 a))) := by
      rw [joinRead_here hal (gate_modMe_id s hg) (readsHere_modMe_id hr)]
      exact if_neg fun hz => hnz ((s.num_modMe_id ..).symm.trans hz)
    refine ⟨_, join_blocks hops h hv hb, ?_⟩
    rw [State.blockOn, State.me_modMe, State.me_modMe_id]
    exact ⟨rfl, rfl, rfl⟩
  case away =>
    have hm := migrateTo_away (t := t) (hme ▸ hops) (hme ▸ hu) (hme ▸ ht) hne
    have hchain := sameTasks_chainLeft ((s'.modMe id).departed t dst) s'.cur.1 t
    have hnone := hchain.me_task.trans ((s'.modMe id).departed_me_task t dst)
    obtain ⟨-, -, hframes, -⟩ := hchain
    refine ⟨_, frameOf s' t dst, migrate_of_sramHome h hr hd hm, hframes.trans (by rw [← frameOf_modMe_id]; rfl), ?_⟩
    rw [frameOf, hme]
    exact ⟨rfl, rfl, rfl, rfl, rfl, rfl, rfl, hnone⟩
  case own =>
    have hd : sramHome s 0 (s.src1 a) false = .ok (some (s.cur.1, s)) := by rw [sramHome, ha]; exact if_pos hx
    obtain ⟨u, hm, hu⟩ := migrateTo_own hops hu ht
    exact ⟨u, migrate_of_sramHome h hr hd hm, hu⟩

end Sys2Proof.Machine
end

section
/-! SUPPORT. Accesses of an instruction to the own SRAM: loads, stores and atomics at home, and the statements about them. -/

open Sys2Proof Sys2Proof.Machine

namespace Sys2Proof.Machine

/-! What a write kept for fetch leaves alone (R91). -/

section
variable (s : State) (b k space pa n : Nat) (kd ac : Nat) (d : Word)

/-- A write that is kept for fetch changes the log, and the lines that far memory's home caches hold. -/
theorem noteBy_eq : noteBy s b k space pa n =
    { s with codeLog := (noteBy s b k space pa n).codeLog, extents := (noteBy s b k space pa n).extents } := by
  simp only [noteBy, State.touchFar]
  split <;> rfl

@[simp] theorem noteBy_bricks : (noteBy s b k space pa n).bricks = s.bricks := by rw [noteBy_eq]
@[simp] theorem noteBy_mem : (noteBy s b k space pa n).mem = s.mem := by rw [noteBy_eq]
@[simp] theorem noteBy_nextId : (noteBy s b k space pa n).nextId = s.nextId := by rw [noteBy_eq]
@[simp] theorem noteBy_me : (noteBy s b k space pa n).me = s.me := by rw [noteBy_eq]; rfl
@[simp] theorem noteBy_here : (noteBy s b k space pa n).here = s.here := by rw [noteBy_eq]; rfl
@[simp] theorem noteBy_strand (c : Nat) (j : Fin 5) : (noteBy s b k space pa n).strand c j = s.strand c j := by rw [noteBy_eq]; rfl
@[simp] theorem noteBy_inDeque (a : Nat) : (noteBy s b k space pa n).inDeque a = s.inDeque a := by rw [noteBy_eq]; rfl
@[simp] theorem noteBy_byte (a : Nat) : (noteBy s b k space pa n).byte a = s.byte a := by rw [noteBy_eq]; rfl
@[simp] theorem noteBy_num (a m : Nat) : (noteBy s b k space pa n).num a m = s.num a m := by rw [noteBy_eq]; rfl
@[simp] theorem noteBy_readPoison (a m : Nat) : (noteBy s b k space pa n).readPoison a m = s.readPoison a m := by rw [noteBy_eq]; rfl
@[simp] theorem noteBy_soft (a : Nat) (l : List (Option Byte)) : (noteBy s b k space pa n).soft a l = s.soft a l := by rw [noteBy_eq]; rfl

end

/-! Values of loaded bytes (R110). -/

theorem leNat_lt (l : List Byte) : leNat l < 256 ^ l.length := by
  induction l with
  | nil => exact Nat.one_pos
  | cons v t ih =>
    have hv : v.toNat < 256 := v.isLt
    rw [leNat, List.length_cons, Nat.pow_succ]
    omega

theorem State.num_lt (s : State) (pa n : Nat) : s.num pa n < 2 ^ (8 * n) := by
  have h := leNat_lt (s.bytes pa n)
  rw [State.bytes, List.length_map, List.length_range] at h
  rwa [Nat.pow_mul]

theorem extend_unsigned {n x : Nat} (h : x < 2 ^ (8 * n)) : extend n false x = BitVec.ofNat 64 x := by
  rw [extend, if_neg Bool.false_ne_true, Nat.mod_eq_of_lt h]
theorem extend_signed {n w : Nat} (hw : 8 * n = w) (x : Nat) : extend n true x = (BitVec.ofNat w x).signExtend 64 := by
  rw [extend, if_pos rfl, hw, toS_eq_toInt, BitVec.signExtend]

/-! Loads from the local window (R110, R111). -/

section
variable {s : State} {ea : Word} {n : Nat}

@[simp] theorem State.hereAt_traceMe (kd ac : Nat) (d : Word) : (s.traceMe kd ac d).hereAt ea = s.hereAt ea := rfl

/-- A load from the own SRAM delivers its bytes at once. -/
theorem loadAt_here (ord off : Nat) (home : Bool) (cls : Access) (seq : BitVec 32) (hea : ea.toNat < Config.sramBytes) (hown : s.ownBusy = false)
    (hp : s.readPoison (s.hereAt ea) n = false) :
    loadAt s ord ea (localPlace s.cur.1 ea.toNat) n off home cls seq = .ok (.now (s.bytes (s.hereAt ea) n) s) := by
  have hclass := not_class_sramPa (b := s.cur.1) hea (c := 4) (by decide)
  unfold State.hereAt at hp ⊢
  simp only [loadAt, localPlace, if_neg hclass, homeHere_sramPa s.cur.1 ea.toNat hea, hown, hp, Bool.false_eq_true, if_false, if_true]

theorem loadBody_here {d b L : BitVec 4} {o : BitVec 11} (sg : Bool) (h : FreeLocal s (s.mAddr b o n) n)
    (hp : s.readPoison (s.hereAt (s.mAddr b o n)) n = false) : loadBody n sg d b o L s =
      .ok ((s.traceMe 3 0 (s.mAddr b o n)).loaded L d (extend n sg (s.num (s.hereAt (s.mAddr b o n)) n))) := by
  obtain ⟨⟨hgate, hans, hal⟩, hea, hown⟩ := h
  have hload := loadAt_here (s := s.traceMe 3 0 (s.mAddr b o n)) (ea := s.mAddr b o n) (n := n) 0 0 (s.traceMe 3 0 (s.mAddr b o n)).me.home .load 0 hea
    (by simpa using hown) (by simpa using hp)
  simp only [State.traceMe_cur, State.bytes_traceMe] at hload
  rw [loadBody, hgate]
  simp only [bind, Except.bind]
  rw [← State.mAddr, reach_local _ _ hans hal hea]
  simp only [hload]
  rfl
end

section
variable {i : Instr} {s : State} {n : Nat} {sg : Bool} {d b L : BitVec 4} {o : BitVec 11}

/-- A load of the local window completes with its result under its window. -/
theorem load_here (he : exec i s = run i s (loadBody n sg d b o L)) (ha : Accepts i s) (h : FreeLocal s (s.mAddr b o n) n)
    (hp : s.readPoison (s.hereAt (s.mAddr b o n)) n = false) :
    Completes i s ((s.traceMe 3 0 (s.mAddr b o n)).loaded L d (extend n sg (s.num (s.hereAt (s.mAddr b o n)) n))) := by
  rw [Completes, he]
  exact run_ok ha (loadBody_here sg h hp)

theorem load_here_unsigned (he : exec i s = run i s (loadBody n false d b o L)) (ha : Accepts i s) (h : FreeLocal s (s.mAddr b o n) n)
    (hp : s.readPoison (s.hereAt (s.mAddr b o n)) n = false) :
    Completes i s ((s.traceMe 3 0 (s.mAddr b o n)).loaded L d (BitVec.ofNat 64 (s.num (s.hereAt (s.mAddr b o n)) n))) := by
  rw [← extend_unsigned (s.num_lt _ n)]
  exact load_here he ha h hp

theorem load_here_signed {w : Nat} (he : exec i s = run i s (loadBody n true d b o L)) (hw : 8 * n = w) (ha : Accepts i s)
    (h : FreeLocal s (s.mAddr b o n) n) (hp : s.readPoison (s.hereAt (s.mAddr b o n)) n = false) :
    Completes i s ((s.traceMe 3 0 (s.mAddr b o n)).loaded L d ((BitVec.ofNat w (s.num (s.hereAt (s.mAddr b o n)) n)).signExtend 64)) := by
  rw [← extend_signed hw]
  exact load_here he ha h hp
end

/-- Settles O7: every load is loadBody at a width, its value extended from that width. -/
theorem localLoadsDeliverTheBytesExtended : Obligations.LocalLoadsDeliverTheBytesExtended := by
  unfold Obligations.LocalLoadsDeliverTheBytesExtended
  intro s d b o l
  exact ⟨load_here_unsigned (exec_ldB s d b o l), load_here_unsigned (exec_ldH s d b o l), load_here_unsigned (exec_ldW s d b o l),
    load_here_unsigned (exec_ldD s d b o l), load_here_signed (exec_ldBs s d b o l) rfl, load_here_signed (exec_ldHs s d b o l) rfl,
    load_here_signed (exec_ldWs s d b o l) rfl⟩

/-! Atomics on the own SRAM (R119, R120). -/

section
variable (s : State) (pa n x : Nat)

@[simp] theorem State.writeOpt_nextId (l : List (Option Byte)) : (s.writeOpt pa l).nextId = s.nextId := by rw [State.writeOpt_eq]
@[simp] theorem State.softNum_bricks : (s.softNum pa n x).bricks = s.bricks := s.writeOpt_bricks pa _
@[simp] theorem State.softNum_cur : (s.softNum pa n x).cur = s.cur := s.writeOpt_cur pa _
@[simp] theorem State.softNum_nextId : (s.softNum pa n x).nextId = s.nextId := s.writeOpt_nextId pa _
@[simp] theorem State.softNum_me : (s.softNum pa n x).me = s.me := by simp only [State.me, State.strand, State.brick, State.softNum_bricks, State.softNum_cur]
end

/-- The operation of a result that is there takes its number and its strand from any state that agrees on them. -/
theorem State.loaded_eq {s t : State} (hm : t.me = s.me) (hn : t.nextId = s.nextId) (L d : BitVec 4) (v : Word) :
    t.loaded L d v = t.addOp { (newOp s L .plain none) with done := true, commit := ⟨some (d, v), [], false⟩ } := by
  rw [State.loaded, newOp, hm, hn, ← newOp]

/-- What an atomic makes of an old value of its width (R120). -/
theorem Amo.apply_of_lt (a : Amo) {x : Nat} (h : x < 2 ^ (8 * a.n)) : a.apply x = match a.op with
    | .add => (x + a.v) % 2 ^ (8 * a.n)
    | .xchg => a.v
    | .cas => if x = a.e then a.v else x
    | .min => if toS x (8 * a.n) ≤ toS a.v (8 * a.n) then x else a.v
    | .max => if toS x (8 * a.n) < toS a.v (8 * a.n) then a.v else x
    | .and => x &&& a.v
    | .or => x ||| a.v
    | .xor => x ^^^ a.v := by
  obtain ⟨op, n, v, e⟩ := a
  cases op <;> simp only [Amo.apply, Nat.mod_eq_of_lt h]

section
variable {s : State} {op : AmoOp} {d b v : BitVec 4} {x : BitVec 3} {o L : BitVec 4} (h : FreeLocal s (s.me.sreg b) (amoOf s op d v o).n)
  (hret : o.getLsbD 3 = false) (hdrain : o.getLsbD 1 = false ∨ x = 0 ∨ s.me.unacked = 0)
  (hd : s.inDeque (s.hereAt (s.me.sreg b)) = false) (hp : s.readPoison (s.hereAt (s.me.sreg b)) (amoOf s op d v o).n = false)
include h hret hdrain hd hp

/-- An atomic that returns, on the own SRAM: the old value under the window, the new one in memory. -/
theorem amoBody_here : amoBody op d b v x o L s =
    let pa := s.hereAt (s.me.sreg b)
    let a := amoOf s op d v o
    .ok (((noteCode (s.traceMe 3 2 (s.me.sreg b)) s.cur.1 s.cur.2 pa a.n).softNum pa a.n (a.apply (s.num pa a.n))).loaded L d
      (BitVec.ofNat 64 (s.num pa a.n))) := by
  obtain ⟨⟨hgate, hans, hal⟩, hea, hown⟩ := h
  have hclass := not_class_sramPa (b := s.cur.1) hea (c := 4) (by decide)
  have hwait : ¬(o.getLsbD 1 = true ∧ x ≠ 0 ∧ s.me.unacked ≠ 0) := by
    rintro ⟨h1, h2, h3⟩
    rcases hdrain with h | h | h
    · rw [h] at h1; cases h1
    · exact h2 h
    · exact h3 h
  unfold State.hereAt at hd hp
  rw [amoBody, hgate]
  simp only [bind, Except.bind, hal, reach_local needAtomic 0 hans hal hea, localPlace, State.traceMe_cur, State.ownBusy_traceMe, State.inDeque_traceMe,
    State.readPoison_traceMe, homeHere_sramPa s.cur.1 _ hea, hown, hd, hp, hret, if_neg hclass, if_neg hwait, ne_eq, not_true, Bool.false_eq_true,
    if_false, if_true, amoStep, noteCode, noteBy_num, State.num_traceMe]
  rw [State.loaded_eq (s := s.traceMe 3 2 (s.me.sreg b)) (by simp) (by simp)]
  rfl

theorem amo_here {i : Instr} {w : Nat} (he : exec i s = run i s (amoBody op d b v x o L)) (ha : Accepts i s)
    (hw : (amoOf s op d v o).apply (s.num (s.hereAt (s.me.sreg b)) (amoOf s op d v o).n) = w) :
    Completes i s (((noteCode (s.traceMe 3 2 (s.me.sreg b)) s.cur.1 s.cur.2 (s.hereAt (s.me.sreg b)) (amoOf s op d v o).n).softNum
      (s.hereAt (s.me.sreg b)) (amoOf s op d v o).n w).loaded L d (BitVec.ofNat 64 (s.num (s.hereAt (s.me.sreg b)) (amoOf s op d v o).n))) := by
  rw [Completes, he, ← hw]
  exact run_ok ha (amoBody_here h hret hdrain hd hp)
end

/-- Settles O12: every atomic is amoBody, and the old value is one of its width. -/
theorem localAtomicsStepIndivisibly : Obligations.LocalAtomicsStepIndivisibly := by
  unfold Obligations.LocalAtomicsStepIndivisibly
  intro s d b v x o l ea pa n old y e gives
  have hold (op : AmoOp) : (amoOf s op d v o).apply old = _ := (amoOf s op d v o).apply_of_lt (s.num_lt pa n)
  have hgives {i : Instr} {op : AmoOp} (he : exec i s = run i s (amoBody op d b v x o l)) {w : Nat} (hw : (amoOf s op d v o).apply old = w) :
      gives i w := fun ha h hret hdrain hd hp => amo_here h hret hdrain hd hp he ha hw
  exact ⟨hgives (exec_amoAdd ..) (hold .add), hgives (exec_amoXchg ..) (hold .xchg), hgives (exec_amoCas ..) (hold .cas),
    hgives (exec_amoMin ..) (hold .min), hgives (exec_amoMax ..) (hold .max), hgives (exec_amoAnd ..) (hold .and),
    hgives (exec_amoOr ..) (hold .or), hgives (exec_amoXor ..) (hold .xor)⟩

/-! Stores to the own SRAM (R113, R31). -/

section
variable {s : State} {ea : Word} {n len : Nat} {act : FAct} {access : Access}

theorem storeAccess_misaligned (hgate : gate s 0 = .ok ()) (hans : s.answer 0 ea = some ea) (hal : ea.toNat % n ≠ 0) :
    storeAccess s 0 ea n len act access = .error (.trap .misaligned) := by
  rw [storeAccess, hgate]
  simp only [bind, Except.bind, hans, if_pos hal]

/-- A store-like access to the own SRAM is performed, or dropped and reported, as its instruction executes. -/
theorem storeAccess_here (h : FreeLocal s ea n) : storeAccess s 0 ea n len act access =
    match performAct (noteCode s s.cur.1 s.cur.2 (s.hereAt ea) len) (s.hereAt ea) act with
    | .ok t => .ok (t.traceMe 3 access.num ea)
    | .error c => .ok ((s.traceMe 3 access.num ea).report s.cur.1 s.cur.2 s.me.space c access s.me.pc ea 0) := by
  obtain ⟨⟨hgate, hans, hal⟩, hea, hown⟩ := h
  have hlow : ¬2 ^ 57 ≤ ea.toNat := by unfold Config.sramBytes at hea; omega
  rw [storeAccess, hgate]
  simp only [bind, Except.bind, hans, hal, if_neg hlow, if_pos hea, hown, ne_eq, not_true, Bool.false_eq_true, if_false]
  rfl

theorem storeAccess_here_ok {t : State} (h : FreeLocal s ea n)
    (hact : performAct (noteCode s s.cur.1 s.cur.2 (s.hereAt ea) len) (s.hereAt ea) act = .ok t) :
    storeAccess s 0 ea n len act access = .ok (t.traceMe 3 access.num ea) := by rw [storeAccess_here h, hact]

/-- A store-like access to the deque's region of the own SRAM is dropped and reported (R31). -/
theorem storeAccess_here_deque (h : FreeLocal s ea n) (hd : s.inDeque (s.hereAt ea) = true) : storeAccess s 0 ea n len act access =
    .ok ((s.traceMe 3 access.num ea).report s.cur.1 s.cur.2 s.me.space .rights access s.me.pc ea 0) := by
  have hact : performAct (noteCode s s.cur.1 s.cur.2 (s.hereAt ea) len) (s.hereAt ea) act = .error .rights := by
    cases act <;> simp [performAct, noteCode, hd]
  rw [storeAccess_here h, hact]

theorem performAct_write {l : List (Option Byte)} {pa : Nat} (hd : s.inDeque pa = false) :
    performAct s pa (.write l) = .ok (s.writeOpt pa (s.soft pa l)) := by simp [performAct, hd]
end

/-- A brick that runs no chain holds no CTRL that a store must keep (R196). -/
theorem State.soft_of_no_chains {s : State} {pa : Nat} (h : (s.brick (paBrick pa)).chains = []) (l : List (Option Byte)) : s.soft pa l = l := by
  simp [State.soft, h]

/-- The brick of an address in its SRAM (R36). -/
theorem paBrick_sramPa {b ea : Nat} (h : ea < Config.sramBytes) : paBrick (sramPa b ea) = b ∨ 2 ^ 52 ≤ sramPa b ea := by
  unfold Config.sramBytes at h
  unfold paBrick sramPa bits
  split
  · left; omega
  · right; omega

/-- A store to the own SRAM of a brick that runs no chain writes every byte. -/
theorem softNum_here_of_no_chains {s : State} {ea : Word} (n : Nat) (h : s.here.chains = []) (hea : ea.toNat < Config.sramBytes) :
    s.softNum (s.hereAt ea) n = s.writeNum (s.hereAt ea) n := by
  funext x
  have hsoft : s.soft (s.hereAt ea) ((leBytes n x).map some) = (leBytes n x).map some := by
    rcases paBrick_sramPa (b := s.cur.1) hea with hb | hb
    · exact State.soft_of_no_chains (by rw [State.hereAt, hb]; exact h) _
    · rw [State.soft]
      exact if_pos (.inr (.inl hb))
  rw [State.softNum, hsoft, State.writeNum, State.write]

theorem softNum_noteCode_of_no_chains {s : State} {ea : Word} {n : Nat} (h : FreeLocal s ea n) (hc : s.here.chains = []) :
    (noteCode s s.cur.1 s.cur.2 (s.hereAt ea) n).softNum (s.hereAt ea) n = (noteCode s s.cur.1 s.cur.2 (s.hereAt ea) n).writeNum (s.hereAt ea) n := by
  obtain ⟨-, hea, -⟩ := h
  have hcur : (noteCode s s.cur.1 s.cur.2 (s.hereAt ea) n).cur = s.cur := noteBy_cur ..
  have hat : (noteCode s s.cur.1 s.cur.2 (s.hereAt ea) n).hereAt ea = s.hereAt ea := by rw [State.hereAt, hcur, ← State.hereAt]
  have hchains : (noteCode s s.cur.1 s.cur.2 (s.hereAt ea) n).here.chains = [] := by rw [noteCode, noteBy_here, hc]
  have hsoft := softNum_here_of_no_chains n hchains hea
  rwa [hat] at hsoft

section
variable {i : Instr} {s : State} {n : Nat} {d b : BitVec 4} {o : BitVec 11} (he : exec i s = run i s (storeBody n d b o)) (ha : Accepts i s)
include he ha

theorem store_misaligned (hgate : gate s 0 = .ok ()) (hans : s.answer 0 (s.mAddr b o n) = some (s.mAddr b o n))
    (hal : (s.mAddr b o n).toNat % n ≠ 0) : Traps i s .misaligned := by
  rw [Traps, he]
  exact run_trap ha (storeAccess_misaligned hgate hans hal)

theorem store_here (h : FreeLocal s (s.mAddr b o n) n) (hd : s.inDeque (s.hereAt (s.mAddr b o n)) = false) :
    Completes i s (((noteCode s s.cur.1 s.cur.2 (s.hereAt (s.mAddr b o n)) n).softNum (s.hereAt (s.mAddr b o n)) n
      (s.me.sreg d).toNat).traceMe 3 1 (s.mAddr b o n)) := by
  rw [Completes, he]
  exact run_ok ha (storeAccess_here_ok h (performAct_write (by rw [noteCode, noteBy_inDeque]; exact hd)))

theorem store_here_deque (h : FreeLocal s (s.mAddr b o n) n) (hd : s.inDeque (s.hereAt (s.mAddr b o n)) = true) :
    Completes i s ((s.traceMe 3 1 (s.mAddr b o n)).report s.cur.1 s.cur.2 s.me.space .rights .store s.me.pc (s.mAddr b o n) 0) := by
  rw [Completes, he]
  exact run_ok ha (storeAccess_here_deque h hd)
end

/-! What a store leaves alone until it completes. -/

/-- Whose turn it is, the strands, and the accumulator and tasks of every brick do not differ. -/
def State.SameCores (s t : State) : Prop :=
  t.cur = s.cur ∧ ∀ c, (t.brick c).strands = (s.brick c).strands ∧ (t.brick c).acc = (s.brick c).acc ∧ (t.brick c).tasks = (s.brick c).tasks

section
variable {s t u : State}

theorem State.SameCores.trans (h : s.SameCores t) (g : t.SameCores u) : s.SameCores u := by
  obtain ⟨hc, hb⟩ := h
  obtain ⟨gc, gb⟩ := g
  refine ⟨gc.trans hc, fun c => ?_⟩
  obtain ⟨h1, h2, h3⟩ := hb c
  obtain ⟨g1, g2, g3⟩ := gb c
  exact ⟨g1.trans h1, g2.trans h2, g3.trans h3⟩

theorem sameCores_of_bricks (hb : t.bricks = s.bricks) (hc : t.cur = s.cur) : s.SameCores t :=
  ⟨hc, fun c => by simp only [State.brick, hb, and_self]⟩

theorem sameCores_record (s : State) (b : Nat) (e : TraceEntry) (g : Brick → Bool) : s.SameCores (s.modBrick b fun x => x.record e (g x)) :=
  ⟨rfl, fun c => ⟨s.field_modBrick b Brick.strands (fun x => by simp) c, s.field_modBrick b Brick.acc (fun x => by simp) c,
    s.field_modBrick b Brick.tasks (fun x => by simp) c⟩⟩

theorem sameCores_traceMe (s : State) (kd ac : Nat) (d : Word) : s.SameCores (s.traceMe kd ac d) := sameCores_record ..

/-- A fault message that sets out changes no brick, and memory as little. -/
theorem State.sendFault_bricks (s : State) (f : FaultMsg) : (s.sendFault f).bricks = s.bricks ∧ (s.sendFault f).mem = s.mem := by
  have hcount : (s.countRefusal f).bricks = s.bricks ∧ (s.countRefusal f).mem = s.mem := by
    unfold State.countRefusal
    split
    · exact ⟨rfl, rfl⟩
    · split <;> exact ⟨rfl, rfl⟩
  exact hcount

theorem sameCores_report (s : State) (b k space : Nat) (c : Code) (a : Access) (pc addr : Word) (seq : BitVec 32) :
    s.SameCores (s.report b k space c a pc addr seq) :=
  (sameCores_record ..).trans (sameCores_of_bricks (State.sendFault_bricks _ _).1 (State.sendFault_frame _ _).1)

@[simp] theorem State.report_mem (s : State) (b k space : Nat) (c : Code) (a : Access) (pc addr : Word) (seq : BitVec 32) :
    (s.report b k space c a pc addr seq).mem = s.mem := (State.sendFault_bricks _ _).2

theorem State.SameCores.strand (h : s.SameCores t) (c : Nat) (k : Fin 5) : t.strand c k = s.strand c k := by
  obtain ⟨-, hb⟩ := h
  simp only [State.strand, Brick.strand, (hb c).1]
theorem State.SameCores.me (h : s.SameCores t) : t.me = s.me := by
  rw [State.me, h.1]
  exact h.strand ..
theorem State.SameCores.inDeque (h : s.SameCores t) (pa : Nat) : t.inDeque pa = s.inDeque pa := by
  obtain ⟨-, hb⟩ := h
  simp only [State.inDeque, (hb _).2.2]

theorem State.inDeque_advance (s : State) (pa : Nat) : (advance s).inDeque pa = s.inDeque pa := by
  have ht : ((advance s).brick (paBrick pa)).tasks = (s.brick (paBrick pa)).tasks := s.field_modMe _ Brick.tasks (fun _ => rfl) _
  simp only [State.inDeque, ht]

theorem State.byte_of_not_inDeque {a : Nat} (h : s.inDeque a = false) : s.byte a = cellAt s.mem a := by simp [State.byte, h]

/-- What an instruction leaves as it was that changes nothing of the cores before it completes. -/
theorem State.SameCores.frame_of_advance (h : s.SameCores t) (hops : s.me.ops = []) :
    (∀ a, cellAt t.mem a = cellAt s.mem a → s.inDeque a = false → (advance t).byte a = s.byte a) ∧
      (advance t).me.s = s.me.s ∧ (advance t).me.v = s.me.v ∧ (advance t).me.p = s.me.p ∧ (advance t).me.fpstat = s.me.fpstat ∧
      (advance t).here.acc = s.here.acc ∧ ∀ c k, (c, k) ≠ s.cur → (advance t).strand c k = s.strand c k := by
  have hme : (advance t).me = _ := advanceTo_me_of_no_ops (h.me ▸ hops) _
  rw [h.me] at hme
  have hacc : (advance t).here.acc = t.here.acc := t.field_modMe _ Brick.acc (fun _ => rfl) _
  rw [hme, hacc]
  refine ⟨fun a hm hd => ?byte, rfl, rfl, rfl, rfl, ?acc, fun c k hne => ?others⟩
  case byte =>
    have hdt : (advance t).inDeque a = false := by rw [State.inDeque_advance, h.inDeque, hd]
    rw [State.byte_of_not_inDeque hdt, State.byte_of_not_inDeque hd, advance_mem, hm]
  case acc =>
    obtain ⟨hc, hb⟩ := h
    rw [State.here, hc, (hb _).2.1, ← State.here]
  case others => rw [advance, advanceTo_strand_ne _ _ (h.1 ▸ hne), h.strand]
end

theorem State.length_soft (s : State) (pa : Nat) (l : List (Option Byte)) : (s.soft pa l).length = l.length := by
  unfold State.soft
  dsimp only
  split <;> simp

/-- A store by software writes the bytes of its range alone. -/
theorem cellAt_softNum_out {s : State} (hwf : Memory.wf s.mem = true) {pa n a : Nat} (x : Nat) (ha : a < pa ∨ pa + n ≤ a) :
    cellAt (s.softNum pa n x).mem a = cellAt s.mem a := by
  rw [State.softNum, State.writeOpt_eq]
  exact cellAt_poke_out hwf _ _ _ (by simpa [State.length_soft] using ha)

/-- The frame of a store to the local window. -/
theorem store_frame {i : Instr} {s : State} {n : Nat} {d b : BitVec 4} {o : BitVec 11} (he : exec i s = run i s (storeBody n d b o))
    (hwf : Memory.wf s.mem = true) (hops : s.me.ops = []) (ha : Accepts i s) (h : FreeLocal s (s.mAddr b o n) n) (t : State) (ht : exec i s = .next t) :
    (∀ a, (a < s.hereAt (s.mAddr b o n) ∨ s.hereAt (s.mAddr b o n) + n ≤ a) → s.inDeque a = false → t.byte a = s.byte a) ∧
      t.me.s = s.me.s ∧ t.me.v = s.me.v ∧ t.me.p = s.me.p ∧ t.me.fpstat = s.me.fpstat ∧ t.here.acc = s.here.acc ∧
      ∀ c k, (c, k) ≠ s.cur → t.strand c k = s.strand c k := by
  have key : ∃ u, s.SameCores u ∧ t = advance u ∧
      ∀ a, (a < s.hereAt (s.mAddr b o n) ∨ s.hereAt (s.mAddr b o n) + n ≤ a) → cellAt u.mem a = cellAt s.mem a := by
    cases hd : s.inDeque (s.hereAt (s.mAddr b o n)) with
    | false =>
      refine ⟨_, ?_, Host.Outcome.next.inj (ht.symm.trans (store_here he ha h hd)), fun a hout => ?_⟩
      · exact (sameCores_of_bricks (by simp [noteCode]) (by simp [noteCode, noteBy_cur])).trans (sameCores_traceMe ..)
      · rw [State.traceMe_mem, cellAt_softNum_out (by simpa [noteCode] using hwf) _ hout]
        simp [noteCode]
    | true =>
      exact ⟨_, (sameCores_traceMe ..).trans (sameCores_report ..), Host.Outcome.next.inj (ht.symm.trans (store_here_deque he ha h hd)), fun a _ => by simp⟩
  obtain ⟨u, hu, rfl, hmem⟩ := key
  obtain ⟨hbyte, hregs⟩ := hu.frame_of_advance hops
  exact ⟨fun a hout hd => hbyte a (hmem a hout) hd, hregs⟩

/-- Settles O10: every store is storeBody at a width, and storeBody is one store-like access. -/
theorem localStoresWriteTheirBytesAlone : Obligations.LocalStoresWriteTheirBytesAlone := by
  unfold Obligations.LocalStoresWriteTheirBytesAlone
  refine ⟨fun s d b o => ?stores, fun s d b o hwf hops => ⟨store_frame (exec_stB s d b o) hwf hops, store_frame (exec_stH s d b o) hwf hops,
    store_frame (exec_stW s d b o) hwf hops, store_frame (exec_stD s d b o) hwf hops⟩⟩
  intro stores
  have hstores {i : Instr} {n : Nat} (he : exec i s = run i s (storeBody n d b o)) : stores i n := fun ha hgate hans =>
    ⟨store_misaligned he ha hgate hans, fun h hd => ⟨store_here he ha h hd, softNum_noteCode_of_no_chains h⟩, store_here_deque he ha⟩
  exact ⟨hstores (exec_stB s d b o), hstores (exec_stH s d b o), hstores (exec_stW s d b o), hstores (exec_stD s d b o)⟩

end Sys2Proof.Machine
end

section
/-! SUPPORT. Ownership regions: the region at hand as a transfer to the processor begins and ends at once. -/

open Sys2Proof Sys2Proof.Machine

namespace Sys2Proof.Machine

/-- The machine one cycle after reset, the host attached: the accelerator owns every region of HBM, and nothing is under way. -/
def State.attached : State := { State.reset with hostUp := true, cycle := 1 }

/-- A transfer to the processor that ends as it begins leaves in the region the cycle in which it began (R318). -/
theorem began_of_transferToP : ∃ t, exec (.ownershipTransferToP (2 ^ 48)) State.attached = .next t ∧ (t.regionAt (2 ^ 48)).began = 1 :=
  ⟨_, rfl, by decide⟩

/-- Refutes O47: of a region that changes hands at once the statement asks that nothing but its owner, its flags and its hold differ, and
the model also records when the transfer began. One cycle after reset a host access to the region at 2^48 moves it so: began is 0 before and 1
after. -/
theorem not_regionsMoveAndHostAccessesComplete : ¬ Obligations.RegionsMoveAndHostAccessesComplete := by
  unfold Obligations.RegionsMoveAndHostAccessesComplete
  rintro ⟨hregions, -⟩
  obtain ⟨-, -, -, htoP, -⟩ := hregions State.attached (2 ^ 48)
  obtain ⟨hfree, -⟩ := htoP (by decide) (by decide) (by decide) rfl
  obtain ⟨hgone, -⟩ := hfree rfl
  obtain ⟨t, ht, hregion, -⟩ := hgone (by decide)
  obtain ⟨u, hu, hbegan⟩ := began_of_transferToP
  obtain rfl : t = u := Host.Outcome.next.inj (ht.symm.trans hu)
  have hkept : (t.regionAt (2 ^ 48)).began = 0 := by rw [hregion]; rfl
  exact absurd (hkept.symm.trans hbegan) (by decide)

end Sys2Proof.Machine
end

section
/-! SUPPORT. Fault replies: their verdicts, whom they reach, and the statement about them. -/

open Sys2Proof Sys2Proof.Machine

namespace Sys2Proof.Machine

/-! The verdict that a reply's doubles carry (R117). -/

section
variable {d0 d1 : Word} {c : Code}

/-- A small reply number has no reserved bits above it. -/
theorem replyBits_of_le {r : Nat} (h : d0.toNat / 2 ^ 32 = r) (hr : r ≤ 2) : bits d0.toNat 63 40 = 0 ∧ bits d0.toNat 39 32 = r := by
  unfold bits
  omega

theorem verdictOf_retry (h : d0.toNat / 2 ^ 32 = 0) (hc : c.sealed = false) : verdictOf d0 d1 c = .retry := by
  obtain ⟨hres, hnum⟩ := replyBits_of_le h (by decide)
  simp [verdictOf, hres, hnum, hc]

theorem verdictOf_skip (h : d0.toNat / 2 ^ 32 = 1) : verdictOf d0 d1 c = .skip := by
  obtain ⟨hres, hnum⟩ := replyBits_of_le h (by decide)
  simp [verdictOf, hres, hnum]

theorem verdictOf_redirect (h : d0.toNat / 2 ^ 32 = 2) (hc : c.sealed = false) : verdictOf d0 d1 c = .redirect d1 := by
  obtain ⟨hres, hnum⟩ := replyBits_of_le h (by decide)
  simp [verdictOf, hres, hnum, hc]

/-- An unknown reply number, or any bit above its byte, is KILL. -/
theorem verdictOf_kill_of_unknown (h : 3 ≤ d0.toNat / 2 ^ 32) : verdictOf d0 d1 c = .kill := by
  refine if_pos ?_
  unfold bits
  omega

theorem verdictOf_kill_of_sealed (hc : c.sealed = true) (h : d0.toNat / 2 ^ 32 ≠ 1) : verdictOf d0 d1 c = .kill := by
  have hskip : bits d0.toNat 63 40 = 0 → bits d0.toNat 39 32 ≠ 1 := by
    have hlt := d0.isLt
    unfold bits
    omega
  simp only [verdictOf, hc, if_true]
  split
  · rfl
  next hres =>
    rw [not_or, not_not] at hres
    exact if_neg (hskip hres.1)
end

/-! A reply and the strands of its brick (R33, R117). -/

section
variable {s : State} {b tok ord : Nat} {d0 d1 : Word} {k : Fin 5} {c : Code} {v : Verdict}

/-- A block under the reply's token takes its verdict, and leaves unless the task is killed. -/
theorem replyStrand_of_block (hb : (s.strand b k).block = some (.fault tok ord c)) (hv : verdictOf d0 d1 c = v) (hne : v ≠ .kill) :
    replyStrand s b tok d0 d1 k = some (s.modStrand b k fun x => { x with answers := addAnswer x.answers ord v }.unblock s.cycle) := by
  have hwait : (BlockOn.fault tok ord c).waitsFor tok = some (ord, c) := if_pos rfl
  simp only [replyStrand, hb, Option.bind_some, hwait, hv]

theorem replyStrand_kill_of_block (hb : (s.strand b k).block = some (.fault tok ord c)) (hv : verdictOf d0 d1 c = .kill) :
    replyStrand s b tok d0 d1 k = some (s.modStrand b k fun x => x.beginKill (killStatus c.num)) := by
  have hwait : (BlockOn.fault tok ord c).waitsFor tok = some (ord, c) := if_pos rfl
  simp only [replyStrand, hb, Option.bind_some, hwait, hv]

/-- Whether a reply is for a strand is a matter of the strand alone: its block, its save and its accesses in flight. -/
theorem replyStrand_eq_none_iff : replyStrand s b tok d0 d1 k = none ↔
    (s.strand b k).block.bind (BlockOn.waitsFor tok) = none ∧
      ((s.strand b k).saveTok.bind fun q => if q.1 = tok then some q.2 else none) = none ∧
        ((s.strand b k).ops.findSome? fun o => (o.tokenAcc tok).map fun q => (o, q)) = none := by
  unfold replyStrand
  dsimp only
  split
  next ord c hblock =>
    rw [hblock]
    cases verdictOf d0 d1 c <;> simp
  next hblock =>
    rw [hblock]
    split
    next ord c hsave =>
      rw [hsave]
      cases verdictOf d0 d1 c <;> simp
    next hsave =>
      rw [hsave]
      split
      next hops => simp [hops]
      next hops => simp [hops]

end

/-! Whom else a reply can be for (R117, R163, R242). -/

section
variable {s : State} {b tok : Nat} {d0 d1 : Word}

theorem replyAway_eq_none_iff {x : Ctx} : replyAway s b tok d0 d1 x = none ↔
    x.block.bind (BlockOn.waitsFor tok) = none ∧ (x.ops.findSome? fun o => (o.tokenAcc tok).map fun q => (o, q)) = none := by
  unfold replyAway
  split
  next ord c hblock =>
    rw [hblock]
    cases verdictOf d0 d1 c <;> simp
  next hblock =>
    rw [hblock]
    split
    next hops => simp [hops]
    next hops => simp [hops]

theorem replyOwn_eq_none_iff : replyOwn s b tok d0 d1 = none ↔ ∀ w, (s.brick b).ownPending = some w → ∀ q, w.tok = some q → q.1 ≠ tok := by
  unfold replyOwn
  cases hw : (s.brick b).ownPending with
  | none => simp
  | some w =>
    rcases hq : w.tok with - | ⟨q, ord, c⟩
    · simp [hq]
    · by_cases htok : q = tok <;> simp [hq, htok]

theorem replyCmd_eq_none_iff : replyCmd s b tok d0 d1 = none ↔ ∀ r ∈ s.rcmds.zipIdx, ∀ q, r.1.tok = some q → r.1.dst ≠ b ∨ q.1 ≠ tok := by
  rw [replyCmd, List.findSome?_eq_none_iff]
  refine forall₂_congr fun r _ => ?_
  obtain ⟨r, i⟩ := r
  rcases hq : r.tok with - | ⟨q, ord, c⟩
  · simp [hq]
  · by_cases hto : r.dst ≠ b ∨ q ≠ tok
    · simp [hq, hto]
    · cases hv : verdictOf d0 d1 c <;> simp [hq, hto, hv]
end

/-! The arrival of a reply (R116, R117). -/

section
variable {s u : State} {n b tok : Nat} {m : Msg} {v a : Word} {k : Fin 5}

/-- A reply is the message at hand: it leaves the network, and its sender waits for no status. -/
structure ReplyAt (s : State) (n b : Nat) (m : Msg) (v a : Word) : Prop where
  found : s.net[n]? = some m
  first : s.msgAfter n m = false
  dst : m.dst = b
  reply : hdrReply m.hdr.toNat = true
  data : m.data = [v, a]
  op : m.op = none

/-- The machine once message n is off the network. -/
def State.taken (s : State) (n : Nat) : State := { s with net := s.net.eraseIdx n }

/-- The network has no part in whom a reply is for. -/
theorem replyStrand_taken (h : replyStrand s b tok v a k = none) : replyStrand (s.taken n) b tok v a k = none :=
  replyStrand_eq_none_iff.2 ((replyStrand_eq_none_iff (s := s)).1 h)
theorem replyAway_taken {x : Ctx} (h : replyAway s b tok v a x = none) : replyAway (s.taken n) b tok v a x = none :=
  replyAway_eq_none_iff.2 ((replyAway_eq_none_iff (s := s)).1 h)
theorem replyOwn_taken (h : replyOwn s b tok v a = none) : replyOwn (s.taken n) b tok v a = none :=
  replyOwn_eq_none_iff.2 ((replyOwn_eq_none_iff (s := s)).1 h)
theorem replyCmd_taken (h : replyCmd s b tok v a = none) : replyCmd (s.taken n) b tok v a = none :=
  replyCmd_eq_none_iff.2 ((replyCmd_eq_none_iff (s := s)).1 h)

theorem exec_faultReply_of_reply (h : ReplyAt s n b m v a) : exec (.faultReply n) s = .next (applyReply (s.taken n) m) := by
  obtain ⟨hfound, hfirst, -, hreply, -, hop⟩ := h
  rw [exec_faultReply, execFaultReply, arriveMsg, hfound]
  simp only [hreply, hfirst, Bool.not_true, Bool.or_false, Bool.false_eq_true, if_false, if_true, setStatus, hop]
  rfl

/-- A reply reaches the first strand that waits for it. -/
theorem applyReply_of_strand (h : ReplyAt s n b m v a) (htok : v.toNat % 2 ^ 32 = tok) (hk : replyStrand (s.taken n) b tok v a k = some u)
    (hfirst : ∀ j < k, replyStrand (s.taken n) b tok v a j = none) : applyReply (s.taken n) m = u := by
  have hbits : bits v.toNat 31 0 = tok := by rw [← htok, bits, Nat.pow_zero, Nat.div_one]
  have hsome : (List.finRange 5).findSome? (replyStrand (s.taken n) b tok v a) = some u := by
    rw [← Fin.findSome?_eq_findSome?_finRange, Fin.findSome?_eq_some_iff]
    exact ⟨k, hk, hfirst⟩
  rw [applyReply, h.dst, h.data]
  simp only [List.getD_cons_zero, List.getD_cons_succ, hbits, hsome]

/-- A reply that nothing waits for is discarded. -/
theorem applyReply_of_none (h : ReplyAt s n b m v a) (htok : v.toNat % 2 ^ 32 = tok) (hs : ∀ j, replyStrand (s.taken n) b tok v a j = none)
    (hq : ∀ q ∈ (s.brick b).away ++ (s.brick b).ready ++ (s.brick b).kept, replyAway (s.taken n) b tok v a q = none)
    (ho : replyOwn (s.taken n) b tok v a = none) (hc : replyCmd (s.taken n) b tok v a = none) : applyReply (s.taken n) m = s.taken n := by
  have hbits : bits v.toNat 31 0 = tok := by rw [← htok, bits, Nat.pow_zero, Nat.div_one]
  have hstrands : (List.finRange 5).findSome? (replyStrand (s.taken n) b tok v a) = none := List.findSome?_eq_none_iff.2 fun j _ => hs j
  have haway : (((s.taken n).brick b).away ++ ((s.taken n).brick b).ready ++ ((s.taken n).brick b).kept).findSome? (replyAway (s.taken n) b tok v a) = none :=
    List.findSome?_eq_none_iff.2 hq
  rw [applyReply, h.dst, h.data]
  simp only [List.getD_cons_zero, List.getD_cons_succ, hbits, hstrands, haway, ho, hc, Option.orElse_none, Option.getD_none]

theorem onlyStrand_modStrand (s : State) (n b : Nat) (k : Fin 5) (f : Strand → Strand) : OnlyStrand s b k f ((s.taken n).modStrand b k f) :=
  ⟨(s.taken n).strand_modStrand_same .., fun _ _ hne => (s.taken n).strand_modStrand_ne _ _ _ _ _ (fun e => hne (Prod.ext e.1 e.2)), rfl⟩

variable {ord : Nat} {c : Code}

/-- A reply that lets a blocked task go on. -/
theorem faultReply_unblocks (h : ReplyAt s n b m v a) (htok : v.toNat % 2 ^ 32 = tok) (hb : (s.strand b k).block = some (.fault tok ord c))
    (hsave : (s.strand b k).saveTok = none) (hfirst : ∀ j < k, replyStrand s b tok v a j = none) {w : Verdict} (hw : verdictOf v a c = w)
    (hne : w ≠ .kill) : Happens (.faultReply n) s (OnlyStrand s b k fun y => { y with
      block := none, since := s.cycle, answers := addAnswer y.answers ord w }) := by
  have hreply := replyStrand_of_block (s := s.taken n) (d1 := a) hb hw hne
  refine ⟨_, exec_faultReply_of_reply h, ?_⟩
  rw [applyReply_of_strand h htok hreply fun j hj => replyStrand_taken (hfirst j hj)]
  obtain ⟨hsame, hothers⟩ := onlyStrand_modStrand s n b k fun x => { x with answers := addAnswer x.answers ord w }.unblock s.cycle
  refine ⟨hsame.trans ?_, hothers⟩
  simp [Strand.unblock, hsave]

theorem faultReply_kills (h : ReplyAt s n b m v a) (htok : v.toNat % 2 ^ 32 = tok) (hb : (s.strand b k).block = some (.fault tok ord c))
    (hfirst : ∀ j < k, replyStrand s b tok v a j = none) (hw : verdictOf v a c = .kill) :
    Happens (.faultReply n) s fun t => (t.strand b k).kill = some (BitVec.ofNat 64 (2 ^ 63 + c.num)) ∧ (t.strand b k).block = none ∧ t.mem = s.mem := by
  have hreply := replyStrand_kill_of_block (s := s.taken n) (d1 := a) hb hw
  refine ⟨_, exec_faultReply_of_reply h, ?_⟩
  rw [applyReply_of_strand h htok hreply fun j hj => replyStrand_taken (hfirst j hj)]
  simp [Strand.beginKill, killStatus, State.taken]
end

/-- Settles O38: the verdict of the reply's number, at the first strand that waits for it or at none. -/
theorem faultRepliesFreeTheTaskTheyName : Obligations.FaultRepliesFreeTheTaskTheyName := by
  unfold Obligations.FaultRepliesFreeTheTaskTheyName
  intro s n b k m tok ord c v a hfound hmsg hdst hhdr hdata hop htok x r one
  have h : ReplyAt s n b m v a := ⟨hfound, hmsg, hdst, hhdr, hdata, hop⟩
  refine ⟨?retry, ?skip, ?redirect, ?kill, ?discard⟩
  case retry =>
    rintro ⟨hb, hsave, hfirst⟩ hr hc
    exact faultReply_unblocks h htok hb hsave hfirst (verdictOf_retry hr hc) (by simp)
  case skip =>
    rintro ⟨hb, hsave, hfirst⟩ hr
    exact faultReply_unblocks h htok hb hsave hfirst (verdictOf_skip hr) (by simp)
  case redirect =>
    rintro ⟨hb, hsave, hfirst⟩ hr hc
    exact faultReply_unblocks h htok hb hsave hfirst (verdictOf_redirect hr hc) (by simp)
  case kill =>
    rintro ⟨hb, -, hfirst⟩ (hr | ⟨hc, hr⟩)
    · exact faultReply_kills h htok hb hfirst (verdictOf_kill_of_unknown hr)
    · exact faultReply_kills h htok hb hfirst (verdictOf_kill_of_sealed hc hr)
  case discard =>
    intro hs hq ho hc
    refine ⟨_, exec_faultReply_of_reply h, applyReply_of_none h htok (fun j => replyStrand_taken (hs j)) (fun q hmem => replyAway_taken (hq q hmem))
      (replyOwn_taken ho) (replyCmd_taken hc)⟩

end Sys2Proof.Machine
end

section
/-! SUPPORT. Acquire, release, landing words, fences and bind entries on the own SRAM, and the statement about them. -/

open Sys2Proof Sys2Proof.Machine

namespace Sys2Proof.Machine

/-! Acquire and release (R126, R127). -/

section
variable {s : State} {d : BitVec 4} {a b : Src}

/-- An acquire that is no lock takes a word that is at least its value. -/
theorem acqOk_of_least {w : Nat} {v : Word} (h0 : v ≠ 0) (hones : v ≠ BitVec.allOnes 64) : acqOk w v = decide (v.toNat ≤ w) := by
  rw [acqOk, if_neg h0, if_neg hones]

theorem acqTry_ok {ea v : Word} {pa : Nat} (hv : v.toNat ≤ s.num pa 8) (h0 : v ≠ 0) (hones : v ≠ BitVec.allOnes 64) :
    acqTry s d ea v pa = .ok ((s.modHere fun y => y.rrbRelease s.me ea).setS d (BitVec.ofNat 64 (s.num pa 8))) := by
  have hok : acqOk (s.num pa 8) v = true := by rw [acqOk_of_least h0 hones, decide_eq_true hv]
  rw [acqTry]
  simp only [hok, if_true, h0, false_and, if_false]

theorem acqTry_blocks {ea v : Word} {pa : Nat} (hv : s.num pa 8 < v.toNat) (hones : v ≠ BitVec.allOnes 64) :
    acqTry s d ea v pa = .error (.block s (.acq ea v)) := by
  have h0 : v ≠ 0 := by
    rintro rfl
    exact absurd hv (Nat.not_lt_zero _)
  have hok : acqOk (s.num pa 8) v = false := by rw [acqOk_of_least h0 hones, decide_eq_false (Nat.not_le.2 hv)]
  rw [acqTry]
  simp only [hok, Bool.false_eq_true, if_false]

theorem not_isHost_sramPa {c ea : Nat} (hea : ea < Config.sramBytes) : isHost (sramPa c ea) = false := by
  have hclass := not_class_sramPa (b := c) hea (c := 3) (by decide)
  rwa [isHost, Bool.and_eq_false_iff, decide_eq_false_iff_not, decide_eq_false_iff_not, ← not_and_or]

/-- An acquire of a word of the own SRAM reads it once nothing stands in its way. -/
theorem acq_here (ha : Accepts (.acq d a b) s) (h : FreeLocal s (s.srcA a b) 8)
    (hline : s.lineBusy s.cur.1 s.cur.2 s.nextId s.me.space (s.srcA a b).toNat (some (s.hereAt (s.srcA a b))) = false)
    (hp : s.readPoison (s.hereAt (s.srcA a b)) 8 = false) (h0 : s.srcB b ≠ 0) {r : Except Stop State}
    (hr : acqTry (s.traceMe 3 0 (s.srcA a b)) d (s.srcA a b) (s.srcB b) (s.hereAt (s.srcA a b)) = r) :
    exec (.acq d a b) s = run (.acq d a b) s fun _ => r := by
  obtain ⟨⟨hgate, hans, hal⟩, hea, hown⟩ := h
  have hclass := not_class_sramPa (b := s.cur.1) hea (c := 4) (by decide)
  unfold State.hereAt at hline hp hr
  rw [exec_acq, execAcq, run, run, ha]
  simp only [hgate, bind, Except.bind, reach_local needAcq 0 hans hal hea, localPlace, if_neg hclass, hline, hown, homeWait, homeReady_sramPa s hea,
    State.atomHeld, not_isHost_sramPa hea, State.readBad, hp, linkDown_sramPa _ _ _ _ _ hea, h0, hr, Bool.false_eq_true, Bool.false_and, Bool.or_self,
    and_false, or_self, if_false, if_true]

theorem acq_takes (ha : Accepts (.acq d a b) s) (h : FreeLocal s (s.srcA a b) 8)
    (hline : s.lineBusy s.cur.1 s.cur.2 s.nextId s.me.space (s.srcA a b).toNat (some (s.hereAt (s.srcA a b))) = false)
    (hp : s.readPoison (s.hereAt (s.srcA a b)) 8 = false) (hv : (s.srcB b).toNat ≤ s.num (s.hereAt (s.srcA a b)) 8) (h0 : s.srcB b ≠ 0)
    (hones : s.srcB b ≠ BitVec.allOnes 64) : Completes (.acq d a b) s (((s.traceMe 3 0 (s.srcA a b)).modHere fun y =>
      y.rrbRelease (s.traceMe 3 0 (s.srcA a b)).me (s.srcA a b)).setS d (BitVec.ofNat 64 (s.num (s.hereAt (s.srcA a b)) 8))) := by
  rw [Completes, acq_here ha h hline hp h0 (acqTry_ok (by rwa [State.num_traceMe]) h0 hones), State.num_traceMe]
  exact run_ok ha rfl

theorem acq_blocks (ha : Accepts (.acq d a b) s) (h : FreeLocal s (s.srcA a b) 8)
    (hline : s.lineBusy s.cur.1 s.cur.2 s.nextId s.me.space (s.srcA a b).toNat (some (s.hereAt (s.srcA a b))) = false)
    (hp : s.readPoison (s.hereAt (s.srcA a b)) 8 = false) (hv : s.num (s.hereAt (s.srcA a b)) 8 < (s.srcB b).toNat)
    (hones : s.srcB b ≠ BitVec.allOnes 64) : exec (.acq d a b) s = .next ((s.traceMe 3 0 (s.srcA a b)).blockOn (.acq (s.srcA a b) (s.srcB b))) := by
  have h0 : s.srcB b ≠ 0 := by
    intro h0
    rw [h0] at hv
    exact absurd hv (Nat.not_lt_zero _)
  rw [acq_here ha h hline hp h0 (acqTry_blocks (by rwa [State.num_traceMe]) hones)]
  exact run_block ha rfl

theorem performAct_rel {v : Word} {pa : Nat} (hd : s.inDeque pa = false) (hp : s.readPoison pa 8 = false) :
    performAct s pa (.rel v) = .ok (s.softNum pa 8 (if v = 0 then 0 else (s.num pa 8 + v.toNat) % 2 ^ 64)) := by
  rw [performAct, relStep]
  simp only [hd, hp, Bool.false_eq_true, and_false, if_false]
  split <;> rfl

theorem performAct_landSet {m pa : Nat} (hd : s.inDeque pa = false) (hm : m < 2 ^ 48) :
    performAct s pa (.landSet m) = .ok (s.softNum pa 8 (if m = 0 then 2 ^ 63 else 2 ^ 62 + m)) := by
  have hword : (landSetWord m).toNat = if m = 0 then 2 ^ 63 else 2 ^ 62 + m := by
    unfold landSetWord
    split
    · rfl
    · rw [BitVec.toNat_ofNat]
      omega
  rw [performAct, hword]
  simp only [hd, Bool.false_eq_true, if_false]

theorem rel_here (ha : Accepts (.rel a b) s) (h : FreeLocal s (s.srcA a b) 8) (hbusy : s.me.bindBusy (s.srcA a b) = false)
    (hd : s.inDeque (s.hereAt (s.srcA a b)) = false) (hp : s.readPoison (s.hereAt (s.srcA a b)) 8 = false) :
    Completes (.rel a b) s (((noteCode s s.cur.1 s.cur.2 (s.hereAt (s.srcA a b)) 8).softNum (s.hereAt (s.srcA a b)) 8
      (if s.srcB b = 0 then 0 else (s.num (s.hereAt (s.srcA a b)) 8 + (s.srcB b).toNat) % 2 ^ 64)).traceMe 3 1 (s.srcA a b)) := by
  have ⟨⟨_, _, hal⟩, _⟩ := h
  have hact := performAct_rel (s := noteCode s s.cur.1 s.cur.2 (s.hereAt (s.srcA a b)) 8) (v := s.srcB b) (by rw [noteCode, noteBy_inDeque]; exact hd)
    (by rw [noteCode, noteBy_readPoison]; exact hp)
  rw [noteCode, noteBy_num] at hact
  rw [Completes, exec_rel, execRel]
  refine run_ok ha ?_
  simp only [hal, hbusy, ne_eq, not_true, Bool.false_eq_true, if_false]
  exact storeAccess_here_ok h hact

theorem landSet_here (ha : Accepts (.landSet a b) s) (h : FreeLocal s (s.srcA a b) 8) (hd : s.inDeque (s.hereAt (s.srcA a b)) = false) :
    Completes (.landSet a b) s (((noteCode s s.cur.1 s.cur.2 (s.hereAt (s.srcA a b)) 8).softNum (s.hereAt (s.srcA a b)) 8
      (if (s.srcB b).toNat % 2 ^ 48 = 0 then 2 ^ 63 else 2 ^ 62 + (s.srcB b).toNat % 2 ^ 48)).traceMe 3 1 (s.srcA a b)) := by
  have hbits : bits (s.srcB b).toNat 47 0 = (s.srcB b).toNat % 2 ^ 48 := by rw [bits, Nat.pow_zero, Nat.div_one]
  rw [Completes, exec_landSet, execLandSet]
  refine run_ok ha ?_
  simp only [hbits]
  exact storeAccess_here_ok h (performAct_landSet (by rw [noteCode, noteBy_inDeque]; exact hd) (Nat.mod_lt _ (by decide)))
end

/-! Fences (R128 to R130). -/

section
variable {s : State} {a b : Src}

theorem fenceS_done (ha : Accepts .fenceS s) (h : s.me.unacked = 0) :
    Completes .fenceS s (s.modMe fun x => { x with fetchOwn := s.codeLog.length }) := by
  rw [Completes, exec_fenceS, execFenceS]
  exact run_ok ha (if_neg (not_not.2 h))

theorem fenceS_waits (ha : Accepts .fenceS s) (h : s.me.unacked ≠ 0) : exec .fenceS s = .next s := by
  rw [exec_fenceS, execFenceS]
  exact run_wait ha (if_pos h)

/-- The classes of a mask are its low five bits. -/
theorem truncate_eq_zero_iff (v : Word) : (v.truncate 5 : BitVec 5) = 0 ↔ v.toNat % 32 = 0 := by
  rw [← BitVec.toNat_inj, BitVec.truncate_eq_setWidth, BitVec.toNat_setWidth]
  rfl

theorem getLsbD_truncate (v : Word) : (v.truncate 5 : BitVec 5).getLsbD 1 = v.getLsbD 1 := by
  rw [BitVec.truncate_eq_setWidth, BitVec.getLsbD_setWidth]
  rfl

theorem fenceX_waits (ha : Accepts (.fenceX a b) s) (hm : (s.srcA a b).toNat % 32 ≠ 0) (hh : (s.srcB b).toNat % 32 = 0)
    (hd : s.drainedFor s.cur.1 s.cur.2 s.nextId ((s.srcA a b).truncate 5) = false) : exec (.fenceX a b) s = .next s := by
  rw [← truncate_eq_zero_iff] at hh
  rw [ne_eq, ← truncate_eq_zero_iff] at hm
  rw [exec_fenceX, execFenceX]
  refine run_wait ha ?_
  simp only [if_neg hm, if_pos hh, hd, Bool.false_eq_true, if_false]

theorem fenceX_done (ha : Accepts (.fenceX a b) s) (hm : (s.srcA a b).toNat % 32 ≠ 0) (hh : (s.srcB b).toNat % 32 = 0)
    (hd : s.drainedFor s.cur.1 s.cur.2 s.nextId ((s.srcA a b).truncate 5) = true) :
    Completes (.fenceX a b) s (if (s.srcA a b).getLsbD 1 then s.modHere fun y => { y with tcache := [] } else s) := by
  rw [← truncate_eq_zero_iff] at hh
  rw [ne_eq, ← truncate_eq_zero_iff] at hm
  rw [Completes, exec_fenceX, execFenceX]
  refine run_ok ha ?_
  simp only [if_neg hm, if_pos hh, hd, if_true, getLsbD_truncate]

/-- A fence that holds later operations arms its hold. -/
theorem fenceX_arms (ha : Accepts (.fenceX a b) s) (hm : (s.srcA a b).toNat % 32 ≠ 0) (hh : (s.srcB b).toNat % 32 ≠ 0) (hroom : s.me.fx.length < 4) :
    let h : FxHold := ⟨(s.srcA a b).truncate 5, (s.srcB b).truncate 5, s.nextId, s.cur.1, s.cur.2, s.me.ctxKey⟩
    let t := s.modMe fun x => { x with fx := x.fx ++ [h] }
    Completes (.fenceX a b) s (if (s.srcA a b).getLsbD 1 || (s.srcB b).getLsbD 1 then t.modHere fun y => { y with fences := y.fences ++ [h] } else t) := by
  rw [ne_eq, ← truncate_eq_zero_iff] at hm hh
  intro h t
  rw [Completes, exec_fenceX, execFenceX]
  refine run_ok ha ?_
  simp only [if_neg hm, if_neg hh, if_neg (Nat.not_le.2 hroom), getLsbD_truncate]
  rfl
end

/-! Bind entries (R124, R125). -/

section
variable {s : State} {a b : Src}

theorem bind_reserved (ha : Accepts (.bind a b) s) (hn : 7 < (s.srcB b).toNat) : Traps (.bind a b) s .reservedField := by
  rw [Traps, exec_bind, execBind]
  exact run_trap ha (if_pos hn)

theorem bind_misaligned (ha : Accepts (.bind a b) s) (hn : (s.srcB b).toNat ≤ 7) (hal : (s.srcA a b).toNat % 8 ≠ 0) :
    Traps (.bind a b) s .misaligned := by
  rw [Traps, exec_bind, execBind]
  refine run_trap ha ?_
  simp only [if_neg (Nat.not_lt.2 hn), if_pos hal]

theorem bind_binds {l : List Byte} {s' : State} (ha : Accepts (.bind a b) s) (hn : (s.srcB b).toNat ≤ 7) (hal : (s.srcA a b).toNat % 8 = 0)
    (hun : s.me.unacked = 0) (hrec : readRec s 0 (s.srcA a b) 8 24 needLoad 0 = .ok (l, s'))
    (hbad : bindBad (numAt l 0 8) (numAt l 8 8) (numAt l 16 8) = false) :
    Completes (.bind a b) s (s'.modMe fun x => x.putBind (s.srcB b).toNat ⟨doubleAt l 0, doubleAt l 8, doubleAt l 16, 0⟩) := by
  rw [Completes, exec_bind, execBind]
  refine run_ok ha ?_
  simp only [if_neg (Nat.not_lt.2 hn), hal, hun, hrec, hbad, bind, Except.bind, ne_eq, not_true, Bool.false_eq_true, if_false]
end

/-- A number built of the bits that a predicate takes stays below the next bit. -/
theorem foldl_bits_lt (p : Nat → Bool) (m : Nat) : (List.range m).foldl (fun t n => if p n then t + 2 ^ n else t) 0 < 2 ^ m := by
  induction m with
  | zero => exact Nat.one_pos
  | succ m ih =>
    rw [List.range_succ, List.foldl_append, List.foldl_cons, List.foldl_nil, Nat.pow_succ]
    split <;> omega

theorem testBit_foldl_bits (p : Nat → Bool) {m j : Nat} (hj : j < m) :
    ((List.range m).foldl (fun t n => if p n then t + 2 ^ n else t) 0).testBit j = p j := by
  induction m with
  | zero => exact absurd hj (Nat.not_lt_zero j)
  | succ m ih =>
    have hlt := foldl_bits_lt p m
    rw [List.range_succ, List.foldl_append, List.foldl_cons, List.foldl_nil]
    rcases Nat.lt_succ_iff_lt_or_eq.1 hj with hj | rfl
    · rw [← ih hj]
      split
      · rw [Nat.add_comm, Nat.testBit_two_pow_add_gt hj]
      · rfl
    · split
      next hp => rw [Nat.add_comm, Nat.testBit_two_pow_add_eq, Nat.testBit_lt_two_pow hlt, hp, Bool.not_false]
      next hp => rw [Nat.testBit_lt_two_pow hlt, Bool.eq_false_of_not_eq_true hp]

/-- unbind leaves a valid bit unless its mask takes it and its object is named. -/
theorem Strand.getLsbD_unbindBits (x : Strand) (m o : Word) {j : Nat} (hj : j < 8) : (x.unbindBits m o).getLsbD j =
    (x.bindtab.getLsbD j && !(m.getLsbD j && (o == 0 || ((x.binds.toList)[j]?.map (·.sync)).getD 0 == o))) := by
  rw [Strand.unbindBits, BitVec.getLsbD_ofNat, decide_eq_true hj, Bool.true_and]
  exact testBit_foldl_bits (fun n => x.bindtab.getLsbD n && !(m.getLsbD n && (o == 0 || ((x.binds.toList)[n]?.map (·.sync)).getD 0 == o))) hj

theorem unbind_completes {s : State} {a b : Src} (ha : Accepts (.unbind a b) s) :
    Completes (.unbind a b) s (s.modMe fun x => { x with bindtab := x.unbindBits (s.srcA a b) (s.srcB b) }) := by
  rw [Completes, exec_unbind, execUnbind]
  exact run_ok ha rfl

/-- Settles O13: an acquire reads its word once, a release and land.set are store-like accesses, and bind, unbind and the fences change the
strand alone. -/
theorem synchronisationAndBindingComplete : Obligations.SynchronisationAndBindingComplete := by
  unfold Obligations.SynchronisationAndBindingComplete
  refine ⟨fun s d a b => ⟨acq_takes, acq_blocks, rel_here, landSet_here, fun ha => ⟨?acqAll, rfl⟩, fun ha => ⟨fenceS_done ha, fenceS_waits ha⟩,
    fun ha hm hh => ⟨fenceX_waits ha hm hh, fenceX_done ha hm hh⟩, fenceX_arms⟩,
    fun s a b => ⟨bind_reserved, bind_misaligned, fun l s' => bind_binds, fun ha => ⟨_, unbind_completes ha, rfl, fun j hj => ?unbind⟩⟩⟩
  case acqAll =>
    rw [Completes, exec_acqAll, execAcqAll]
    exact run_ok ha rfl
  case unbind =>
    rw [State.me_modMe]
    exact s.me.getLsbD_unbindBits _ _ hj

end Sys2Proof.Machine
end

section
/-! SUPPORT. Remote loads: their issue, the operation they leave under way, and the response that performs it. -/

open Sys2Proof Sys2Proof.Machine

namespace Sys2Proof.Machine

/-! Issue (R109, R111, R112). -/

theorem reach_of_check {s s' : State} {ord al : Nat} {ea : Word} {n : Need} {p : Place} (seq : BitVec 32) (hans : s.answer ord ea = some ea)
    (hal : ea.toNat % al = 0) (hc : s.check s.cur.1 s.me.space ea.toNat n = .ok (p, s')) : reach s ord ea al n seq = .ok (.at ea p s') := by
  simp [reach, hans, hal, hc]

/-- A load that neither the own brick nor the remote read buffer answers is one access on its way. -/
theorem loadAt_remote {s : State} {ea : Word} {p : Place} (ord n off : Nat) {home : Bool} (cls : Access) (seq : BitVec 32)
    (hap : ¬(paClass p.pa = 4 ∧ p.pa < 2 ^ 52)) (hhome : homeHere s.cur.1 p.pa = false)
    (hrrb : home = true ∨ s.here.rrbHit s.me.space ea.toNat n = none) :
    ∃ a : PAcc, loadAt s ord ea p n off home cls seq = .ok (.later a s) ∧ a.ea = ea ∧ a.pa = p.pa ∧ a.len = n ∧ a.st = .pending := by
  have hmiss : (if home then none else s.here.rrbHit s.me.space ea.toNat n) = none := by
    rcases hrrb with h | h
    · exact if_pos h
    · rw [h, ite_self]
  simp only [loadAt, if_neg hap, hhome, hmiss, Bool.false_eq_true, if_false]
  exact ⟨_, rfl, rfl, rfl, rfl, rfl⟩

theorem loadBody_remote {s s' : State} {n : Nat} {d b L : BitVec 4} {o : BitVec 11} {p : Place} (sg : Bool) (h : Free s (s.mAddr b o n) n)
    (hc : s.check s.cur.1 s.me.space (s.mAddr b o n).toNat needLoad = .ok (p, s')) (hap : ¬(paClass p.pa = 4 ∧ p.pa < 2 ^ 52))
    (hhome : homeHere s'.cur.1 p.pa = false)
    (hrrb : s'.me.home = true ∨ (s'.traceMe 3 0 (s.mAddr b o n)).here.rrbHit (s'.traceMe 3 0 (s.mAddr b o n)).me.space (s.mAddr b o n).toNat n = none) :
    ∃ a : PAcc, loadBody n sg d b o L s = .ok ((s'.traceMe 3 0 (s.mAddr b o n)).addOp
        { (newOp (s'.traceMe 3 0 (s.mAddr b o n)) L (.load n sg d) none) with accs := [a] }) ∧
      a.ea = s.mAddr b o n ∧ a.pa = p.pa ∧ a.len = n ∧ a.st = .pending := by
  obtain ⟨hgate, hans, hal⟩ := h
  obtain ⟨a, hload, ha⟩ := loadAt_remote (s := s'.traceMe 3 0 (s.mAddr b o n)) (ea := s.mAddr b o n) 0 n 0
    (home := (s'.traceMe 3 0 (s.mAddr b o n)).me.home) .load 0 hap hhome (hrrb.imp_left fun hh => (congrArg Strand.home (State.me_traceMe ..)).trans hh)
  refine ⟨a, ?_, ha⟩
  rw [loadBody, hgate]
  simp only [bind, Except.bind]
  rw [← State.mAddr, reach_of_check 0 hans hal hc]
  simp only [hload]

/-! The operation with a number. -/

section
variable {x y : Brick} {id : Nat} {k : Fin 5} {o : Op}

/-- A change of every operation that keeps numbers changes the operation found. -/
theorem Brick.findOp_map {g : Op → Op} (hid : ∀ q, (g q).id = q.id) (h : ∀ j, (y.strand j).ops = (x.strand j).ops.map g) :
    y.findOp id = (x.findOp id).map fun q => (q.1, g q.2) := by
  have hlist : ((List.finRange 5).flatMap fun j => (y.strand j).ops.map fun q => (j, q)) =
      ((List.finRange 5).flatMap fun j => (x.strand j).ops.map fun q => (j, q)).map fun q => (q.1, g q.2) := by
    simp only [h, List.map_map, List.map_flatMap, Function.comp_def]
  rw [Brick.findOp, hlist, List.find?_map, Brick.findOp]
  simp only [Function.comp_def, hid]

theorem Brick.findOp_congr (h : ∀ j, (y.strand j).ops = (x.strand j).ops) : y.findOp id = x.findOp id := by
  rw [Brick.findOp_map (x := x) (g := fun q => q) (fun _ => rfl) fun j => by rw [h, List.map_id']]
  cases x.findOp id <;> rfl

theorem Brick.id_of_findOp (h : x.findOp id = some (k, o)) : o.id = id := by
  have hid := List.find?_some h
  exact of_decide_eq_true hid

/-- The operation found is its strand's first with that number. -/
theorem Brick.find_ops_of_findOp (h : x.findOp id = some (k, o)) : (x.strand k).ops.find? (fun q => q.id = id) = some o := by
  rw [Brick.findOp, List.find?_flatMap] at h
  obtain ⟨j, -, hj⟩ := List.exists_of_findSome?_eq_some h
  rw [List.find?_map, Option.map_eq_some_iff] at hj
  obtain ⟨q, hq, hjq⟩ := hj
  obtain ⟨rfl, rfl⟩ := Prod.mk.inj hjq
  exact hq

theorem Brick.modOp_ops (x : Brick) (n : Nat) (f : Op → Op) (j : Fin 5) :
    ((x.modOp n f).strand j).ops = (x.strand j).ops.map fun q => if q.id = n then f q else q := by
  simp only [Brick.modOp, Brick.strand, Vector.get_eq_getElem, Vector.getElem_map]

theorem Brick.findOp_modOp {f : Op → Op} (hf : ∀ q, (f q).id = q.id) (h : x.findOp id = some (k, o)) : (x.modOp id f).findOp id = some (k, f o) := by
  rw [Brick.findOp_map (fun q => ?_) (x.modOp_ops id f), h, Option.map_some, if_pos (Brick.id_of_findOp h)]
  split
  · exact hf q
  · rfl

theorem Brick.freeSeq_ops (x : Brick) (ctx : Nat) (q : Option (BitVec 32)) (j : Fin 5) : ((x.freeSeq ctx q).strand j).ops = (x.strand j).ops := by
  cases q with
  | none => rfl
  | some q => simp only [Brick.freeSeq, Brick.strand, Vector.get_eq_getElem, Vector.getElem_map]

theorem Op.complete_id (o : Op) : o.complete.id = o.id := by
  unfold Op.complete
  split <;> rfl

theorem putAcc_id (o : Op) (i : Nat) (l : List Byte) : (putAcc o i l).id = o.id := by
  unfold putAcc
  split <;> rfl
end

/-! The response (R111). -/

section
variable {s : State} {b id : Nat} {k : Fin 5} {o : Op} {a : PAcc} {n : Nat} {sg : Bool} {d : BitVec 4}

/-- A scalar load all of whose accesses are performed goes on. -/
theorem finishOp_load (h : (s.brick b).findOp id = some (k, o)) (hkind : o.kind = .load n sg d) (hall : o.allDone = true) (hdone : o.done = false) :
    finishOp s b k id = s.modBrick b fun x => (x.modOp id Op.complete).freeSeq (s.strand b k).ctxKey o.seq := by
  have hfind : (s.strand b k).ops.find? (fun q => q.id = id) = some o := Brick.find_ops_of_findOp h
  simp only [finishOp, hfind, hall, hdone, hkind, Bool.not_true, Bool.or_self, Bool.false_eq_true, if_false]

theorem findOp_finishOp_load (h : (s.brick b).findOp id = some (k, o)) (hkind : o.kind = .load n sg d) (hall : o.allDone = true) (hdone : o.done = false) :
    ((finishOp s b k id).brick b).findOp id = some (k, o.complete) ∧ (finishOp s b k id).mem = s.mem := by
  rw [finishOp_load h hkind hall hdone]
  refine ⟨?_, rfl⟩
  rw [State.brick_modBrick_same, Brick.findOp_congr (Brick.freeSeq_ops _ _ _)]
  exact Brick.findOp_modOp Op.complete_id h

/-- The only access of an operation is performed: its bytes are the whole buffer. -/
theorem putAcc_single (haccs : o.accs = [a]) (hbuf : o.buf = 0) (hoff : a.off = 0) (l : List Byte) :
    putAcc o 0 l = { o with buf := leNat l, accs := [{ a with st := .done }] } := by
  simp [putAcc, haccs, hbuf, hoff, putBytes]

/-- A line that the remote read buffer takes changes no operation. -/
theorem fill_keeps_ops (s : State) (b space va id : Nat) (l : List Byte) (c : Bool) :
    (if c then s.modBrick b fun x => x.rrbFill space va l else s).mem = s.mem ∧
      ((if c then s.modBrick b fun x => x.rrbFill space va l else s).brick b).findOp id = (s.brick b).findOp id := by
  have hfill : ((s.brick b).rrbFill space va l).findOp id = (s.brick b).findOp id := Brick.findOp_congr fun _ => rfl
  split
  · exact ⟨rfl, by rw [State.brick_modBrick_same, hfill]⟩
  · exact ⟨rfl, rfl⟩

/-- The response to a load that nothing stands in the way of: its bytes go to its buffer, the remote read buffer may take the line, and the
operation goes on. -/
theorem loadResponse_performs (h : (s.brick b).findOp o.id = some (k, o)) (hg : o.isGather = false) (hst : a.st = .pending) (hamo : a.amo = none)
    (hready : s.homeReady a.pa = true) (hline : s.lineBusy b k o.id o.space a.ea.toNat (some a.pa) = false) (hap : ¬(paClass a.pa = 4 ∧ a.pa < 2 ^ 52))
    (hbad : s.readBad b o.space a.ea.toNat a.pa a.len = false) : ∃ u : State, loadResponse s b k o 0 a = finishOp u b k o.id ∧ u.mem = s.mem ∧
      (u.brick b).findOp o.id = some (k, putAcc o 0 (s.bytes a.pa a.len)) := by
  have hmay : s.mayReach o.id a.pa = true := by rw [State.mayReach, hready, Bool.true_or]
  have hearlier : earlierAcc o 0 a = false := rfl
  have hput := Brick.findOp_modOp (f := fun q => putAcc q 0 (s.bytes a.pa a.len)) (fun q => putAcc_id q 0 _) h
  simp only [loadResponse, hst, hmay, hg, hline, hearlier, if_neg hap, hbad, hamo, Bool.not_true, Bool.not_false, ne_eq, not_true, Bool.false_eq_true,
    and_false, or_self, reduceCtorEq, if_false]
  refine ⟨_, rfl, ?_⟩
  obtain ⟨hmem, hfound⟩ := fill_keeps_ops (s.modBrick b fun x => x.modOp o.id fun q => putAcc q 0 (s.bytes a.pa a.len)).bumpFree b o.space
    (lineOf a.ea.toNat) o.id (s.bytes (a.pa / 64 * 64) 64) (!a.nofill && !s.readPoison (a.pa / 64 * 64) 64 &&
      decide (a.epoch = (s.brick b).epoch) && !(s.brick b).cutSince a.cut o.space (lineOf a.ea.toNat))
  rw [State.bumpFree_brick, State.brick_modBrick_same, hput] at hfound
  exact ⟨hmem, hfound⟩

theorem loadResponse_delivers (h : (s.brick b).findOp id = some (k, o)) (hkind : o.kind = .load n sg d) (haccs : o.accs = [a])
    (hdone : o.done = false) (hbuf : o.buf = 0) (hst : a.st = .pending) (hamo : a.amo = none) (hoff : a.off = 0) (hlen : a.len = n)
    (hready : s.homeReady a.pa = true) (hline : s.lineBusy b k o.id o.space a.ea.toNat (some a.pa) = false) (hap : ¬(paClass a.pa = 4 ∧ a.pa < 2 ^ 52))
    (hbad : s.readBad b o.space a.ea.toNat a.pa a.len = false) :
    ∃ t, exec (.loadResponse b id 0) s = .next t ∧ ∃ o', (t.brick b).findOp id = some (k, o') ∧ o'.done = true ∧
      o'.commit.sc = some (d, extend n sg (s.num a.pa n)) ∧ t.mem = s.mem := by
  obtain rfl := Brick.id_of_findOp h
  have hpending : o.allDone = false := by simp [Op.allDone, haccs, hst]
  have hg : o.isGather = false := by rw [Op.isGather, hkind]
  obtain ⟨u, hu, hmem, hfound⟩ := loadResponse_performs h hg hst hamo hready hline hap hbad
  rw [putAcc_single haccs hbuf hoff] at hfound
  obtain ⟨hfind, hmem'⟩ := findOp_finishOp_load hfound hkind rfl hdone
  have hexec : exec (.loadResponse b o.id 0) s = .next (finishOp u b k o.id) := by
    rw [exec_loadResponse, execLoadResponse, h]
    simp only [haccs, List.getElem?_cons_zero, hpending, Bool.false_eq_true, false_and, if_false, hu]
  refine ⟨_, hexec, _, hfind, ?_, ?_, hmem'.trans hmem⟩
  · simp only [Op.complete, hkind]
  · simp only [Op.complete, hkind, hlen, State.num]
end

/-- Settles O9: the issue leaves one pending access, and its response performs it. -/
theorem remoteLoadsArePerformedByTheirResponse : Obligations.RemoteLoadsArePerformedByTheirResponse := by
  unfold Obligations.RemoteLoadsArePerformedByTheirResponse
  refine ⟨?issue, fun s b id k o a n sg d => loadResponse_delivers⟩
  intro s s' d b o l p ea u ha h hc hhome hap hrrb hkeep
  obtain ⟨a, hload, hacc⟩ := loadBody_remote (d := d) (L := l) false h hc hap hhome (hkeep ▸ hrrb)
  refine ⟨a, ?_, hacc⟩
  rw [Completes, exec_ldD]
  exact run_ok ha hload

end Sys2Proof.Machine
end

section
/-! SUPPORT. Remote stores: how they retire, arrive and are acknowledged, and the statement about them. -/

open Sys2Proof Sys2Proof.Machine

namespace Sys2Proof.Machine

/-! Retiring (R114). -/

section
variable {s t : State} {ea : Word} {len n : Nat} {act : FAct} {access : Access}

/-- What a counted remote access leaves of the machine as it retires. -/
structure Retired (s t : State) (f : Flight) (ea : Word) (len : Nat) (act : FAct) : Prop where
  me : t.me = { s.me with unacked := s.me.unacked + 1, binds := bumpBinds s.me.binds (s.me.bindsOf ea.toNat) (· + 1) }
  mem : t.mem = s.mem
  flights : t.here.flights = s.here.flights ++ [f]
  rrb : t.here.rrb = (s.here.rrbDrop s.me.space ea.toNat len).rrb
  addr : f.ea = ea
  size : f.len = len
  does : f.act = act
  underWay : f.arrived = false
  counts : f.binds = s.me.bindsOf ea.toNat

/-- The access of the instruction in hand as it sets out toward its home. -/
def State.leaving (s : State) (ea : Word) (len : Nat) (act : FAct) (access : Access) : Flight :=
  ⟨s.nextId, s.cur.2, s.me.ctxKey, s.me.space, s.me.pc, ea, len, act, none, s.me.bindsOf ea.toNat, true, false, false, s.here.epoch, access, none⟩

theorem retireRemote_retired (h : s.me.unacked < 4095) :
    ∃ t, retireRemote s ea len act access none none true = .ok t ∧ Retired s t (s.leaving ea len act access) ea len act := by
  have hroom : s.me.unacked ≠ 4095 := Nat.ne_of_lt h
  rw [retireRemote]
  simp only [hroom, and_false, if_false, if_true]
  refine ⟨_, rfl, ?me, rfl, ?flights, ?rrb, rfl, rfl, rfl, rfl, rfl⟩
  case me =>
    rw [State.me_modHere_of, State.bumpId_me, State.me_modMe, State.me_modHere_of]
    · exact fun _ => rfl
    · exact fun _ => rfl
  case flights =>
    rw [State.here_modHere, State.bumpId_here, State.here_modMe, State.here_modHere]
    rfl
  case rrb =>
    rw [State.here_modHere, State.bumpId_here, State.here_modMe, State.here_modHere]
    rfl

/-- The instruction of an access that retires completes, and the access stays under way. -/
theorem Retired.completes {f : Flight} (h : Retired s t f ea len act) (hops : s.me.ops = []) (kd ac : Nat) (d : Word) :
    (advance (t.traceMe kd ac d)).me.unacked = s.me.unacked + 1 ∧ (advance (t.traceMe kd ac d)).me.pc = s.me.pc + 4 ∧
      (advance (t.traceMe kd ac d)).me.s = s.me.s ∧ (advance (t.traceMe kd ac d)).mem = s.mem ∧
      (advance (t.traceMe kd ac d)).here.flights = s.here.flights ++ [f] ∧
      (advance (t.traceMe kd ac d)).here.rrb = (s.here.rrbDrop s.me.space ea.toNat len).rrb := by
  have htrace : (t.traceMe kd ac d).me = t.me := State.me_traceMe ..
  have hme : (advance (t.traceMe kd ac d)).me = _ := advanceTo_me_of_no_ops (htrace.trans h.me ▸ hops) _
  rw [htrace, h.me] at hme
  have hflights : (advance (t.traceMe kd ac d)).here.flights = t.here.flights :=
    ((t.traceMe kd ac d).field_modMe _ Brick.flights (fun _ => rfl) _).trans (t.field_modBrick _ Brick.flights (fun x => by simp) _)
  have hrrb : (advance (t.traceMe kd ac d)).here.rrb = t.here.rrb :=
    ((t.traceMe kd ac d).field_modMe _ Brick.rrb (fun _ => rfl) _).trans (t.field_modBrick _ Brick.rrb (fun x => by simp) _)
  rw [hme]
  exact ⟨rfl, rfl, rfl, h.mem, hflights.trans h.flights, hrrb.trans h.rrb⟩

/-- A store-like access beyond the local window retires. -/
theorem storeAccess_remote (h : Free s ea n) (hlo : Config.sramBytes ≤ ea.toNat) (hhi : ea.toNat < 2 ^ 57)
    (hr : retireRemote s ea len act access none none true = .ok t) : storeAccess s 0 ea n len act access = .ok (t.traceMe 3 access.num ea) := by
  obtain ⟨hgate, hans, hal⟩ := h
  rw [storeAccess, hgate]
  simp only [bind, Except.bind, hans, hal, if_neg (Nat.not_le.2 hhi), if_neg (Nat.not_lt.2 hlo), hr, ne_eq, not_true, if_false]

theorem store_retires {i : Instr} {d b : BitVec 4} {o : BitVec 11} (he : exec i s = run i s (storeBody n d b o)) (hops : s.me.ops = [])
    (hun : s.me.unacked < 4095) (ha : Accepts i s) (h : Free s (s.mAddr b o n) n) (hlo : Config.sramBytes ≤ (s.mAddr b o n).toNat)
    (hhi : (s.mAddr b o n).toNat < 2 ^ 57) : ∃ t f, exec i s = .next t ∧ t.me.unacked = s.me.unacked + 1 ∧ t.me.pc = s.me.pc + 4 ∧
      t.me.s = s.me.s ∧ t.mem = s.mem ∧ t.here.flights = s.here.flights ++ [f] ∧ f.ea = s.mAddr b o n ∧ f.len = n ∧
      f.act = .write ((leBytes n (s.me.sreg d).toNat).map some) ∧ f.arrived = false ∧ f.binds = s.me.bindsOf (s.mAddr b o n).toNat ∧
      t.here.rrb = (s.here.rrbDrop s.me.space (s.mAddr b o n).toNat n).rrb := by
  obtain ⟨t, hr, hret⟩ := retireRemote_retired (ea := s.mAddr b o n) (len := n) (act := .write ((leBytes n (s.me.sreg d).toNat).map some))
    (access := .store) hun
  obtain ⟨hunacked, hpc, hregs, hmem, hflights, hrrb⟩ := hret.completes hops 3 1 (s.mAddr b o n)
  exact ⟨_, _, he.trans (run_ok ha (storeAccess_remote h hlo hhi hr)), hunacked, hpc, hregs, hmem, hflights, hret.addr, hret.size, hret.does,
    hret.underWay, hret.counts, hrrb⟩
end

/-! Translation at the interface (R114). -/

section
variable {s s' : State} {b n id : Nat} {f : Flight} {p : Place}

theorem translateUpTo_of_one (h : (s.brick b).flights.filter (fun q => q.pa.isNone && !q.arrived && decide (q.id ≤ n)) = [f]) :
    translateUpTo s b n = translateFlight s b f := by
  rw [translateUpTo, h, List.foldl_cons, List.foldl_nil]

/-- Every flight with a number is changed. -/
theorem modFlight_forall {g : Flight → Flight} {q : Flight} (hq : q ∈ ((modFlight s b id g).brick b).flights) (hqid : q.id = id) :
    ∃ x, q = g x := by
  rw [modFlight, State.brick_modBrick_same] at hq
  obtain ⟨x, -, hx⟩ := List.mem_map.1 hq
  split at hx
  next h => exact ⟨x, hx.symm⟩
  next h => exact absurd (hx ▸ hqid) h

theorem State.fill_mem (s : State) (b : Nat) (e : XEntry) (rd : Bool) : (s.fill b e rd).mem = s.mem := by
  unfold State.fill
  split <;> rfl

theorem check_mem {space ea : Nat} {m : Need} (h : s.check b space ea m = .ok (p, s')) : s'.mem = s.mem := by
  unfold State.check at h
  split at h
  · rw [← (Prod.mk.inj (Except.ok.inj h)).2]
  · obtain ⟨⟨q, u⟩, hq, h⟩ := exists_of_bind_eq_ok h
    rw [← (Prod.mk.inj (ok_of_fault h)).2]
    rcases translate_state hq with rfl | ⟨e, rfl⟩
    · rfl
    · exact State.fill_mem ..

/-- A flight that passes its checks keeps its place from then on. -/
theorem translateFlight_places (hc : s.check b f.space f.ea.toNat f.act.need = .ok (p, s')) (hap : flightAperture b p.pa f = none) :
    (translateFlight s b f).mem = s.mem ∧ ∀ q ∈ ((translateFlight s b f).brick b).flights, q.id = f.id → q.pa = some p.pa := by
  have ht : translateFlight s b f = modFlight s' b f.id fun q => { q with pa := some p.pa, epoch := (s.brick b).epoch } := by
    simp only [translateFlight, hc, hap]
  rw [ht]
  have hmem : s'.mem = s.mem := check_mem hc
  refine ⟨hmem, fun q hq hid => ?_⟩
  obtain ⟨x, rfl⟩ := modFlight_forall (g := fun q => { q with pa := some p.pa, epoch := (s.brick b).epoch }) hq hid
  rfl

/-- A flight that is dropped, and belongs to no scatter, has arrived, and its report is on its way. -/
theorem dropFlight_reports (c : Code) (hop : f.op = none) : (dropFlight s b f c).mem = s.mem ∧
    (∀ q ∈ ((dropFlight s b f c).brick b).flights, q.id = f.id → q.arrived = true) ∧
      ∃ u : State, u.net = s.net ∧ (dropFlight s b f c).net = (u.sendFault ⟨f.space, c, b, f.strand, f.access, true, f.pc, f.ea, 0, 0⟩).net := by
  have hdrop : dropFlight s b f c = (modFlight s b f.id fun q => { q with arrived := true }).report b f.strand f.space c f.access f.pc f.ea 0 := by
    rw [dropFlight, hop]
    rfl
  rw [hdrop]
  refine ⟨State.report_mem .., fun q hq hid => ?_, _, ?_, rfl⟩
  case refine_2 => rfl
  have hflights := (modFlight s b f.id fun q => { q with arrived := true }).field_modBrick b Brick.flights (f := fun x => x.record
    ⟨(modFlight s b f.id fun q => { q with arrived := true }).cycle % 2 ^ 48, 4, f.strand, 0, BitVec.ofNat 64 c.num⟩ (x.trctl.getLsbD 9)) (fun x => by simp) b
  rw [State.report, State.brick, (State.sendFault_bricks _ _).1, ← State.brick, hflights] at hq
  obtain ⟨x, rfl⟩ := modFlight_forall (g := fun q => { q with arrived := true }) hq hid
  rfl
end

/-! Arrival (R114). -/

section
variable {s : State} {b n : Nat} {f g : Flight} {l : List (Option Byte)} {pa : Nat}

/-- What a write makes of memory depends on memory and on the deques' regions. -/
theorem poke_mem_congr {s t : State} (hm : t.mem = s.mem) (hd : ∀ a, t.inDeque a = s.inDeque a) (pa : Nat) (l : List (Option Byte)) :
    (t.poke pa l).mem = (s.poke pa l).mem := by
  induction l generalizing s t pa with
  | nil => exact hm
  | cons o l ih =>
    cases o with
    | none => exact ih hm hd _
    | some v =>
      simp only [State.poke, hd]
      split
      · exact ih hm hd _
      · exact ih (s := { s with mem := cellSet s.mem pa v }) (t := { t with mem := cellSet t.mem pa v }) (congrArg (cellSet · pa v) hm) hd _

theorem noteBy_poke_mem (s : State) (b k space pa n a : Nat) (l : List (Option Byte)) : ((noteBy s b k space pa n).poke a l).mem = (s.poke a l).mem := by
  exact poke_mem_congr (noteBy_mem ..) (noteBy_inDeque s b k space pa n) a l

theorem flights_wakeBrick (s : State) (b c : Nat) : ((wakeBrick s c).brick b).flights = (s.brick b).flights := by
  unfold wakeBrick
  refine s.field_modBrick c Brick.flights ?_ b
  exact fun _ => rfl

/-- A store that lands in SRAM or HBM writes its bytes, and has arrived. -/
theorem landFlight_writes (hact : g.act = .write l) (hop : g.op = none) (hclass : paClass pa = 0 ∨ paClass pa = 1) (hd : s.inDeque pa = false) :
    (landFlight s b g pa).mem = (s.poke pa (s.soft pa l)).mem ∧ ∀ q ∈ ((landFlight s b g pa).brick b).flights, q.id = g.id → q.arrived = true := by
  have hperform := performAct_write (s := noteBy s b g.strand g.space pa g.len) (l := l) (pa := pa) (by rw [noteBy_inDeque]; exact hd)
  have hhost : (decide (paClass pa = 3) && decide (pa < 2 ^ 52)) = false := by
    rw [Bool.and_eq_false_iff]
    left
    rcases hclass with h | h <;> rw [h] <;> rfl
  have hmem : ((noteBy s b g.strand g.space pa g.len).writeOpt pa (s.soft pa l)).mem = (s.poke pa (s.soft pa l)).mem := by
    rw [State.writeOpt_eq]
    exact noteBy_poke_mem ..
  rw [landFlight, hact, hperform]
  simp only [hhost, hop, scatterDone, noteBy_soft, Bool.false_eq_true, if_false]
  split
  · refine ⟨hmem, fun q hq hid => ?_⟩
    rw [flights_wakeBrick] at hq
    obtain ⟨x, rfl⟩ := modFlight_forall (g := fun q => { q with arrived := true, posted := false }) hq hid
    rfl
  · refine ⟨hmem, fun q hq hid => ?_⟩
    obtain ⟨x, rfl⟩ := modFlight_forall (g := fun q => { q with arrived := true, posted := false }) hq hid
    rfl

/-- A store to SRAM or HBM that is translated lands once its home is ready. -/
theorem arriveFlight_lands (hact : g.act = .write l) (hclass : paClass pa = 0 ∨ paClass pa = 1) (hready : s.homeReady pa = true) :
    arriveFlight s b g pa = landFlight s b g pa := by
  have hne {c : Nat} (hc : 2 ≤ c) : paClass pa ≠ c := by omega
  have hlink : s.linkDown b g.space g.ea.toNat pa = false := by
    rcases hclass with h | h <;> simp [State.linkDown, h]
  have hdoor : doorbellOf pa = none := if_neg fun ⟨h, _⟩ => hne (by decide) h
  have hstart : isStart pa = false := by simp [isStart, hne (c := 4) (by decide)]
  have hhost : isHost pa = false := by simp [isHost, hne (c := 3) (by decide)]
  have hmay : s.mayReach g.id pa = true := by rw [State.mayReach, hready, Bool.true_or]
  simp only [arriveFlight, hlink, hdoor, hstart, hhost, hmay, hact, Bool.false_eq_true, and_false, false_and, Bool.not_true, if_false]

theorem arrival_writes (hf : (s.brick b).flights[n]? = some f) (harr : f.arrived = false)
    (hg : ((translateUpTo s b f.id).brick b).flights.find? (fun q => q.id = f.id && !q.arrived) = some g) (haccess : g.access = .store)
    (hact : g.act = .write l) (hpa : g.pa = some pa) (hop : g.op = none)
    (hline : (translateUpTo s b f.id).lineBusy b g.strand g.id g.space g.ea.toNat (some pa) = false) (hown : earlierOwn (translateUpTo s b f.id) b g = false)
    (hclass : paClass pa = 0 ∨ paClass pa = 1) (hready : (translateUpTo s b f.id).homeReady pa = true)
    (hd : (translateUpTo s b f.id).inDeque pa = false) : ∃ t, exec (.remoteStoreArrival b n) s = .next t ∧
      t.mem = ((translateUpTo s b f.id).poke pa ((translateUpTo s b f.id).soft pa l)).mem ∧ ∀ q ∈ (t.brick b).flights, q.id = g.id → q.arrived = true := by
  refine ⟨_, ?_, landFlight_writes hact hop hclass hd⟩
  rw [exec_remoteStoreArrival, execRemoteStoreArrival, hf]
  simp only [harr, hg, haccess, hpa, hline, hown, arriveFlight_lands hact hclass hready, reduceCtorEq, Bool.or_self, Bool.false_eq_true, if_false]

/-- A retired store that finds no mapping is dropped, as REVOKED. -/
theorem arrival_revoked (hf : (s.brick b).flights[n]? = some f) (harr : f.arrived = false) (haccess : f.access = .store) (hneed : f.act.need = needStore)
    (hone : (s.brick b).flights.filter (fun q => q.pa.isNone && !q.arrived && decide (q.id ≤ f.id)) = [f])
    (hc : s.check b f.space f.ea.toNat needStore = .error .notMapped) (hun : s.unmapped b f.space f.ea.toNat = true) (hop : f.op = none) :
    ∃ t, exec (.remoteStoreArrival b n) s = .next t ∧ t.mem = s.mem ∧ (∀ g ∈ (t.brick b).flights, g.id = f.id → g.arrived = true) ∧
      ∃ u : State, u.net = s.net ∧ t.net = (u.sendFault ⟨f.space, .revoked, b, f.strand, .store, true, f.pc, f.ea, 0, 0⟩).net := by
  have ht : translateUpTo s b f.id = dropFlight s b f .revoked := by
    rw [translateUpTo_of_one hone, translateFlight, hneed, hc, hun]
    rfl
  have hdrop := dropFlight_reports (s := s) (b := b) Code.revoked hop
  have ⟨_, harrived, _⟩ := hdrop
  have hfind : ((dropFlight s b f .revoked).brick b).flights.find? (fun g => g.id = f.id && !g.arrived) = none := by
    rw [List.find?_eq_none]
    intro g hg hid
    rw [Bool.and_eq_true, decide_eq_true_eq] at hid
    rw [harrived g hg hid.1] at hid
    exact Bool.false_ne_true hid.2
  rw [haccess] at hdrop
  refine ⟨_, ?_, hdrop⟩
  rw [exec_remoteStoreArrival, execRemoteStoreArrival, hf]
  simp only [harr, ht, hfind, Bool.false_eq_true, if_false]
end

/-! Acknowledgement (R114, R192). -/

/-- What the end of a drain leaves of a brick's retired accesses: memory, the flights, and what every strand counts of them. -/
def State.SameCounts (s t : State) (b : Nat) : Prop :=
  t.mem = s.mem ∧ (t.brick b).flights = (s.brick b).flights ∧
    ∀ k, (t.strand b k).unacked = (s.strand b k).unacked ∧ (t.strand b k).binds = (s.strand b k).binds

theorem State.brick_modFoot (s : State) (key : Nat) (f : Foot → Foot) (c : Nat) : (s.modFoot key f).brick c = s.brick c := rfl

theorem sameCounts_endDrain (b ctx : Nat) (s : State) (o : Op) : s.SameCounts (endDrain b ctx s o) b := by
  unfold endDrain
  split
  next key d hkind =>
    rw [State.SameCounts, State.brick_modFoot]
    refine ⟨rfl, ?_, fun k => ?_⟩
    · refine s.field_modBrick b Brick.flights ?_ b
      exact fun _ => rfl
    have hstrand : (((s.modBrick b fun x => (x.modOp o.id fun o => { o with kind := .foot key d false }).rrbClear).brick b).strand k) =
        { s.strand b k with ops := (s.strand b k).ops.map fun q => if q.id = o.id then { q with kind := .foot key d false } else q } := by
      rw [State.brick_modBrick_same]
      simp only [Brick.rrbClear, Brick.rrbCut, Brick.modOp, Brick.strand, Vector.get_eq_getElem, Vector.getElem_map]
      rfl
    rw [State.strand, State.brick_modFoot, hstrand]
    exact ⟨rfl, rfl⟩
  · exact ⟨rfl, rfl, fun _ => ⟨rfl, rfl⟩⟩

theorem sameCounts_endDrains (b ctx : Nat) (s : State) (l : List Op) : s.SameCounts (l.foldl (endDrain b ctx) s) b := by
  induction l generalizing s with
  | nil => exact ⟨rfl, rfl, fun _ => ⟨rfl, rfl⟩⟩
  | cons o l ih =>
    obtain ⟨hmem, hflights, hstrands⟩ := ih (endDrain b ctx s o)
    obtain ⟨hmem', hflights', hstrands'⟩ := sameCounts_endDrain b ctx s o
    exact ⟨hmem.trans hmem', hflights.trans hflights', fun k => ⟨(hstrands k).1.trans (hstrands' k).1, (hstrands k).2.trans (hstrands' k).2⟩⟩

/-- The machine once the acknowledgement of flight f is counted on strand k, the drains of its fbar.m aside. -/
def State.acknowledged (s : State) (b : Nat) (k : Fin 5) (f : Flight) : State :=
  (s.modBrick b fun x => { x with flights := x.flights.filter fun q => q.id ≠ f.id }).modStrand b k fun x => x.acknowledge f

theorem storeAcknowledge_counts {s : State} {b : Nat} {k : Fin 5} {f : Flight} (hf : (s.brick b).flights.find? (fun g => g.id = f.id) = some f)
    (harr : f.arrived = true) (hposted : f.posted = false) (hcounted : f.counted = true) (hk : f.strand = k.val) :
    ∃ t, exec (.storeAcknowledge b f.id) s = .next t ∧ (t.strand b k).unacked = (s.strand b k).unacked - 1 ∧
      (t.strand b k).binds = bumpBinds (s.strand b k).binds f.binds (· - 1) ∧ (∀ g ∈ (t.brick b).flights, g.id ≠ f.id) ∧ t.mem = s.mem := by
  have hstrand : (s.acknowledged b k f).strand b k =
      { s.strand b k with unacked := (s.strand b k).unacked - 1, binds := bumpBinds (s.strand b k).binds f.binds (· - 1) } := by
    rw [State.acknowledged, State.strand_modStrand_same, State.strand, State.brick_modBrick_same, Strand.acknowledge, if_pos hcounted]
    rfl
  have hflights : ((s.acknowledged b k f).brick b).flights = (s.brick b).flights.filter fun q => q.id ≠ f.id := by
    rw [State.acknowledged, State.brick_modStrand_same, State.brick_modBrick_same]
    rfl
  have hlt : f.strand < 5 := hk ▸ k.isLt
  have hfin : (⟨f.strand, hlt⟩ : Fin 5) = k := Fin.ext hk
  have hexec : ∃ t, exec (.storeAcknowledge b f.id) s = .next t ∧ (s.acknowledged b k f).SameCounts t b := by
    rw [exec_storeAcknowledge, execStoreAcknowledge, hf]
    simp only [harr, hposted, hlt, hfin, Bool.not_true, Bool.false_eq_true, or_self, if_false, dite_true]
    refine ⟨_, rfl, ?_⟩
    split
    · exact sameCounts_endDrains ..
    · exact ⟨rfl, rfl, fun _ => ⟨rfl, rfl⟩⟩
  obtain ⟨t, ht, hmem, hfl, hcounts⟩ := hexec
  obtain ⟨hunacked, hbinds⟩ := hcounts k
  rw [hstrand] at hunacked hbinds
  refine ⟨t, ht, hunacked, hbinds, fun g hg => ?_, hmem⟩
  rw [hfl, hflights] at hg
  exact of_decide_eq_true (List.mem_filter.1 hg).2

/-! The remote read buffer and ring entries (R112, R23). -/

/-- Once an operation's result is known, no ring entry of its number is left but one that a late fault marked. -/
theorem ring_of_freeSeq {x : Brick} {k : Fin 5} {ctx : Nat} {q : BitVec 32} {e : RingEntry} (he : e ∈ ((x.freeSeq ctx (some q)).strand k).ring)
    (htag : e.tag = ctx) (hseq : e.seq = q) : e.fault.isSome = true := by
  simp only [Brick.freeSeq, Brick.strand, Vector.get_eq_getElem, Vector.getElem_map] at he
  have hkept := (List.mem_filter.1 he).2
  simpa [htag, hseq, Option.isSome_iff_ne_none] using hkept

theorem ringEntryComplete_frees {s : State} {b id : Nat} {k : Fin 5} {o : Op} {q : BitVec 32} (ho : (s.brick b).findOp id = some (k, o)) (hdone : o.done = true)
    (hseq : o.seq = some q) : ∃ t, exec (.ringEntryComplete b id) s = .next t ∧
      ∀ e ∈ (t.strand b k).ring, e.tag = (s.strand b k).ctxKey → e.seq = q → e.fault.isSome = true := by
  refine ⟨s.modBrick b fun x => x.freeSeq (s.strand b k).ctxKey (some q), ?_, fun e he => ring_of_freeSeq (x := s.brick b) (k := k) ?_⟩
  · rw [exec_ringEntryComplete, execRingEntryComplete, ho]
    simp only [hdone, hseq, if_true]
  · rwa [State.strand, State.brick_modBrick_same] at he

/-- Settles O11: every store is storeBody, which retires beyond the local window; then the flight's own steps. -/
theorem remoteStoresRetireArriveAndAreAcknowledged : Obligations.RemoteStoresRetireArriveAndAreAcknowledged := by
  unfold Obligations.RemoteStoresRetireArriveAndAreAcknowledged
  refine ⟨fun s d b o hops hun => ⟨store_retires (exec_stB s d b o) hops hun, store_retires (exec_stH s d b o) hops hun,
    store_retires (exec_stW s d b o) hops hun, store_retires (exec_stD s d b o) hops hun⟩, ⟨?writes, ?places, ?revoked, ?acknowledged⟩, ?evicts, ?frees⟩
  case writes =>
    intro s b n f g l pa hf harr u hg haccess hact hpa hop hline hown hclass _ hready hd
    exact arrival_writes hf harr hg haccess hact hpa hop hline hown hclass hready hd
  case places =>
    rintro s s' b n f p hone rfl hc hap
    rw [translateUpTo_of_one hone]
    exact translateFlight_places hc hap
  case revoked => exact fun s b n f => arrival_revoked
  case acknowledged => exact fun s b k f => storeAcknowledge_counts
  case evicts => exact fun s b n => ⟨_, rfl, by rw [State.brick_modBrick_same], rfl⟩
  case frees => exact fun s b id k o q => ringEntryComplete_frees

end Sys2Proof.Machine
end

section
/-! SUPPORT. Vector registers lane by lane: elements, masks of active lanes and results under predication, and the statements about integer
vectors, compares and predicates, permutes, scans and reductions. -/

open Sys2Proof Sys2Proof.Machine

namespace Sys2Proof.Machine

/-! Numbers by their digits. -/

section
variable {b w : Nat} {f : Nat → Nat}

theorem digits_succ (b : Nat) (f : Nat → Nat) (n j : Nat) : digits b f (n + 1) j = digits b f n j + b ^ n * f (j + n) := by
  induction n generalizing j with
  | zero => simp [digits]
  | succ n ih =>
    rw [digits, ih, digits, Nat.add_assoc j 1 n, Nat.add_comm 1 n]
    ring

theorem digits_lt (hf : ∀ j, f j < b) (n j : Nat) : digits b f n j < b ^ n := by
  induction n with
  | zero => exact Nat.one_pos
  | succ n ih =>
    have hmul : b ^ n * (f (j + n) + 1) ≤ b ^ n * b := Nat.mul_le_mul_left _ (hf _)
    rw [digits_succ, Nat.pow_succ]
    rw [Nat.mul_succ] at hmul
    omega

theorem digits_div_mod (hf : ∀ j, f j < b) {n i : Nat} (h : i < n) (j : Nat) : digits b f n j / b ^ i % b = f (j + i) := by
  have hb : 0 < b := Nat.zero_lt_of_lt (hf 0)
  induction i generalizing n j with
  | zero =>
    obtain ⟨n, rfl⟩ := Nat.exists_eq_succ_of_ne_zero (by omega : n ≠ 0)
    rw [digits, Nat.pow_zero, Nat.div_one, Nat.add_mul_mod_self_left, Nat.mod_eq_of_lt (hf j), Nat.add_zero]
  | succ i ih =>
    obtain ⟨n, rfl⟩ := Nat.exists_eq_succ_of_ne_zero (by omega : n ≠ 0)
    have hdiv : digits b f (n + 1) j / b = digits b f n (j + 1) := by
      rw [digits, Nat.add_mul_div_left _ _ hb, Nat.div_eq_of_lt (hf j), Nat.zero_add]
    rw [Nat.pow_succ', ← Nat.div_div_eq_div_mul, hdiv, ih (by omega), Nat.add_assoc, Nat.add_comm 1]

/-- Bit k of a number whose digits have w bits is a bit of its digit k / w. -/
theorem testBit_digits (hf : ∀ j, f j < 2 ^ w) {n k : Nat} (h : k < w * n) (j : Nat) :
    (digits (2 ^ w) f n j).testBit k = (f (j + k / w)).testBit (k % w) := by
  have hw : 0 < w := Nat.pos_of_ne_zero fun h0 => by simp [h0] at h
  have hk : k / w < n := Nat.div_lt_of_lt_mul h
  rw [← digits_div_mod hf hk j, Nat.testBit_mod_two_pow, decide_eq_true (Nat.mod_lt k hw), Bool.true_and, ← Nat.pow_mul,
    Nat.testBit_div_two_pow, Nat.mod_add_div]
end

/-! Elements (R17). -/

theorem toNat_ofNat_of_lt {m x : Nat} (h : x < 2 ^ m) : (BitVec.ofNat m x).toNat = x := by rw [BitVec.toNat_ofNat, Nat.mod_eq_of_lt h]

section
variable {w j : Nat}

theorem elem_lt (v : VReg) (w j : Nat) : elem v w j < 2 ^ (8 * w) := Nat.mod_lt _ (Nat.two_pow_pos _)

theorem testBit_elem (v : VReg) (w j i : Nat) : (elem v w j).testBit i = (decide (i < 8 * w) && v.getLsbD (8 * w * j + i)) := by
  rw [elem, Nat.testBit_mod_two_pow, Nat.testBit_div_two_pow, Nat.add_comm i, BitVec.getLsbD]

theorem elem_buildV (hw : w ∣ 64) (f : Nat → Nat) (hj : j < 64 / w) : elem (buildV w f) w j = f j % 2 ^ (8 * w) := by
  have hf : ∀ j, f j % 2 ^ (8 * w) < 2 ^ (8 * w) := fun _ => Nat.mod_lt _ (Nat.two_pow_pos _)
  have hsize : (2 ^ (8 * w)) ^ (64 / w) = 2 ^ 512 :=
    (Nat.pow_mul ..).symm.trans (congrArg (2 ^ ·) (by rw [Nat.mul_assoc, Nat.mul_div_cancel' hw]))
  have hlt := digits_lt hf (64 / w) 0
  rw [hsize] at hlt
  rw [elem, buildV, elems, toNat_ofNat_of_lt hlt, Nat.pow_mul 2 (8 * w) j, digits_div_mod hf hj, Nat.zero_add]

theorem widthOf_dvd (g : BitVec 2) : widthOf g ∣ 64 := by
  revert g
  decide
end

/-! Masks of lanes (R17, R132). -/

section
variable {w : Nat}

/-- A mask whose digit j is all ones where f j holds. -/
theorem getLsbD_mask (hw : w ∣ 64) (f : Nat → Bool) {k : Nat} (hk : k < 64) :
    (BitVec.ofNat 64 (digits (2 ^ w) (fun j => if f j then 2 ^ w - 1 else 0) (elems w) 0)).getLsbD k = f (k / w) := by
  have hpos : 0 < w := Nat.pos_of_dvd_of_pos hw (by decide)
  have hf : ∀ j, (if f j then 2 ^ w - 1 else 0) < 2 ^ w := fun j => by
    have := Nat.two_pow_pos w
    split <;> omega
  rw [BitVec.getLsbD_ofNat, decide_eq_true hk, Bool.true_and, testBit_digits hf (by rwa [elems, Nat.mul_div_cancel' hw]), Nat.zero_add]
  cases f (k / w) with
  | false => exact Nat.zero_testBit _
  | true =>
    rw [if_pos rfl, Nat.testBit_two_pow_sub_one]
    exact decide_eq_true (Nat.mod_lt k hpos)

theorem getLsbD_activeLanes (hw : w ∣ 64) (p : PReg) {k : Nat} (hk : k < 64) : (activeLanes p w).getLsbD k = active p w (k / w) :=
  getLsbD_mask hw (active p w) hk

theorem getLsbD_laneBits (p : PReg) {i : Nat} (hi : i < 512) : (laneBits p).getLsbD i = p.getLsbD (i / 8) := by
  have hdigits (n : Nat) : (List.range n).foldl (fun a i => if p.getLsbD i then a + 255 * 256 ^ i else a) 0 =
      digits (2 ^ 8) (fun i => if p.getLsbD i then 2 ^ 8 - 1 else 0) n 0 := by
    induction n with
    | zero => rfl
    | succ n ih =>
      rw [List.range_succ, List.foldl_append, ih, digits_succ, Nat.zero_add, List.foldl_cons, List.foldl_nil]
      split
      · exact congrArg (_ + ·) (Nat.mul_comm ..)
      · rfl
  have hf : ∀ i, (if p.getLsbD i then 2 ^ 8 - 1 else 0) < 2 ^ 8 := fun i => by split <;> decide
  rw [laneBits, hdigits, BitVec.getLsbD_ofNat, decide_eq_true hi, Bool.true_and, testBit_digits hf (by omega), Nat.zero_add]
  cases p.getLsbD (i / 8) with
  | false => exact Nat.zero_testBit _
  | true =>
    rw [if_pos rfl, Nat.testBit_two_pow_sub_one]
    exact decide_eq_true (Nat.mod_lt i (by decide))

theorem getLsbD_mergeLanes (old new : VReg) (mask : PReg) (zero : Bool) {i : Nat} (hi : i < 512) :
    (mergeLanes old new mask zero).getLsbD i =
      if mask.getLsbD (i / 8) then new.getLsbD i else if zero then false else old.getLsbD i := by
  have hold : (if zero then (0 : VReg) else old &&& ~~~laneBits mask).getLsbD i =
      (!zero && (old.getLsbD i && !mask.getLsbD (i / 8))) := by
    cases zero
    · rw [if_neg Bool.false_ne_true, BitVec.getLsbD_and, BitVec.getLsbD_not, getLsbD_laneBits mask hi, decide_eq_true hi]
      simp
    · simp
  rw [mergeLanes, BitVec.getLsbD_or, BitVec.getLsbD_and, getLsbD_laneBits mask hi, hold]
  cases zero <;> cases mask.getLsbD (i / 8) <;> simp

/-- An active element is the new one; the others keep their value or become zero (R132). -/
theorem elem_mergeLanes (hw : w ∣ 64) (old new : VReg) (p : PReg) (zero : Bool) {j : Nat} (hj : j < 64 / w) :
    elem (mergeLanes old new (activeLanes p w) zero) w j =
      if active p w j then elem new w j else if zero then 0 else elem old w j := by
  have hpos : 0 < w := Nat.pos_of_dvd_of_pos hw (by decide)
  have hsize : w * (64 / w) = 64 := Nat.mul_div_cancel' hw
  apply Nat.eq_of_testBit_eq
  intro i
  rw [testBit_elem]
  by_cases hi : i < 8 * w
  · have hle : w * (j + 1) ≤ w * (64 / w) := Nat.mul_le_mul_left w hj
    rw [Nat.mul_succ, hsize] at hle
    have hbit : 8 * w * j + i < 512 := by
      rw [Nat.mul_assoc]
      omega
    have hlane : (8 * w * j + i) / 8 / w = j := by
      rw [Nat.div_div_eq_div_mul, Nat.mul_add_div (by omega), Nat.div_eq_of_lt hi, Nat.add_zero]
    rw [getLsbD_mergeLanes _ _ _ _ hbit, getLsbD_activeLanes hw p (by omega), hlane, decide_eq_true hi, Bool.true_and]
    cases active p w j <;> cases zero <;> simp [testBit_elem, hi]
  · have hzero : ∀ x : Nat, x < 2 ^ (8 * w) → x.testBit i = false := fun x hx =>
      Nat.testBit_lt_two_pow (Nat.lt_of_lt_of_le hx (Nat.pow_le_pow_right (by decide) (by omega)))
    rw [decide_eq_false hi, Bool.false_and, hzero]
    split
    · exact elem_lt ..
    · split
      · exact Nat.two_pow_pos _
      · exact elem_lt ..
end

/-! Results under predication (R132, R143, R47). -/

theorem State.putV_eq (s : State) (d : BitVec 5) (w : Nat) (v : VReg) :
    s.putV d w v = s.setV d (mergeLanes (s.me.vreg d) v (activeLanes s.me.pred w) s.me.zeroing) := State.modMe_congr rfl

theorem getLsbD_foldl_or {α : Type} (l : List α) (c : α → Bool) (f : α → BitVec 5) (a : BitVec 5) (b : Nat) :
    (l.foldl (fun a j => if c j then a ||| f j else a) a).getLsbD b = (a.getLsbD b || l.any fun j => c j && (f j).getLsbD b) := by
  induction l generalizing a with
  | nil => simp
  | cons j t ih =>
    rw [List.foldl_cons, ih, List.any_cons]
    cases c j
    · simp
    · simp [Bool.or_assoc]

theorem flagsOf_orFlags (s : State) (w : Nat) (g : Nat → BitVec 5) : FlagsOf s w g (orFlags s.me.pred w g) := by
  intro b
  rw [orFlags, getLsbD_foldl_or]
  simp [elems]

section
variable {i : Instr} {s : State} {d : BitVec 5} {a b : Src} {w : Nat} {f : Nat → Int} (hw : w ∣ 64)
include hw

/-- An instruction that puts a register's elements gives them lane by lane. -/
theorem lanesGive_of_run {g : State → VReg} (he : exec i s = run i s fun s => .ok (s.putV d w (g s)))
    (hg : ∀ j, j < 64 / w → (elem (g s) w j : Int) = f j % 2 ^ (8 * w)) (h : Accepts i s) : LanesGive i s d w f := by
  refine ⟨_, he.trans (run_ok h (congrArg Except.ok (s.putV_eq d w (g s)))), fun j hj => ?_⟩
  rw [elem_mergeLanes hw _ _ _ _ hj, ← hg j hj]
  cases active s.me.pred w j <;> cases s.me.zeroing <;> rfl

theorem lanesGive_buildV {g : State → Nat → Nat} (he : exec i s = run i s fun s => .ok (s.putV d w (buildV w (g s))))
    (hg : ∀ j, j < 64 / w → (g s j : Int) % 2 ^ (8 * w) = f j % 2 ^ (8 * w)) : Accepts i s → LanesGive i s d w f :=
  lanesGive_of_run hw he fun j hj => by rw [elem_buildV hw _ hj, ← hg j hj]; push_cast; rfl

theorem lanesGive_vecI2 {g : Nat → Nat → Nat → Nat} (he : exec i s = vecI2 i d a b w g s)
    (hg : ∀ j, (g (8 * w) (elem (s.vsrc a (b.k ≠ 3) w) w j) (elem (s.vsrc b true w) w j) : Int) % 2 ^ (8 * w) = f j % 2 ^ (8 * w)) :
    Accepts i s → LanesGive i s d w f :=
  lanesGive_buildV hw (g := fun s j => g (8 * w) (elem (s.vsrc a (b.k ≠ 3) w) w j) (elem (s.vsrc b true w) w j)) he fun j _ => hg j

theorem lanesGive_vecI1 {g : Nat → Nat → Nat} (he : exec i s = vecI1 i d a w g s)
    (hg : ∀ j, (g (8 * w) (elem (s.vsrc a true w) w j) : Int) % 2 ^ (8 * w) = f j % 2 ^ (8 * w)) : Accepts i s → LanesGive i s d w f :=
  lanesGive_buildV hw (g := fun s j => g (8 * w) (elem (s.vsrc a true w) w j)) he fun j _ => hg j
end

/-! Element functions modulo the element's width (R38, R39, R142). -/

section
variable {n : Nat}

theorem wrapN_emod (n : Nat) (v : Int) : (wrapN n v : Int) % 2 ^ n = v % 2 ^ n := by
  have hpos : (0 : Int) < 2 ^ n := by positivity
  rw [wrapN, Nat.cast_pow, Nat.cast_ofNat, Int.toNat_of_nonneg (Int.emod_nonneg v hpos.ne'), Int.emod_emod_of_dvd v (dvd_refl _)]

theorem natCast_mod_emod (n x : Nat) : ((x % 2 ^ n : Nat) : Int) % 2 ^ n = (x : Int) % 2 ^ n := by
  rw [Int.natCast_mod, Nat.cast_pow, Nat.cast_ofNat, Int.emod_emod_of_dvd _ (dvd_refl _)]

theorem toS_emod (x n : Nat) : toS x n % 2 ^ n = (x : Int) % 2 ^ n := by
  rw [← natCast_mod_emod n x, toS]
  split
  · rfl
  · push_cast
    rw [Int.sub_emod_right]

theorem satS_emod (n : Nat) (v : Int) : (satS n v : Int) % 2 ^ n = max (-2 ^ (n - 1)) (min (2 ^ (n - 1) - 1) v) % 2 ^ n := by
  rw [satS, wrapN_emod]
  push_cast
  rfl
theorem satU_emod (n : Nat) (v : Int) : (satU n v : Int) % 2 ^ n = max 0 (min (2 ^ n - 1) v) % 2 ^ n := by
  rw [satU, wrapN_emod]
  push_cast
  rfl

theorem elEdge_wrap_emod (n : Nat) (v : Int) : (elEdge 0 n v : Int) % 2 ^ n = v % 2 ^ n := wrapN_emod n v
theorem elEdge_sat_emod (n : Nat) (v : Int) : (elEdge 1 n v : Int) % 2 ^ n = max (-2 ^ (n - 1)) (min (2 ^ (n - 1) - 1) v) % 2 ^ n :=
  satS_emod n v

theorem elMin_emod (n x y : Nat) : (elMin n x y : Int) % 2 ^ n = min (toS x n) (toS y n) % 2 ^ n := by
  rw [elMin]
  split
  next h => rw [min_eq_right h.le, toS_emod]
  next h => rw [min_eq_left (not_lt.1 h), toS_emod]
theorem elMax_emod (n x y : Nat) : (elMax n x y : Int) % 2 ^ n = max (toS x n) (toS y n) % 2 ^ n := by
  rw [elMax]
  split
  next h => rw [max_eq_right h.le, toS_emod]
  next h => rw [max_eq_left (not_lt.1 h), toS_emod]
end

/-- Settles O14: every instruction is vecI1 or vecI2, and its function of two elements is the stated one modulo the width. -/
theorem integerVectorsComputeLaneByLane : Obligations.IntegerVectorsComputeLaneByLane := by
  unfold Obligations.IntegerVectorsComputeLaneByLane
  intro s d a b g
  have hw := widthOf_dvd g
  have h1 : 1 ∣ 64 := one_dvd 64
  refine ⟨fun ext j hk hj => ?source, lanesGive_vecI2 hw (exec_vadd ..) fun j => ?vadd, lanesGive_vecI2 hw (exec_vsub ..) fun j => ?vsub,
    lanesGive_vecI2 hw (exec_vadd ..) fun j => satS_emod _ _, lanesGive_vecI2 hw (exec_vsub ..) fun j => satS_emod _ _,
    lanesGive_vecI2 hw (exec_vadd ..) fun j => satU_emod _ _, lanesGive_vecI2 hw (exec_vsub ..) fun j => satU_emod _ _,
    lanesGive_vecI2 hw (exec_vmul ..) fun j => ?vmul, lanesGive_vecI2 hw (exec_vmulh ..) fun j => ?vmulh,
    lanesGive_vecI2 hw (exec_vmin ..) fun j => elMin_emod _ _ _, lanesGive_vecI2 hw (exec_vmax ..) fun j => elMax_emod _ _ _,
    lanesGive_vecI1 hw (exec_vabs ..) fun j => elEdge_wrap_emod _ _, lanesGive_vecI1 hw (exec_vneg ..) fun j => elEdge_wrap_emod _ _,
    lanesGive_vecI1 hw (exec_vabs ..) fun j => elEdge_sat_emod _ _, lanesGive_vecI1 hw (exec_vneg ..) fun j => elEdge_sat_emod _ _,
    lanesGive_vecI2 h1 (exec_vand ..) fun j => rfl, lanesGive_vecI2 h1 (exec_vor ..) fun j => rfl,
    lanesGive_vecI2 h1 (exec_vxor ..) fun j => rfl, lanesGive_vecI2 h1 (exec_vandn ..) fun j => rfl,
    lanesGive_vecI2 hw (exec_vshl ..) fun j => ?vshl, lanesGive_vecI2 hw (exec_vshr ..) fun j => ?vshr,
    lanesGive_vecI2 hw (exec_vsar ..) fun j => ?vsar, lanesGive_vecI1 hw (exec_vpopc ..) fun j => ?vpopc, fun h => ⟨_, lanesGive_vecI2 hw
      (exec_vclmul ..) (fun j => rfl) h, fun j k hk => ?vclmul⟩⟩
  case source => rw [State.vsrc, if_neg hk, elem_buildV hw _ hj]
  case vadd =>
    rw [elAdd, if_neg (by decide), if_neg (by decide), natCast_mod_emod]
    push_cast
    rfl
  case vsub =>
    rw [elSub, if_neg (by decide), if_neg (by decide), wrapN_emod]
  case vmul =>
    rw [natCast_mod_emod]
    push_cast
    rfl
  case vmulh =>
    rw [elMulh, wrapN_emod]
    push_cast
    rfl
  case vshl =>
    rw [natCast_mod_emod]
    push_cast
    rfl
  case vshr =>
    push_cast
    rfl
  case vsar =>
    rw [wrapN_emod]
    push_cast
    rfl
  case vpopc => rw [popCount_eq_length]
  case vclmul => rw [Nat.testBit_mod_two_pow, decide_eq_true hk, Bool.true_and, testBit_clprod]

/-! Compares and predicates (R143, R144). -/

theorem bitsGive_of_run {i : Instr} {s : State} {d : BitVec 3} {w : Nat} {f : Nat → Bool} {then_ : State → State}
    {body : State → Except Stop State} (hw : w ∣ 64) (he : exec i s = run i s body) (hb : body s = .ok (then_ (s.putP d w f)))
    (h : Accepts i s) : BitsGive i s d w f then_ :=
  ⟨_, he.trans (run_ok h hb), fun _ hk => getLsbD_mask hw (fun j => active s.me.pred w j && f j) hk⟩

theorem bitsGive_vecC2 {i : Instr} {s : State} {d : BitVec 3} {a b : Src} {w : Nat} {f : Nat → Bool} {g : Nat → Nat → Nat → Bool} (hw : w ∣ 64)
    (he : exec i s = vecC2 i d a b w g s)
    (hg : ∀ j, g (8 * w) (elem (s.vsrc a (b.k ≠ 3) w) w j) (elem (s.vsrc b true w) w j) = f j) : Accepts i s → BitsGive i s d w f id :=
  bitsGive_of_run hw he (congrArg (fun f => Except.ok (s.putP d w f)) (funext hg))

/-- A predicate instruction gives its bits under the governing predicate, and keeps the others (R144). -/
theorem predP_gives {i : Instr} {s : State} {d : BitVec 3} {f : Strand → PReg} {g : Nat → Bool} (he : exec i s = predP i d f s)
    (hg : ∀ k, k < 64 → (f s.me).getLsbD k = g k) (h : Accepts i s) : ∃ z : PReg, Completes i s ((s.setP d z).traceMe 2 0 z) ∧
      ∀ k, k < 64 → z.getLsbD k = if s.me.pred.getLsbD k then g k else (s.me.preg d).getLsbD k := by
  refine ⟨_, he.trans (run_ok h rfl), fun k hk => ?_⟩
  rw [BitVec.getLsbD_or, BitVec.getLsbD_and, BitVec.getLsbD_and, BitVec.getLsbD_not, decide_eq_true hk, hg k hk]
  cases s.me.pred.getLsbD k <;> simp

/-- The lowest one of a word alone (R144). -/
theorem getLsbD_and_neg (u : PReg) {k : Nat} (hk : k < 64) :
    (u &&& -u).getLsbD k = (u.getLsbD k && (List.range k).all fun i => !u.getLsbD i) := by
  have hall : (List.range k).all (fun i => !u.getLsbD i) = !decide (∃ j < k, u.getLsbD j = true) := by
    rw [Bool.eq_iff_iff]
    simp
  rw [BitVec.getLsbD_and, BitVec.getLsbD_neg, hall, decide_eq_true hk, Bool.true_and]
  cases u.getLsbD k <;> simp

/-- Settles O15: compares put a predicate by elements, predicate instructions merge theirs bit by bit. -/
theorem comparesAndPredicatesWriteTheirBits : Obligations.ComparesAndPredicatesWriteTheirBits := by
  unfold Obligations.ComparesAndPredicatesWriteTheirBits
  intro s d a b g p q r
  have hw := widthOf_dvd g
  refine ⟨bitsGive_vecC2 hw (exec_vcmpEq ..) fun j => ?eq, bitsGive_vecC2 hw (exec_vcmpNe ..) fun j => ?ne,
    bitsGive_vecC2 hw (exec_vcmpLt ..) fun _ => rfl, bitsGive_vecC2 hw (exec_vcmpLe ..) fun _ => rfl,
    bitsGive_vecC2 hw (exec_vcmpLtu ..) fun _ => rfl, bitsGive_vecC2 hw (exec_vcmpLeu ..) fun _ => rfl, predP_gives (exec_pand ..) fun k _ => BitVec.getLsbD_and, predP_gives (exec_por ..) fun k _ => BitVec.getLsbD_or,
    predP_gives (exec_pxor ..) fun k _ => BitVec.getLsbD_xor, predP_gives (exec_pnot ..) fun k hk => ?pnot,
    predP_gives (exec_pfirst ..) fun k hk => getLsbD_and_neg _ hk, predP_gives (exec_psMov ..) fun k _ => rfl, writesS_of_run (exec_pcnt ..) ?pcnt,
    fun h => ⟨_, (exec_pmovS ..).trans (run_ok h rfl), fun k _ => BitVec.getLsbD_and⟩, by decide, by decide⟩
  case eq => exact beq_eq_decide ..
  case ne => rw [bne, beq_eq_decide, ← decide_not]
  case pnot => rw [BitVec.getLsbD_not, decide_eq_true hk, Bool.true_and]
  case pcnt =>
    rw [popCount_eq_length]
    simp only [BitVec.testBit_toNat, BitVec.getLsbD_and]

/-! Permutes, scans and reductions (R151, R152). -/

theorem toS_mod (x n : Nat) : toS (x % 2 ^ n) n = toS x n := by rw [toS, toS, Nat.mod_mod]

/-- Flipping the lowest bit of a place goes to its neighbour in its pair. -/
theorem xor_one (j : Nat) : j ^^^ 1 = if j % 2 = 0 then j + 1 else j - 1 := by
  have hdiv : (j ^^^ 1) / 2 = j / 2 := by
    rw [← Nat.pow_one 2, Nat.xor_div_two_pow]
    simp
  have hmod : (j ^^^ 1) % 2 = (j % 2 + 1) % 2 := by
    rw [← Nat.pow_one 2, Nat.xor_mod_two_pow]
    rcases Nat.mod_two_eq_zero_or_one j with h | h <;> simp [h]
  split <;> omega

theorem shufIdx_eq (k : Int) (n j : Nat) : shufIdx (k % 4).toNat n j =
    if k % 4 = 0 then (if j < n / 2 then 2 * j else 2 * (j - n / 2) + 1)
    else if k % 4 = 1 then (if j % 2 = 0 then j / 2 else n / 2 + j / 2)
    else if k % 4 = 2 then n - 1 - j else if j % 2 = 0 then j + 1 else j - 1 := by
  have h4 : k % 4 = 0 ∨ k % 4 = 1 ∨ k % 4 = 2 ∨ k % 4 = 3 := by omega
  rw [shufIdx, xor_one]
  rcases h4 with h | h | h | h <;> rw [h] <;> rfl

theorem prefixSum_eq (p : PReg) (w : Nat) (x : Nat → Nat) (j : Nat) :
    prefixSum p w x j = (((List.range (j + 1)).filter fun i => active p w i).map x).sum := by
  have hfold (l : List Nat) (t : Nat) : l.foldl (fun t k => if active p w k then t + x k else t) t =
      t + ((l.filter fun i => active p w i).map x).sum := by
    induction l generalizing t with
    | nil => rfl
    | cons k l ih =>
      rw [List.foldl_cons, ih, List.filter_cons]
      split
      · rw [List.map_cons, List.sum_cons, Nat.add_assoc]
      · rfl
  rw [prefixSum, hfold, Nat.zero_add]

theorem match_eq_getD_map (x : Nat → Nat) (y : Nat) (o : Option Nat) : (match o with | some k => x k | none => y) = (o.map x).getD y := by
  cases o <;> rfl
theorem getD_map_lt {x : Nat → Nat} {y n : Nat} (hx : ∀ k, x k < n) (hy : y < n) (o : Option Nat) : (o.map x).getD y < n := by
  cases o with
  | none => exact hy
  | some k => exact hx k

section
variable {i : Instr} {s : State} {a b : Src} {w : Nat} (hw : w ∣ 64)
include hw

theorem lanesGive_permV {d : BitVec 5} {f : Nat → Int} {g : (Nat → Nat) → (Nat → Nat) → Int → Nat → Nat} (he : exec i s = permV i d a b w g s)
    (hg : ∀ j, j < 64 / w → (g (elem (s.vsrc a (b.k ≠ 3) w) w) (elem (s.vsrc b true w) w) (s.vint b w) j : Int) % 2 ^ (8 * w) = f j % 2 ^ (8 * w)) :
    Accepts i s → LanesGive i s d w f :=
  lanesGive_buildV hw (g := fun s => g (elem (s.vsrc a (b.k ≠ 3) w) w) (elem (s.vsrc b true w) w) (s.vint b w)) he hg

/-- An instruction that writes whole registers gives every element, active or not (R132). -/
theorem gives_wholeV {d : BitVec 5} {f : Nat → Nat} {g : PReg → (Nat → Nat) → Nat → Nat → Nat} (he : exec i s = wholeV i d a b w g s)
    (hg : ∀ j, g s.me.pred (elem (s.vsrc a (b.k ≠ 3) w) w) (elem (s.vsrc b true w) w 0) j = f j) (hf : ∀ j, f j < 2 ^ (8 * w)) (h : Accepts i s) :
    ∃ u, Completes i s (s.setV d u) ∧ ∀ j, j < 64 / w → elem u w j = f j := by
  refine ⟨_, he.trans (run_ok h rfl), fun j hj => ?_⟩
  rw [elem_buildV hw _ hj, State.vnum, hg, Nat.mod_eq_of_lt (hf j)]
end

section
variable {i : Instr} {s : State} {d : BitVec 4} {v : BitVec 5} {b : Src} {w : Nat}

theorem writesS_reduceV {t : Int} {g : Nat → Nat → Nat → Nat} (he : exec i s = reduceV i d v b w g s)
    (hg : toS ((actives s.me.pred w).foldl (fun t j => g (8 * w) t (elem (s.me.vreg v) w j)) (elem (s.vsrc b true w) w 0)) (8 * w) = t)
    (h : Accepts i s) : WritesS i s d (BitVec.ofInt 64 t) := by
  rw [← hg]
  exact he.trans (run_ok h rfl)
end

/-- A sum that is wrapped at every step is the sum, wrapped (R152). -/
theorem toS_foldl_add (n : Nat) (x : Nat → Nat) (l : List Nat) (t : Nat) :
    toS (l.foldl (fun t j => (t + x j) % 2 ^ n) t) n = toS (t + (l.map x).sum) n := by
  induction l generalizing t with
  | nil => rfl
  | cons j l ih => rw [List.foldl_cons, ih, List.map_cons, List.sum_cons, ← toS_mod, Nat.mod_add_mod, toS_mod, Nat.add_assoc]

theorem toS_elMin (n x y : Nat) : toS (elMin n x y) n = min (toS x n) (toS y n) := by
  rw [elMin]
  split
  next h => rw [min_eq_right h.le]
  next h => rw [min_eq_left (not_lt.1 h)]
theorem toS_elMax (n x y : Nat) : toS (elMax n x y) n = max (toS x n) (toS y n) := by
  rw [elMax]
  split
  next h => rw [max_eq_right h.le]
  next h => rw [max_eq_left (not_lt.1 h)]

/-- A fold of elements is the fold of their values, where each step is. -/
theorem toS_foldl {n : Nat} {g : Nat → Nat → Nat} {h : Int → Int → Int} (hg : ∀ t y, toS (g t y) n = h (toS t n) (toS y n)) (x : Nat → Nat)
    (l : List Nat) (t : Nat) : toS (l.foldl (fun t j => g t (x j)) t) n = (l.map fun j => toS (x j) n).foldl h (toS t n) := by
  induction l generalizing t with
  | nil => rfl
  | cons j l ih => rw [List.foldl_cons, ih, List.map_cons, List.foldl_cons, hg]

/-- A byte of a bitwise choice (R146). -/
theorem elem_select (m x o : VReg) (j : Nat) (hj : j < 64) :
    elem ((m &&& x) ||| (~~~m &&& o)) 1 j = (elem m 1 j &&& elem x 1 j) ||| ((255 - elem m 1 j) &&& elem o 1 j) := by
  have hm : elem m 1 j < 2 ^ 8 := elem_lt m 1 j
  apply Nat.eq_of_testBit_eq
  intro i
  rw [show 255 - elem m 1 j = 2 ^ 8 - (elem m 1 j + 1) by omega, Nat.testBit_or, Nat.testBit_and, Nat.testBit_and, Nat.testBit_two_pow_sub_succ hm]
  simp only [testBit_elem, BitVec.getLsbD_or, BitVec.getLsbD_and, BitVec.getLsbD_not]
  by_cases hi : i < 8
  · have hbit : 8 * 1 * j + i < 512 := by omega
    simp [hi, hbit]
  · simp [hi]

/-- Settles O16: permutes put the elements that their index names, scans and reductions fold the active ones. -/
theorem permutesScansAndReductions : Obligations.PermutesScansAndReductions := by
  unfold Obligations.PermutesScansAndReductions
  intro s d a b g r v
  have hw := widthOf_dvd g
  refine ⟨lanesGive_buildV hw (g := fun s _ => s.vnum a true (widthOf g)) (exec_vbcast ..) fun j _ => rfl,
    lanesGive_permV hw (exec_vperm ..) fun j _ => rfl, lanesGive_permV hw (exec_vshuf ..) fun j _ => ?vshuf,
    lanesGive_permV hw (exec_vslide ..) fun j _ => ?vslide, lanesGive_buildV hw (exec_vprefixAdd ..) fun j _ => ?vprefix,
    gives_wholeV hw (exec_vcompress ..) (fun j => ?compress) fun j => ?compressLt, gives_wholeV hw (exec_vexpand ..) (fun j => rfl) fun j => ?expandLt,
    writesS_reduceV (exec_vredadd ..) (toS_foldl_add ..), writesS_reduceV (exec_vredmin ..) (toS_foldl (toS_elMin _) ..),
    writesS_reduceV (exec_vredmax ..) (toS_foldl (toS_elMax _) ..), fun c => lanesGive_of_run (one_dvd 64) (exec_vsel ..) fun j hj => ?vsel⟩
  case vshuf => rw [shufIdx_eq]; rfl
  case vslide =>
    rw [slideEl, Nat.cast_ite]
    rfl
  case vprefix =>
    rw [natCast_mod_emod, prefixSum_eq]
    rfl
  case compress => exact match_eq_getD_map ..
  case compressLt => exact getD_map_lt (elem_lt _ _) (elem_lt ..) _
  case expandLt => 
    split <;> exact elem_lt ..
  case vsel =>
    have hlt : (elem ((s.vsrc c true 1 &&& s.me.vreg v) ||| (~~~s.vsrc c true 1 &&& s.vsrc b (c.k ≠ 3) 1)) 1 j : Int) < 2 ^ (8 * 1) :=
      Int.ofNat_lt.2 (elem_lt ..)
    rw [← elem_select _ _ _ _ hj, Int.emod_eq_of_lt (Int.natCast_nonneg _) hlt]

end Sys2Proof.Machine
end

section
/-! SUPPORT. Floating-point lanes: results and flags of the active elements, and the special operands, and the statement about them. -/

open Sys2Proof Sys2Proof.Machine

namespace Sys2Proof.Machine

/-! The formats of vector elements (R145). -/

theorem fmtOf_width (k : BitVec 2) : 8 * (fmtOf k).bytes = (fmtOf k).width := by
  revert k
  decide
theorem fmtOf_bytes_dvd (k : BitVec 2) : (fmtOf k).bytes ∣ 64 := by
  revert k
  decide

/-! Results and flags of the active elements (R47, R133). -/

section
variable {i : Instr} {s : State} {k : BitVec 2} {a b c : Src}

/-- An instruction that puts the results of the active elements and raises their flags computes lane by lane. -/
theorem fpGives_of_run {d : BitVec 5} {g : Nat → Nat × BitVec 5} {body : State → Except Stop State} (he : exec i s = run i s body)
    (hb : body s = .ok ((s.putV d (fmtOf k).bytes (buildV (fmtOf k).bytes fun j => if active s.me.pred (fmtOf k).bytes j then (g j).1 else 0)).raise
      (orFlags s.me.pred (fmtOf k).bytes fun j => (g j).2))) (h : Accepts i s) : FpGives i s d (fmtOf k) g := by
  rw [State.putV_eq] at hb
  refine ⟨_, _, he.trans (run_ok h hb), flagsOf_orFlags s _ _, fun j hj => ?_⟩
  rw [elem_mergeLanes (fmtOf_bytes_dvd k) _ _ _ _ hj, elem_buildV (fmtOf_bytes_dvd k) _ hj, fmtOf_width]
  split <;> rfl

theorem fpGives_vecF2 {d : BitVec 5} {r : Nat → Nat × BitVec 5} {g : FFmt → BitVec 2 → Nat → Nat → Nat × BitVec 5}
    (he : exec i s = vecF2 i d a b k g s) (hg : ∀ j, g (fmtOf k) s.me.rounding (elem (s.fsrc a (b.k ≠ 3) (fmtOf k)) (fmtOf k).bytes j)
      (elem (s.fsrc b true (fmtOf k)) (fmtOf k).bytes j) = r j) : Accepts i s → FpGives i s d (fmtOf k) r := by
  rw [← funext hg]
  exact fpGives_of_run he rfl

theorem fpGives_vecF1 {d : BitVec 5} {r : Nat → Nat × BitVec 5} {g : FFmt → BitVec 2 → Nat → Nat × BitVec 5} (he : exec i s = vecF1 i d a k g s)
    (hg : ∀ j, g (fmtOf k) s.me.rounding (elem (s.fsrc a true (fmtOf k)) (fmtOf k).bytes j) = r j) : Accepts i s → FpGives i s d (fmtOf k) r := by
  rw [← funext hg]
  exact fpGives_of_run he rfl

/-- A fused instruction rounds once, with the sign of its third operand turned or not. -/
theorem fpGives_fusedV {d v : BitVec 5} {neg : Bool} {r : Nat → Nat × BitVec 5} (he : exec i s = fusedV i d v b c neg s)
    (hg : ∀ j, let f := fmtOf s.me.fmt; let z := f.decode (elem (s.fsrc c true f) f.bytes j)
      fFma f s.me.rounding (f.decode (elem (s.me.vreg v) f.bytes j)) (f.decode (elem (s.fsrc b (c.k ≠ 3) f) f.bytes j))
        (if neg then z.negate else z) = r j) : Accepts i s → FpGives i s d (fmtOf s.me.fmt) r := by
  rw [← funext hg]
  exact fpGives_of_run he rfl

theorem bitsGive_vecFC {p : BitVec 3} {q : FCmp} (he : exec i s = vecFC i p a b k q s) (h : Accepts i s) :
    let f := fmtOf k
    let r j := fCompare f q (elem (s.fsrc a (b.k ≠ 3) f) f.bytes j) (elem (s.fsrc b true f) f.bytes j)
    ∃ fl, FlagsOf s f.bytes (fun j => (r j).2) fl ∧ BitsGive i s p f.bytes (fun j => (r j).1) fun u => u.raise fl :=
  ⟨_, flagsOf_orFlags s _ _, bitsGive_of_run (fmtOf_bytes_dvd k) he rfl h⟩
end

/-! Special operands (R41, R42, R45, R46). -/

section
variable (f : FFmt) (rm : BitVec 2) (n m b : Bool) {q : Nat} (e e' : Int)

/-- The sum of two zeros: a common sign stays, else it is −0 toward −∞ alone (R45). -/
theorem fAdd_zero_zero : fAdd f rm (.fin n 0 e) (.fin m 0 e') = (f.signed (if n = m then n else rm = 3) 0, 0) := by
  simp [fAdd, addFin]

theorem fAdd_inf_inf : fAdd f rm (.inf n) (.inf m) = if n = m then (f.signed n f.infBits, 0) else (f.nan, NV) := rfl

theorem fMul_inf_fin (hq : q ≠ 0) : fMul f rm (.inf n) (.fin m q e) = (f.signed (n != m) f.infBits, 0) := by
  simp [fMul, fProd, hq, fRound]

/-- ∞ − ∞ is invalid in a fused operation too (R46). -/
theorem fFma_inf_fin_inf (hq : q ≠ 0) : fFma f rm (.inf n) (.fin m q e) (.inf (n == m)) = (f.nan, NV) := by
  have hne : ¬((n != m) = (n == m)) := by cases n <;> cases m <;> decide
  simp [fFma, fProd, hq, fAdd, hne]

theorem fDiv_fin_zero (hq : q ≠ 0) : fDiv f rm (.fin n q e) (.fin m 0 e) = (f.signed (n != m) f.infBits, DZ) := by
  simp [fDiv, hq]

theorem fSqrt_negative (hq : q ≠ 0) : fSqrt f rm (.fin true q e) = (f.nan, NV) := by simp [fSqrt, hq]
theorem fRsqrt_negative (hq : q ≠ 0) : fRsqrt f rm (.fin true q e) = (f.nan, NV) := by simp [fRsqrt, hq]

theorem sigNV_nan (l : List FVal) (hl : sigNV l = 0) : sigNV (.nan b :: l) = if b then NV else 0 := by
  cases b
  · exact hl
  · rw [sigNV, hl]
    rfl

/-- A NaN operand gives the canonical NaN, and NV if it signals (R41, R42). -/
theorem nan_operand (x : Int) : fAdd f rm (.nan b) (.fin n q x) = (f.nan, if b then NV else 0) ∧
    fMul f rm (.fin n q x) (.nan b) = (f.nan, if b then NV else 0) ∧ fDiv f rm (.nan b) (.fin n q x) = (f.nan, if b then NV else 0) ∧
    fSqrt f rm (.nan b) = (f.nan, if b then NV else 0) :=
  ⟨congrArg (f.nan, ·) (sigNV_nan b [.fin n q x] rfl), congrArg (f.nan, ·) (sigNV_nan b [] rfl), congrArg (f.nan, ·) (sigNV_nan b [.fin n q x] rfl), rfl⟩
end

/-- Settles O17: every instruction puts the results of its active elements; the special operands are cases of the element functions. -/
theorem floatingVectorsRoundLaneByLane : Obligations.FloatingVectorsRoundLaneByLane := by
  unfold Obligations.FloatingVectorsRoundLaneByLane
  refine ⟨fun s d v p a b c k => ?lanes, fun k rm n m q e => ?special⟩
  case lanes =>
    exact ⟨fpGives_vecF2 (exec_vfadd ..) fun _ => rfl, fpGives_vecF2 (exec_vfsub ..) fun _ => rfl, fpGives_vecF2 (exec_vfmul ..) fun _ => rfl,
      fpGives_vecF2 (exec_vfmin ..) fun _ => rfl, fpGives_vecF2 (exec_vfmax ..) fun _ => rfl, fpGives_vecF1 (exec_vrcp ..) fun _ => rfl,
      fpGives_vecF1 (exec_vrsqrt ..) fun _ => rfl, bitsGive_vecFC (exec_vfcmpEq ..), bitsGive_vecFC (exec_vfcmpLt ..), bitsGive_vecFC (exec_vfcmpLe ..),
      bitsGive_vecFC (exec_vfcmpUn ..), fpGives_fusedV (exec_vfma ..) fun _ => rfl, fpGives_fusedV (exec_vfms ..) fun _ => rfl⟩
  case special =>
    intro f nan inf
    refine ⟨?opposite, ?same, rfl, rfl, rfl, fMul_inf_fin f rm n m e, fun z => rfl, fFma_inf_fin_inf f rm n m e, rfl, rfl, fDiv_fin_zero f rm n m e, rfl,
      fSqrt_negative f rm e, rfl, rfl, rfl, fRsqrt_negative f rm e, rfl, fun b x => nan_operand f rm n b x, ?zeros, ?signs⟩
    case opposite => exact (fAdd_inf_inf ..).trans (if_neg (Bool.eq_not_self n).1)
    case same => exact (fAdd_inf_inf ..).trans (if_pos rfl)
    case zeros => exact (fAdd_zero_zero ..).trans (by rw [if_pos rfl])
    case signs => exact (fAdd_zero_zero ..).trans (by rw [if_neg (Bool.eq_not_self n).1])

end Sys2Proof.Machine
end

section
/-! SUPPORT. Long vector operations, conversions, encodes and the tree sum: ring entries and their operations, blocks, the tree of R60 and the
rounding of data that a format holds, and the statement about them. -/

open Sys2Proof Sys2Proof.Machine

namespace Sys2Proof.Machine

/-! Dispatch under a ring entry (R23, R71). -/

/-- The ring entry that a dispatch of instruction i takes. -/
def State.ringEntry (s : State) (i : Instr) (kind : Nat) (args : BitVec 32) (addr : Word) : RingEntry :=
  ⟨s.me.seqNext, kind, none, s.me.pc, BitVec.ofNat 32 (encode i), args, addr, s.me.ctxKey, false⟩

/-- The state in which the moving strand has taken a ring entry. -/
def State.withEntry (s : State) (e : RingEntry) : State := s.modMe fun x => { x with seqNext := s.me.seqNext + 1, ring := x.ring ++ [e] }

section
variable {s : State} {i : Instr}

theorem ringTake_ok (h : RingFree s) (kind : Nat) (args : BitVec 32) (addr : Word) :
    ringTake s i kind args addr = .ok (s.withEntry (s.ringEntry i kind args addr), s.me.seqNext) := by
  have hnone : s.me.ring.find? (fun e => e.seq.toNat % 64 = s.me.seqNext.toNat % 64) = none := by
    rw [List.find?_eq_none]
    exact fun e he => by simpa using h e he
  rw [ringTake, hnone]
  rfl

@[simp] theorem State.withEntry_me (s : State) (e : RingEntry) :
    (s.withEntry e).me = { s.me with seqNext := s.me.seqNext + 1, ring := s.me.ring ++ [e] } := State.me_modMe ..
@[simp] theorem State.addOp_me (s : State) (o : Op) : (s.addOp o).me = { s.me with ops := s.me.ops ++ [o] } := by simp [State.addOp]

/-- The new entry is the one of its number (R23). -/
theorem RingFree.find_append (h : RingFree s) {e : RingEntry} (he : e.seq = s.me.seqNext) :
    (s.me.ring ++ [e]).find? (fun e => e.seq == s.me.seqNext) = some e := by
  have hnone : s.me.ring.find? (fun e => e.seq == s.me.seqNext) = none := by
    rw [List.find?_eq_none]
    intro e' he' heq
    exact h e' he' (by rw [beq_iff_eq.1 heq])
  rw [List.find?_append, hnone, List.find?_singleton, he]
  simp

theorem longV_ok (h : RingFree s) (L : BitVec 4) (args : BitVec 32) (c : Commit) (fl : BitVec 5) : ∃ o : Op,
    longV i s L args c fl = .ok ((s.withEntry (s.ringEntry i 2 args 0)).addOp o) ∧ o.left = some (L.toNat + 1) ∧ o.done = true ∧
      o.seq = some s.me.seqNext ∧ o.flags = fl ∧ o.commit = c := by
  rw [longV, ringTake_ok h]
  exact ⟨_, rfl, rfl, rfl, rfl, rfl, rfl⟩

end

/-- Long instruction i takes a ring entry of KIND 2; g's bits of the active elements of width w of vector register d, and their flags, are
there under a window of L instructions (R23, R47, R71). -/
def LongGives (i : Instr) (s : State) (d : BitVec 5) (L : BitVec 4) (w : Nat) (g : Nat → Nat × BitVec 5) : Prop :=
  ∃ t o e r fl, Completes i s t ∧ t.me.ops = s.me.ops ++ [o] ∧ o.left = some (L.toNat + 1) ∧ o.done = true ∧ o.seq = some s.me.seqNext ∧
    o.flags = fl ∧ o.commit.vs = [(d, r, activeLanes s.me.pred w)] ∧ o.commit.zero = s.me.zeroing ∧
    t.me.ring = s.me.ring ++ [e] ∧ e.kind = 2 ∧ e.seq = s.me.seqNext ∧ t.me.seqNext = s.me.seqNext + 1 ∧
    FlagsOf s w (fun j => (g j).2) fl ∧ ∀ j, j < 64 / w → active s.me.pred w j = true → elem r w j = (g j).1 % 2 ^ (8 * w)

section
variable {i : Instr} {s : State} {d : BitVec 5} {L : BitVec 4} {w : Nat} {g : Nat → Nat × BitVec 5}

theorem longGives_of_completes {o : Op} {r : VReg} {fl : BitVec 5} {args : BitVec 32}
    (hc : Completes i s ((s.withEntry (s.ringEntry i 2 args 0)).addOp o)) (hleft : o.left = some (L.toNat + 1)) (hdone : o.done = true)
    (hseq : o.seq = some s.me.seqNext) (hflags : o.flags = fl) (hcommit : o.commit = ⟨none, [(d, r, activeLanes s.me.pred w)], s.me.zeroing⟩)
    (hfl : FlagsOf s w (fun j => (g j).2) fl) (hr : ∀ j, j < 64 / w → active s.me.pred w j = true → elem r w j = (g j).1 % 2 ^ (8 * w)) :
    LongGives i s d L w g := by
  refine ⟨_, o, s.ringEntry i 2 args 0, r, fl, hc, ?_, hleft, hdone, hseq, hflags, ?_, ?_, ?_, rfl, rfl, ?_, hfl, hr⟩
  · rw [State.addOp_me, State.withEntry_me]
  · rw [hcommit]
  · rw [hcommit]
  · rw [State.addOp_me, State.withEntry_me]
  · rw [State.addOp_me, State.withEntry_me]

/-- An instruction whose body is a long operation of known elements and flags. -/
theorem longGives_of_run {body : State → Except Stop State} (hw : w ∣ 64) (he : exec i s = run i s body)
    (hb : body s = longV i s L 0 ⟨none, [(d, buildV w fun j => if active s.me.pred w j then (g j).1 else 0, activeLanes s.me.pred w)], s.me.zeroing⟩
      (orFlags s.me.pred w fun j => (g j).2)) (h : Accepts i s) (hfree : RingFree s) : LongGives i s d L w g := by
  obtain ⟨o, hlong, hleft, hdone, hseq, hflags, hcommit⟩ := longV_ok (i := i) hfree L 0 _ _
  refine longGives_of_completes (he.trans (run_ok h (hb.trans hlong))) hleft hdone hseq hflags hcommit (flagsOf_orFlags s w _) fun j hj hon => ?_
  rw [elem_buildV hw _ hj, if_pos hon]

end

/-! The decode of a block (R149). -/

section
variable {s : State} {d v : BitVec 5} {k : BitVec 2} {l : BitVec 4}

/-- The body of vdec4 with its image, its lowest invalid scale word and its commit named. -/
theorem exec_vdec4_eq (hfree : RingFree s) (h : Accepts (.vdec4 d v k l) s) : ∃ o : Op,
    let n := if k = 2 then 64 else 32
    let bad := vdecBad s.me.pred (toBytes (s.me.vreg v)) k.toNat n
    let e := s.ringEntry (.vdec4 d v k l) 2 (BitVec.ofNat 32 (v.toNat + 256 * bad.getD 0)) 0
    let u := (s.withEntry e).addOp o
    Completes (.vdec4 d v k l) s (if bad.isSome then lateFault u u.cur.1 u.cur.2 s.me.seqNext .scaleInvalid else u) ∧
      o.left = some (l.toNat + 1) ∧ o.done = true ∧ o.seq = some s.me.seqNext ∧ o.flags = 0 ∧
      o.commit = pairCommit4 d (k = 2) (vdecLanes (toBytes (s.me.vreg v)) k.toNat n) (activeLanes s.me.pred 2) s.me.zeroing := by
  obtain ⟨o, hlong, hop⟩ := longV_ok (i := .vdec4 d v k l) hfree l
    (BitVec.ofNat 32 (v.toNat + 256 * (vdecBad s.me.pred (toBytes (s.me.vreg v)) k.toNat (if k = 2 then 64 else 32)).getD 0))
    (pairCommit4 d (k = 2) (vdecLanes (toBytes (s.me.vreg v)) k.toNat (if k = 2 then 64 else 32)) (activeLanes s.me.pred 2) s.me.zeroing) 0
  refine ⟨o, ?_, hop⟩
  rw [Completes, exec_vdec4, execVdec4]
  refine run_ok h ?_
  simp only [bind, Except.bind, hlong]

theorem elem_vdecLanes (img : List Byte) (geom n : Nat) {j : Nat} (hj : j < 32) :
    elem (vdecLanes img geom n).1 2 j =
        (if j < n then decode4 ((img.drop (j / geomCodes geom * geomBytes geom)).take (geomBytes geom)) (j % geomCodes geom) else 0) % 2 ^ 16 ∧
      elem (vdecLanes img geom n).2 2 j = (if 32 + j < n then
        decode4 ((img.drop ((32 + j) / geomCodes geom * geomBytes geom)).take (geomBytes geom)) ((32 + j) % geomCodes geom) else 0) % 2 ^ 16 :=
  ⟨elem_buildV (by decide) _ hj, elem_buildV (by decide) _ hj⟩

theorem State.lates_modMe_modMe {u : State} {g : Strand → Strand} (hg : ∀ x, (g x).lates = x.lates) (l : Late) :
    ((u.modMe g).modMe fun x => { x with lates := x.lates ++ [l], pause := none }).me.lates = u.me.lates ++ [l] := by
  rw [State.me_modMe, State.me_modMe]
  exact congrArg (· ++ [l]) (hg _)

/-- A late fault of an entry of the running task falls due at it (R25). -/
theorem lateFault_own {u : State} {q : BitVec 32} {e : RingEntry} (c : Code) (hfind : u.me.ring.find? (fun e => e.seq == q) = some e)
    (htask : u.me.task.isSome = true) (htag : u.me.ctxKey = e.tag) :
    (lateFault u u.cur.1 u.cur.2 q c).me.lates = u.me.lates ++ [⟨c, q⟩] := by
  have hstrand : u.strand u.cur.1 u.cur.2 = u.me := rfl
  simp only [lateFault, hstrand, hfind, htask, htag, and_self, if_true]
  refine State.lates_modMe_modMe (u := u) (g := fun x => { x with ring := x.ring.map fun e => if e.seq == q then { e with fault := some c } else e }) ?_ _
  exact fun _ => rfl

theorem vdec4_gives (hbad : vdecBad s.me.pred (toBytes (s.me.vreg v)) k.toNat 32 = none) (hk : k ≠ 2) (h : Accepts (.vdec4 d v k l) s)
    (hfree : RingFree s) : LongGives (.vdec4 d v k l) s d l 2 fun j =>
      (decode4 (((toBytes (s.me.vreg v)).drop (j / geomCodes k.toNat * geomBytes k.toNat)).take (geomBytes k.toNat)) (j % geomCodes k.toNat), 0) := by
  obtain ⟨o, hc, hleft, hdone, hseq, hflags, hcommit⟩ := exec_vdec4_eq hfree h
  simp only [if_neg hk, hbad, Option.isSome_none, Bool.false_eq_true, if_false] at hc hcommit
  refine longGives_of_completes (r := (vdecLanes (toBytes (s.me.vreg v)) k.toNat 32).1) hc hleft hdone hseq hflags (hcommit.trans ?_)
    (fun b => ?_) fun j hj _ => ?_
  · rw [pairCommit4, decide_eq_false hk]
    rfl
  · simp
  · rw [(elem_vdecLanes _ _ _ hj).1, if_pos hj]

theorem vdec4_gives_pair (hbad : vdecBad s.me.pred (toBytes (s.me.vreg v)) 2 64 = none) (h : Accepts (.vdec4 d v 2 l) s) (hfree : RingFree s) :
    ∃ t o q r, Completes (.vdec4 d v 2 l) s t ∧ t.me.ops = s.me.ops ++ [o] ∧ o.done = true ∧
      o.commit.vs = [(d, q, activeLanes s.me.pred 2), (d + 1, r, activeLanes s.me.pred 2)] ∧
      ∀ j, j < 64 → elem (if j < 32 then q else r) 2 (j % 32) = decode4 ((toBytes (s.me.vreg v)).take 36) j % 2 ^ 16 := by
  obtain ⟨o, hc, -, hdone, -, -, hcommit⟩ := exec_vdec4_eq hfree h
  have hbad' : vdecBad s.me.pred (toBytes (s.me.vreg v)) (2 : BitVec 2).toNat (if (2 : BitVec 2) = 2 then 64 else 32) = none := hbad
  rw [hbad'] at hc
  have hdecoded : Completes _ s ((s.withEntry (s.ringEntry (.vdec4 d v 2 l) 2 (BitVec.ofNat 32 (v.toNat + 256 * 0)) 0)).addOp o) := hc
  refine ⟨_, o, _, _, hdecoded, ?_, hdone, congrArg Commit.vs hcommit, fun j hj => ?_⟩
  · rw [State.addOp_me, State.withEntry_me]
  · obtain ⟨hlow, hhigh⟩ := elem_vdecLanes (toBytes (s.me.vreg v)) 2 64 (Nat.mod_lt j (by decide : 32 > 0))
    have hmod : j % 64 = j := Nat.mod_eq_of_lt hj
    have hdiv : j / 64 = 0 := Nat.div_eq_of_lt hj
    split
    next hlt =>
      rw [Nat.mod_eq_of_lt hlt] at hlow ⊢
      refine hlow.trans ?_
      rw [if_pos hj, show geomCodes 2 = 64 from rfl, hmod, hdiv]
      rfl
    next hge =>
      have hj' : 32 + j % 32 = j := by omega
      rw [hj'] at hhigh
      refine hhigh.trans ?_
      rw [if_pos hj, show geomCodes 2 = 64 from rfl, hmod, hdiv]
      rfl

theorem vdec4_late (hbad : vdecBad s.me.pred (toBytes (s.me.vreg v)) k.toNat (if k = 2 then 64 else 32) ≠ none) (htask : s.me.task ≠ none)
    (h : Accepts (.vdec4 d v k l) s) (hfree : RingFree s) :
    ∃ t, Completes (.vdec4 d v k l) s t ∧ t.me.lates = s.me.lates ++ [⟨.scaleInvalid, s.me.seqNext⟩] := by
  obtain ⟨o, hc, -⟩ := exec_vdec4_eq hfree h
  rw [if_pos (Option.isSome_iff_ne_none.2 hbad)] at hc
  refine ⟨_, hc, ?_⟩
  rw [lateFault_own (e := s.ringEntry (.vdec4 d v k l) 2 _ 0)]
  · rw [State.addOp_me, State.withEntry_me]
  · rw [State.addOp_me, State.withEntry_me]
    exact hfree.find_append rfl
  · rw [State.addOp_me, State.withEntry_me]
    exact Option.isSome_iff_ne_none.2 htask
  · rw [State.addOp_me, State.withEntry_me]
    rfl
end

/-! Conversions (R147). -/

theorem cvtWidth_dvd (c : BitVec 3) (n : BitVec 2) : cvtWidth c n ∣ 64 := by
  revert c n
  decide

/-- The place that part h of a conversion takes element e from. -/
theorem cvtFrom_eq (ws wd h e : Nat) : cvtFrom ws wd h e =
    if (if ws < wd then e < 64 / max ws wd else h * (64 / max ws wd) ≤ e ∧ e < h * (64 / max ws wd) + 64 / max ws wd) then
      some (if ws < wd then e + h * (64 / max ws wd) else e - h * (64 / max ws wd)) else none := by
  simp only [cvtFrom]
  by_cases hw : ws < wd <;> simp only [hw, if_true, if_false]

theorem elem_mod (v : VReg) (w j : Nat) : elem v w j % 2 ^ (8 * w) = elem v w j := Nat.mod_eq_of_lt (elem_lt v w j)

theorem vcvt_gives {s : State} {c t : BitVec 3} {d v : BitVec 5} {h : BitVec 1} {m n : BitVec 2} (ha : Accepts (.vcvt c d v h m n t) s) :
    let ws := cvtWidth c n; let wd := cvtWidth t m; let N := 64 / max ws wd
    let hit (e : Nat) : Bool := if ws < wd then decide (e < N) else decide (h.toNat * N ≤ e ∧ e < h.toNat * N + N)
    ∃ r fl, Completes (.vcvt c d v h m n t) s ((s.setV d r).raise fl) ∧
      FlagsOf s wd (fun e => if hit e then
        (convert c t ws wd s.me.rounding s.me.sat (elem (s.me.vreg v) ws (if ws < wd then e + h.toNat * N else e - h.toNat * N))).2 else 0) fl ∧
      ∀ e, e < 64 / wd → let from_ := if ws < wd then e + h.toNat * N else e - h.toNat * N
        let inPart := if ws < wd then e < N else h.toNat * N ≤ e ∧ e < h.toNat * N + N
        elem r wd e = if inPart then (if active s.me.pred wd e then
            (convert c t ws wd s.me.rounding s.me.sat (elem (s.me.vreg v) ws from_)).1 % 2 ^ (8 * wd)
          else if s.me.zeroing then 0 else elem (s.me.vreg d) wd e) else elem (s.me.vreg d) wd e := by
  intro ws wd N hit
  refine ⟨_, _, (exec_vcvt ..).trans (run_ok ha rfl), ?flags, fun e he => ?lanes⟩
  case flags =>
    refine (congrArg (fun g => FlagsOf s wd g _) (funext fun e => ?_)).mpr (flagsOf_orFlags s wd _)
    show _ = (Option.map _ (Option.map _ (cvtFrom ws wd h.toNat e))).getD 0
    rw [cvtFrom_eq]
    simp only [hit]
    by_cases hlt : ws < wd
    · simp only [hlt, if_true, decide_eq_true_eq]
      split <;> rfl
    · simp only [hlt, if_false, decide_eq_true_eq]
      split <;> rfl
  case lanes =>
    intro from_ inPart
    rw [elem_buildV (cvtWidth_dvd t m) _ he]
    by_cases hin : inPart
    · have hfrom : cvtFrom (cvtWidth c n) (cvtWidth t m) h.toNat e = some from_ := (cvtFrom_eq ..).trans (if_pos hin)
      simp only [hfrom, Option.map_some]
      rw [if_pos hin]
      split
      · rfl
      · split
        · rfl
        · exact elem_mod ..
    · have hfrom : cvtFrom (cvtWidth c n) (cvtWidth t m) h.toNat e = none := (cvtFrom_eq ..).trans (if_neg hin)
      simp only [hfrom, Option.map_none]
      rw [if_neg hin]
      exact elem_mod ..

end Sys2Proof.Machine
end

section
/-! SUPPORT. Encodes and the tree sum: the blocks of venc4, byte for byte, and R60's tree, level by level. -/

open Sys2Proof Sys2Proof.Machine

namespace Sys2Proof.Machine

/-! The bytes of a register. -/

theorem take_toBytes_ofBytes {l : List Byte} (h : l.length ≤ 64) : (toBytes (ofBytes l)).take l.length = l := by
  refine List.ext_getElem (by simp [toBytes, h]) fun k hk hk' => ?_
  have hlt : leNat l < 2 ^ 512 := (leNat_lt l).trans_le (by
    rw [show 512 = 8 * 64 from rfl, pow_mul]
    exact Nat.pow_le_pow_right (by decide) h)
  simp only [List.getElem_take, toBytes, getElem_leBytes]
  rw [ofBytes, List.take_of_length_le h, toNat_ofNat_of_lt hlt]
  refine BitVec.eq_of_toNat_eq ?_
  rw [BitVec.toNat_ofNat]
  exact leNat_div_mod hk'

theorem drop_take_toBytes_ofBytes {l : List Byte} (h : l.length ≤ 64) {a b : Nat} (hab : a + b ≤ l.length) :
    ((toBytes (ofBytes l)).drop a).take b = (l.drop a).take b := by
  conv_rhs => rw [← take_toBytes_ofBytes h]
  rw [List.drop_take, List.take_take, min_eq_left (by omega)]

/-! The blocks of an encode (R150). -/

theorem length_packCodes : ∀ l : List Nat, (packCodes l).length = (l.length + 1) / 2
  | [] => rfl
  | [_] => by simp [packCodes]
  | _ :: _ :: l => by
    rw [packCodes, List.length_cons, length_packCodes l, List.length_cons, List.length_cons]
    omega

@[simp] theorem length_encodeBlock (ty : Nat) (rm : BitVec 2) (l : List (Bool × FVal)) :
    (encodeBlock ty rm l).1.length = 4 + (l.length + 1) / 2 := by
  simp [encodeBlock, length_packCodes]

section
variable {ty : Nat} {rm : BitVec 2} {g : Nat}

theorem getLsbD_encodeBlocks (b n : Nat) (l : List (Bool × FVal)) : (encodeBlocks ty rm g n l).2.getLsbD b =
    (List.range n).any fun i => (encodeBlock ty rm ((l.drop (i * g)).take g)).2.getLsbD b := by
  induction n generalizing l with
  | zero => simp [encodeBlocks]
  | succ n ih =>
    rw [encodeBlocks, BitVec.getLsbD_or, ih, List.range_succ_eq_map, List.any_cons, List.any_map]
    simp only [Nat.zero_mul, List.drop_zero, List.drop_drop, Function.comp_def, Nat.succ_mul, Nat.add_comm g]

theorem length_encodeBlocks (hg : 2 ∣ g) (n : Nat) {l : List (Bool × FVal)} (hl : n * g ≤ l.length) :
    (encodeBlocks ty rm g n l).1.length = n * (4 + g / 2) := by
  induction n generalizing l with
  | zero => simp [encodeBlocks]
  | succ n ih =>
    rw [Nat.succ_mul] at hl
    rw [encodeBlocks, List.length_append, length_encodeBlock, List.length_take, min_eq_left (by omega),
      ih (by rw [List.length_drop]; omega), Nat.succ_mul]
    omega

/-- The bytes of block i. -/
theorem drop_take_encodeBlocks (hg : 2 ∣ g) {n i : Nat} (hi : i < n) {l : List (Bool × FVal)} (hl : n * g ≤ l.length) :
    ((encodeBlocks ty rm g n l).1.drop (i * (4 + g / 2))).take (4 + g / 2) = (encodeBlock ty rm ((l.drop (i * g)).take g)).1 := by
  induction n generalizing l i with
  | zero => exact absurd hi (by omega)
  | succ n ih =>
    rw [Nat.succ_mul] at hl
    have hfirst : (encodeBlock ty rm (l.take g)).1.length = 4 + g / 2 := by
      rw [length_encodeBlock, List.length_take, min_eq_left (by omega)]
      omega
    cases i with
    | zero => simp [encodeBlocks, List.take_left' hfirst]
    | succ i =>
      rw [encodeBlocks, Nat.succ_mul, Nat.add_comm (i * _), ← List.drop_drop, List.drop_left' hfirst,
        ih (by omega) (by rw [List.length_drop]; omega), List.drop_drop, Nat.succ_mul, Nat.add_comm g]

end

theorem drop_take_map_range {α : Type} (f : Nat → α) {n a b : Nat} (h : a + b ≤ n) :
    (((List.range n).map f).drop a).take b = (List.range b).map fun j => f (a + j) :=
  List.ext_getElem (by simp; omega) fun k hk hk' => by simp

theorem any_range_congr {n : Nat} {p q : Nat → Bool} (h : ∀ i < n, p i = q i) : (List.range n).any p = (List.range n).any q := by
  rw [Bool.eq_iff_iff, List.any_eq_true, List.any_eq_true]
  exact exists_congr fun i => and_congr_right fun hi => by rw [h i (List.mem_range.1 hi)]

/-- Every block takes whole bytes of its lanes, and the blocks fit a register. -/
theorem blocks_fit (k : BitVec 2) : let g := geomCodes k.toNat; let N := if k = 2 then 64 else 32
    2 ∣ g ∧ N / g * g ≤ N ∧ N / g * (4 + g / 2) ≤ 64 := by
  revert k
  decide

/-- Lane q of an encode of v: whether it is active, and its datum. -/
def State.encodeLane (s : State) (v : BitVec 5) (q : Nat) : Bool × FVal :=
  (activeLane s.me.pred q, bf16.decode (elem (s.me.vreg (v + if q < 32 then 0 else 1)) 2 (q % 32)))

theorem venc4_gives {s : State} {d v : BitVec 5} {k t : BitVec 2} (ha : Accepts (.venc4 d v k t) s) :
    let g := geomCodes k.toNat; let N := if k = 2 then 64 else 32
    ∃ r fl, Completes (.venc4 d v k t) s ((s.setV d r).raise fl) ∧
      let lanes (i : Nat) := (List.range g).map fun j => let q := i * g + j
        (active s.me.pred 2 (q % 32), bf16.decode (elem (s.me.vreg (v + if q < 32 then 0 else 1)) 2 (q % 32)))
      (∀ b, fl.getLsbD b = (List.range (N / g)).any fun i => (encodeBlock t.toNat s.me.rounding (lanes i)).2.getLsbD b) ∧
      ∀ i, i < N / g → let ln := lanes i
        ((toBytes r).drop (i * geomBytes k.toNat)).take (geomBytes k.toNat) = (encodeBlock t.toNat s.me.rounding ln).1 := by
  intro g N
  refine ⟨_, _, (exec_venc4 ..).trans (run_ok ha rfl), ?_⟩
  intro lanes
  obtain ⟨heven, hN, hbytes⟩ := blocks_fit k
  have hlen : N / g * g ≤ ((List.range N).map (s.encodeLane v)).length := by rwa [List.length_map, List.length_range]
  have hlane (i : Nat) (hi : i < N / g) : (((List.range N).map (s.encodeLane v)).drop (i * g)).take g = lanes i := by
    have hle : (i + 1) * g ≤ N / g * g := Nat.mul_le_mul_right g hi
    rw [Nat.succ_mul] at hle
    exact drop_take_map_range _ (hle.trans hN)
  refine ⟨fun b => ?_, fun i hi => ?_⟩
  · refine (getLsbD_encodeBlocks b (N / g) ((List.range N).map (s.encodeLane v))).trans (any_range_congr fun i hi => ?_)
    rw [hlane i hi]
  · have hle : (i + 1) * (4 + g / 2) ≤ N / g * (4 + g / 2) := Nat.mul_le_mul_right _ hi
    rw [Nat.succ_mul] at hle
    have hsize := length_encodeBlocks (ty := t.toNat) (rm := s.me.rounding) heven (N / g) hlen
    refine (drop_take_toBytes_ofBytes (hsize.trans_le hbytes) (hle.trans hsize.ge)).trans ?_
    rw [drop_take_encodeBlocks heven hi hlen, hlane i hi]

/-! The tree (R60, R152). -/

section
variable {f : FFmt} {rm : BitVec 2}

/-- What a pair of places of R60's tree gives: the sum of two with its flags, else the one that is there. -/
def pairUp (f : FFmt) (rm : BitVec 2) : Option Nat → Option Nat → Option Nat × BitVec 5
  | some x, some y => let q := fAdd f rm (f.decode x) (f.decode y); (some q.1, q.2)
  | some x, none => (some x, 0)
  | none, y => (y, 0)

theorem treePlace_succ (e : Nat → Option Nat) (n m : Nat) : treePlace f rm e (n + 1) m =
    ((pairUp f rm (treePlace f rm e n (2 * m)).1 (treePlace f rm e n (2 * m + 1)).1).1,
      (treePlace f rm e n (2 * m)).2 ||| (treePlace f rm e n (2 * m + 1)).2 |||
        (pairUp f rm (treePlace f rm e n (2 * m)).1 (treePlace f rm e n (2 * m + 1)).1).2) := by
  rw [treePlace]
  rcases treePlace f rm e n (2 * m) with ⟨_ | x, fx⟩ <;> rcases treePlace f rm e n (2 * m + 1) with ⟨_ | y, fy⟩ <;> simp [pairUp]

theorem treeLevel_cons_cons (a b : Option Nat) (l : List (Option Nat)) : treeLevel f rm (a :: b :: l) =
    ((pairUp f rm a b).1 :: (treeLevel f rm l).1, (pairUp f rm a b).2 ||| (treeLevel f rm l).2) := by
  cases a <;> cases b <;> simp [treeLevel, pairUp]

theorem treeLevel_append : ∀ {l : List (Option Nat)} (l' : List (Option Nat)), l.length % 2 = 0 → treeLevel f rm (l ++ l') =
    ((treeLevel f rm l).1 ++ (treeLevel f rm l').1, (treeLevel f rm l).2 ||| (treeLevel f rm l').2)
  | [], l', _ => by simp [treeLevel]
  | [_], _, h => by simp at h
  | a :: b :: l, l', h => by
    have hl : l.length % 2 = 0 := by simpa [Nat.add_assoc] using h
    rw [List.cons_append, List.cons_append, treeLevel_cons_cons, treeLevel_cons_cons, treeLevel_append l' hl]
    simp [BitVec.or_assoc]

/-- The places of level 0 under place m of level n. -/
def leaves (e : Nat → Option Nat) : Nat → Nat → List (Option Nat)
  | 0, m => [e m]
  | n + 1, m => leaves e n (2 * m) ++ leaves e n (2 * m + 1)

/-- The first level of the tree over e, as elements of a tree. -/
def firstLevel (f : FFmt) (rm : BitVec 2) (e : Nat → Option Nat) (m : Nat) : Option Nat := (pairUp f rm (e (2 * m)) (e (2 * m + 1))).1

/-- The flags of the first level's pairs under place m of level n of the tree over them. -/
def firstFlags (f : FFmt) (rm : BitVec 2) (e : Nat → Option Nat) : Nat → Nat → BitVec 5
  | 0, m => (pairUp f rm (e (2 * m)) (e (2 * m + 1))).2
  | n + 1, m => firstFlags f rm e n (2 * m) ||| firstFlags f rm e n (2 * m + 1)

theorem leaves_eq (e : Nat → Option Nat) (n m : Nat) : leaves e n m = (List.range (2 ^ n)).map fun j => e (m * 2 ^ n + j) := by
  induction n generalizing m with
  | zero => simp [leaves]
  | succ n ih =>
    rw [leaves, ih, ih, show 2 ^ (n + 1) = 2 ^ n + 2 ^ n by omega, List.range_add, List.map_append, List.map_map]
    congr 1
    · refine List.map_congr_left fun j _ => congrArg e ?_
      ring
    · refine List.map_congr_left fun j _ => congrArg e ?_
      simp only
      ring

theorem length_leaves (e : Nat → Option Nat) (n m : Nat) : (leaves e n m).length = 2 ^ n := by simp [leaves_eq]

theorem treeLevel_leaves (e : Nat → Option Nat) (n m : Nat) :
    treeLevel f rm (leaves e (n + 1) m) = (leaves (firstLevel f rm e) n m, firstFlags f rm e n m) := by
  induction n generalizing m with
  | zero =>
    show treeLevel f rm (e (2 * m) :: e (2 * m + 1) :: []) = _
    rw [treeLevel_cons_cons]
    simp [treeLevel, leaves, firstLevel, firstFlags]
  | succ n ih =>
    rw [leaves, treeLevel_append _ (by rw [length_leaves]; omega), ih, ih]
    rfl

/-- A tree over elements is the tree over its first level. -/
theorem treePlace_firstLevel (e : Nat → Option Nat) (n m : Nat) : treePlace f rm e (n + 1) m =
    ((treePlace f rm (firstLevel f rm e) n m).1, firstFlags f rm e n m ||| (treePlace f rm (firstLevel f rm e) n m).2) := by
  induction n generalizing m with
  | zero =>
    rw [treePlace_succ]
    simp [treePlace, firstLevel, firstFlags]
  | succ n ih =>
    rw [treePlace_succ, ih, ih, treePlace_succ (firstLevel f rm e) n, firstFlags]
    simp only [Prod.mk.injEq, true_and]
    ac_rfl

/-- A single place stays what it is at every further level. -/
theorem treeSum_singleton (n : Nat) (a : Option Nat) : treeSum f rm n [a] = ([a], 0) := by
  induction n with
  | zero => rfl
  | succ n ih => simp [treeSum, treeLevel, ih]

theorem treeSum_leaves {n c N : Nat} (h : n + c = N) (e : Nat → Option Nat) (m : Nat) :
    treeSum f rm N (leaves e n m) = ([(treePlace f rm e n m).1], (treePlace f rm e n m).2) := by
  subst h
  induction n generalizing e with
  | zero => exact treeSum_singleton ..
  | succ n ih => rw [Nat.succ_add, treeSum, treeLevel_leaves, ih, treePlace_firstLevel]

/-- A tree of no active element is empty and raises nothing. -/
theorem treePlace_none {e : Nat → Option Nat} (h : ∀ j, e j = none) (n m : Nat) : treePlace f rm e n m = (none, 0) := by
  induction n generalizing m with
  | zero => rw [treePlace, h]
  | succ n ih => simp [treePlace_succ, ih, pairUp]

/-- A tree whose only active elements are the two of pair i gives their sum. -/
theorem treePlace_pair {e : Nat → Option Nat} {i x y : Nat} (hx : e (2 * i) = some x) (hy : e (2 * i + 1) = some y)
    (h : ∀ j, j / 2 ≠ i → e j = none) (n m : Nat) : treePlace f rm e (n + 1) m =
      if i / 2 ^ n = m then (some (fAdd f rm (f.decode x) (f.decode y)).1, (fAdd f rm (f.decode x) (f.decode y)).2) else (none, 0) := by
  induction n generalizing m with
  | zero =>
    rw [treePlace_succ, pow_zero, Nat.div_one]
    split
    next him =>
      subst him
      simp [treePlace, hx, hy, pairUp]
    next him => simp [treePlace, h (2 * m) (by omega), h (2 * m + 1) (by omega), pairUp]
  | succ n ih =>
    rw [treePlace_succ, ih, ih, pow_succ, ← Nat.div_div_eq_div_mul]
    by_cases hl : i / 2 ^ n = 2 * m
    · rw [if_pos hl, if_neg (by omega), if_pos (by omega)]
      simp [pairUp]
    · by_cases hr : i / 2 ^ n = 2 * m + 1
      · rw [if_neg hl, if_pos hr, if_pos (by omega)]
        simp [pairUp]
      · rw [if_neg hl, if_neg hr, if_neg (by omega)]
        simp [pairUp]

end

end Sys2Proof.Machine
end

section
/-! SUPPORT. The tree reduction and the rounding of data that a format holds, and the statement about long operations and conversions. -/

open Sys2Proof Sys2Proof.Machine

namespace Sys2Proof.Machine

/-! The tree reduction of a register (R60, R152). -/

section
variable {s : State} {r : BitVec 4} {v : BitVec 5} {b : Src} {k : BitVec 2}

/-- Element j of vector register v for a tree of format f, where it is active. -/
def State.treeElem (s : State) (v : BitVec 5) (f : FFmt) (j : Nat) : Option Nat :=
  if active s.me.pred f.bytes j then some (elem (s.me.vreg v) f.bytes j) else none

theorem levels_fmtOf (k : BitVec 2) : ∃ n c, (if (fmtOf k).bytes = 4 then 4 else 5) = n + 1 ∧ n + 1 + c = 5 ∧
    64 / (fmtOf k).bytes = 2 ^ (n + 1) ∧ 32 / (fmtOf k).bytes = 2 ^ n := by
  have hbytes : (fmtOf k).bytes = 4 ∨ (fmtOf k).bytes = 2 := by
    revert k
    decide
  obtain h | h := hbytes
  · exact ⟨3, 1, by simp [h], rfl, by simp [h], by simp [h]⟩
  · exact ⟨4, 0, by simp [h], rfl, by simp [h], by simp [h]⟩

/-- The state after a tree reduction whose top place is t, with the scalar y added (R152). -/
def State.addTree (s : State) (r : BitVec 4) (f : FFmt) (y : FVal) (t : Option Nat × BitVec 5) : State :=
  let q := fAdd f s.me.rounding (f.decode (t.1.getD 0)) y
  (s.setS r (BitVec.ofNat 64 q.1)).raise (t.2 ||| q.2)

theorem vfredadd_tree (h : Accepts (.vfredadd r v b k) s) : Completes (.vfredadd r v b k) s
    (s.addTree r (fmtOf k) ((fmtOf k).decode (elem (s.fsrc b true (fmtOf k)) (fmtOf k).bytes 0))
      (treePlace (fmtOf k) s.me.rounding (s.treeElem v (fmtOf k)) (if (fmtOf k).bytes = 4 then 4 else 5) 0)) := by
  obtain ⟨n, c, hn, hc, hcount, -⟩ := levels_fmtOf k
  have htree : treeSum (fmtOf k) s.me.rounding 5 ((List.range (64 / (fmtOf k).bytes)).map (s.treeElem v (fmtOf k))) =
      ([(treePlace (fmtOf k) s.me.rounding (s.treeElem v (fmtOf k)) (n + 1) 0).1],
        (treePlace (fmtOf k) s.me.rounding (s.treeElem v (fmtOf k)) (n + 1) 0).2) := by
    have hleaves : (List.range (64 / (fmtOf k).bytes)).map (s.treeElem v (fmtOf k)) = leaves (s.treeElem v (fmtOf k)) (n + 1) 0 := by
      rw [leaves_eq, hcount]
      simp
    rw [hleaves]
    exact treeSum_leaves hc _ _
  rw [Completes, exec_vfredadd, execVfredadd, hn]
  refine run_ok h ?_
  show Except.ok (s.addTree r (fmtOf k) ((fmtOf k).decode (elem (s.fsrc b true (fmtOf k)) (fmtOf k).bytes 0))
    ((treeSum (fmtOf k) s.me.rounding 5 ((List.range (64 / (fmtOf k).bytes)).map (s.treeElem v (fmtOf k)))).1.head?.bind id,
      (treeSum (fmtOf k) s.me.rounding 5 ((List.range (64 / (fmtOf k).bytes)).map (s.treeElem v (fmtOf k)))).2)) = _
  rw [htree]
  rfl

theorem decode_zero (k : BitVec 2) : (fmtOf k).decode 0 = .fin false 0 (1 - ((fmtOf k).bias : Int) - (fmtOf k).fb) := by
  revert k
  decide

theorem active_beyond {p : PReg} {w j : Nat} (hw : w ∣ 64) (hj : ¬ j < 64 / w) : active p w j = false := by
  refine BitVec.getLsbD_of_ge p _ ?_
  obtain ⟨c, hc⟩ := hw
  have hpos : 0 < w := Nat.pos_of_ne_zero fun h => by simp [h] at hc
  rw [hc, Nat.mul_div_cancel_left c hpos] at hj
  rw [hc]
  exact Nat.mul_le_mul_left w (by omega)

theorem vfredadd_none (hoff : ∀ j, j < 64 / (fmtOf k).bytes → active s.me.pred (fmtOf k).bytes j = false) (h : Accepts (.vfredadd r v b k) s) :
    let f := fmtOf k
    let q := fAdd f s.me.rounding (.fin false 0 (1 - (f.bias : Int) - f.fb)) (f.decode (elem (s.fsrc b true f) f.bytes 0))
    Completes (.vfredadd r v b k) s ((s.setS r (BitVec.ofNat 64 q.1)).raise q.2) := by
  intro f q
  have hnone (j : Nat) : s.treeElem v (fmtOf k) j = none := by
    refine if_neg (ne_true_of_eq_false ?_)
    by_cases hj : j < 64 / (fmtOf k).bytes
    · exact hoff j hj
    · exact active_beyond (fmtOf_bytes_dvd k) hj
  have hc := vfredadd_tree h
  rw [treePlace_none hnone, State.addTree, Option.getD_none, decode_zero] at hc
  have hflags : 0 ||| q.2 = q.2 := BitVec.zero_or
  rw [← hflags]
  exact hc

theorem vfredadd_pair {i : Nat} (hi : i < 32 / (fmtOf k).bytes)
    (hon : ∀ j, j < 64 / (fmtOf k).bytes → active s.me.pred (fmtOf k).bytes j = decide (j / 2 = i)) (h : Accepts (.vfredadd r v b k) s) :
    let f := fmtOf k
    let e j := f.decode (elem (s.me.vreg v) f.bytes j)
    let p := fAdd f s.me.rounding (e (2 * i)) (e (2 * i + 1))
    let q := fAdd f s.me.rounding (f.decode p.1) (f.decode (elem (s.fsrc b true f) f.bytes 0))
    Completes (.vfredadd r v b k) s ((s.setS r (BitVec.ofNat 64 q.1)).raise (p.2 ||| q.2)) := by
  intro f e p q
  obtain ⟨n, -, hn, -, hcount, hhalf⟩ := levels_fmtOf k
  have hsome {j : Nat} (hj : j / 2 = i) : s.treeElem v (fmtOf k) j = some (elem (s.me.vreg v) (fmtOf k).bytes j) := by
    refine if_pos ?_
    rw [hon j (by rw [hcount, pow_succ]; omega), decide_eq_true hj]
  have hnone (j : Nat) (hj : j / 2 ≠ i) : s.treeElem v (fmtOf k) j = none := by
    refine if_neg (ne_true_of_eq_false ?_)
    by_cases hlt : j < 64 / (fmtOf k).bytes
    · rw [hon j hlt, decide_eq_false hj]
    · exact active_beyond (fmtOf_bytes_dvd k) hlt
  have hc := vfredadd_tree h
  rw [hn, treePlace_pair (hsome (by omega)) (hsome (by omega)) hnone, if_pos (Nat.div_eq_of_lt (hhalf ▸ hi))] at hc
  exact hc

end

/-! Rounding of what a format holds (R40, R43, R44). -/

theorem roundShift_of_nonpos {m : Nat} {k : Int} {rm : BitVec 2} {neg : Bool} (h : k ≤ 0) : roundShift m k rm neg = (m * 2 ^ (-k).toNat, false) :=
  if_pos h

section
variable (f : FFmt) (rm : BitVec 2) (sat neg : Bool)

/-- A number below the least normal one is a multiple of the quantum. -/
theorem FFmt.round_subnormal {m : Nat} (hm : m ≠ 0) (hlt : m < 2 ^ f.fb) :
    f.round rm sat neg m (1 - (f.bias : Int) - f.fb) = (f.signed neg m, 0) := by
  have hlog : m.log2 < f.fb := (Nat.log2_lt hm).2 hlt
  have hk : ((m.log2 + 1 : Nat) : Int) - (f.fb + 1) ≤ 0 := by omega
  have hq : m * 2 ^ (-(((m.log2 + 1 : Nat) : Int) - (f.fb + 1))).toNat ≠ 2 ^ (f.fb + 1) := by
    have hup : m < 2 ^ (m.log2 + 1) := Nat.lt_log2_self
    have hexp : m.log2 + 1 + (-(((m.log2 + 1 : Nat) : Int) - (f.fb + 1))).toNat = f.fb + 1 := by omega
    rw [← hexp, pow_add]
    exact (Nat.mul_lt_mul_of_pos_right hup (by positivity)).ne
  rw [FFmt.round, if_neg hm]
  simp only [roundShift_of_nonpos hk, if_neg hq]
  rw [if_pos (by omega), roundShift_of_nonpos (by omega)]
  simp

theorem FFmt.round_normal {ex fr : Nat} (hex : ex ≠ 0) (hlt : fr < 2 ^ f.fb) (hmax : ex * 2 ^ f.fb + fr ≤ f.maxBits) :
    f.round rm sat neg (2 ^ f.fb + fr) ((ex : Int) - f.bias - f.fb) = (f.signed neg (ex * 2 ^ f.fb + fr), 0) := by
  have hm : 2 ^ f.fb + fr ≠ 0 := by positivity
  have hlog : (2 ^ f.fb + fr).log2 = f.fb := (Nat.log2_eq_iff hm).2 ⟨by omega, by omega⟩
  have hk : ((f.fb + 1 : Nat) : Int) - (f.fb + 1) = 0 := by omega
  have hq : 2 ^ f.fb + fr ≠ 2 ^ (f.fb + 1) := by omega
  have hfield : ((ex : Int) - f.bias - f.fb + f.fb + f.bias).toNat = ex := by omega
  rw [FFmt.round, if_neg hm, hlog]
  simp only [hk, roundShift_of_nonpos le_rfl, neg_zero, Int.toNat_zero, pow_zero, mul_one, if_neg hq, add_zero, hfield]
  rw [if_neg (by omega), Nat.add_sub_cancel_left, if_neg (by omega)]
  rfl

end

section
variable {f : FFmt} {x : Nat}

/-- A datum's bits are its sign, its exponent field and its fraction (R40). -/
theorem FFmt.signed_fields (hx : x < 2 ^ f.width) :
    f.signed (x.testBit (f.eb + f.fb)) (x / 2 ^ f.fb % 2 ^ f.eb * 2 ^ f.fb + x % 2 ^ f.fb) = x := by
  have hmag : x / 2 ^ f.fb % 2 ^ f.eb * 2 ^ f.fb + x % 2 ^ f.fb = x % 2 ^ (f.eb + f.fb) := by
    rw [Nat.add_comm f.eb, pow_add, Nat.mod_mul]
    ring
  have hw : f.width = f.eb + f.fb + 1 := by rw [FFmt.width]; omega
  have hhigh : x / 2 ^ (f.eb + f.fb) < 2 := by
    rw [Nat.div_lt_iff_lt_mul (by positivity), mul_comm, ← pow_succ, ← hw]
    exact hx
  have hsum := Nat.div_add_mod x (2 ^ (f.eb + f.fb))
  simp only [FFmt.signed, hmag, Nat.testBit_eq_decide_div_mod_eq, decide_eq_true_eq, Nat.mod_eq_of_lt hhigh]
  generalize x / 2 ^ (f.eb + f.fb) = q at *
  obtain rfl | rfl : q = 0 ∨ q = 1 := by omega
  · simpa using hsum
  · simpa using hsum

theorem FFmt.field_le_maxBits {ex fr : Nat} (hex : ex < 2 ^ f.eb) (hfr : fr < 2 ^ f.fb)
    (hnan : ¬(f.noInf ∧ ex = 2 ^ f.eb - 1 ∧ fr = 2 ^ f.fb - 1)) (htop : ¬(!f.noInf ∧ ex = 2 ^ f.eb - 1)) :
    ex * 2 ^ f.fb + fr ≤ f.maxBits := by
  rw [FFmt.maxBits, FFmt.infBits, pow_add]
  generalize 2 ^ f.eb = Q at *
  generalize 2 ^ f.fb = P at *
  cases hno : f.noInf
  · have hlt : ex + 1 ≤ Q - 1 := by
      rw [hno] at htop
      simp at htop
      omega
    have := Nat.mul_le_mul_right P hlt
    rw [Nat.add_mul] at this
    simp
    omega
  · have : ex = Q - 1 → fr ≠ P - 1 := by simpa [hno] using hnan
    have hle : ex + 1 ≤ Q := hex
    have hmul := Nat.mul_le_mul_right P hle
    rw [Nat.add_mul] at hmul
    simp
    by_cases he : ex = Q - 1
    · have := this he
      omega
    · have hlt := Nat.mul_le_mul_right P (show ex + 2 ≤ Q by omega)
      rw [Nat.add_mul] at hlt
      omega

/-- A datum that the format holds rounds to itself, with no flag (R43, R44). -/
theorem FFmt.round_decode {rm : BitVec 2} {sat n : Bool} {m : Nat} {e : Int} (hx : x < 2 ^ f.width) (h : f.decode x = .fin n m e) :
    f.round rm sat n m e = (x, 0) := by
  have hsigned := FFmt.signed_fields hx
  have hfr : x % 2 ^ f.fb < 2 ^ f.fb := Nat.mod_lt _ (by positivity)
  have hex : x / 2 ^ f.fb % 2 ^ f.eb < 2 ^ f.eb := Nat.mod_lt _ (by positivity)
  simp only [FFmt.decode] at h
  split at h
  next => cases h
  next hnan =>
    split at h
    next => split at h <;> cases h
    next htop =>
      split at h
      next hzero =>
        cases h
        rw [hzero, Nat.zero_mul, Nat.zero_add] at hsigned
        by_cases hm : x % 2 ^ f.fb = 0
        · rw [hm] at hsigned ⊢
          rw [FFmt.round, if_pos rfl, hsigned]
        · rw [FFmt.round_subnormal _ _ _ _ hm hfr, hsigned]
      next hnonzero =>
        cases h
        rw [FFmt.round_normal _ _ _ _ hnonzero hfr (FFmt.field_le_maxBits hex hfr hnan htop), hsigned]

end

end Sys2Proof.Machine

/-- Settles O18: divisions, square roots and decodes are one rule of longV under a free ring place; encodes are read off their blocks, the
tree sum off R60's tree level by level, and a datum that a format holds is put together again from its fields. -/
theorem longOperationsAndConversionsDeliver : Obligations.LongOperationsAndConversionsDeliver := by
  unfold Obligations.LongOperationsAndConversionsDeliver
  refine ⟨fun s d v a b k l => ⟨fun h hfree => ?_, fun h hfree => ?_, fun hbad hk h hfree => vdec4_gives hbad hk h hfree, vdec4_gives_pair,
    vdec4_late, fun _ _ _ _ _ => vcvt_gives, fun _ => venc4_gives, fun _ => vfredadd_none, fun _ _ => vfredadd_pair, fun _ => vfredadd_tree⟩,
    fun f rm sat x n m e _ => FFmt.round_decode⟩
  · exact longGives_of_run (fmtOf_bytes_dvd k) (exec_vfdiv ..) rfl h hfree
  · exact longGives_of_run (fmtOf_bytes_dvd k) (exec_vfsqrt ..) rfl h hfree

end

section
/-! SUPPORT. Vector loads of the local window: the lines of a load, the operation that they complete, and its bytes. -/

open Sys2Proof Sys2Proof.Machine

namespace Sys2Proof.Machine

/-! Operations that are complete at once (R111, R137, R140). -/

section
variable {s : State} {b id : Nat} {k : Fin 5} {o : Op}

/-- An operation all of whose accesses are performed goes on, unless it decodes. -/
theorem finishOp_of_find (h : (s.strand b k).ops.find? (fun q => q.id = id) = some o) (hall : o.allDone = true) (hdone : o.done = false)
    (hkind : ∀ d p g m ea sk, o.kind ≠ .vdecode d p g m ea sk) :
    finishOp s b k id = s.modBrick b fun x => (x.modOp id Op.complete).freeSeq (s.strand b k).ctxKey o.seq := by
  simp only [finishOp, h, hall, hdone, Bool.not_true, Bool.or_self, Bool.false_eq_true, if_false]

/-- An operation of which an access is left stays as it is. -/
theorem finishOp_of_pending (h : (s.strand b k).ops.find? (fun q => q.id = id) = some o) (hall : o.allDone = false) : finishOp s b k id = s := by
  simp only [finishOp, h, hall, Bool.not_false, Bool.true_or, if_true]

theorem find_append_new {l : List Op} (hnew : ∀ q ∈ l, q.id ≠ o.id) : (l ++ [o]).find? (fun q => q.id = o.id) = some o := by
  have hnone : l.find? (fun q => q.id = o.id) = none := List.find?_eq_none.2 fun q hq => by simpa using hnew q hq
  rw [List.find?_append, hnone]
  simp

theorem map_complete_new {l : List Op} (hnew : ∀ q ∈ l, q.id ≠ o.id) :
    (l ++ [o]).map (fun q => if q.id = o.id then q.complete else q) = l ++ [o.complete] := by
  have hold : l.map (fun q => if q.id = o.id then q.complete else q) = l.map id := List.map_congr_left fun q hq => if_neg (hnew q hq)
  rw [List.map_append, hold]
  simp

section
variable (hnew : ∀ q ∈ s.me.ops, q.id ≠ o.id) (hall : o.allDone = true)
include hnew

theorem find_addOp : ((s.addOp o).strand s.cur.1 s.cur.2).ops.find? (fun q => q.id = o.id) = some o := by
  have hme : (s.addOp o).strand s.cur.1 s.cur.2 = (s.addOp o).me := rfl
  rw [hme, State.addOp_me]
  exact find_append_new hnew

/-- A new operation waits for the accesses that it has left. -/
theorem addLoad_pending (hall : o.allDone = false) : addLoad s o = s.addOp o := finishOp_of_pending (find_addOp hnew) hall

include hall

/-- A new operation none of whose accesses is left is complete, and its ring entry frees (R23). -/
theorem addLoad_eq (hdone : o.done = false) (hkind : ∀ d p g m ea sk, o.kind ≠ .vdecode d p g m ea sk) :
    addLoad s o = (s.addOp o).modHere fun x => (x.modOp o.id Op.complete).freeSeq s.me.ctxKey o.seq := by
  have hctx : ((s.addOp o).strand s.cur.1 s.cur.2).ctxKey = s.me.ctxKey := by
    have hme : (s.addOp o).strand s.cur.1 s.cur.2 = (s.addOp o).me := rfl
    rw [hme, State.addOp_me]
    rfl
  rw [addLoad, finishOp_of_find (find_addOp hnew) hall hdone hkind, hctx]
  rfl

theorem addLoad_me (hdone : o.done = false) (hkind : ∀ d p g m ea sk, o.kind ≠ .vdecode d p g m ea sk) : (addLoad s o).me =
    ((((s.addOp o).brick s.cur.1).modOp o.id Op.complete).freeSeq s.me.ctxKey o.seq).strand s.cur.2 := by
  rw [addLoad_eq hnew hall hdone hkind]
  exact congrArg (Brick.strand · s.cur.2) (State.brick_modBrick_same ..)

theorem addLoad_ops (hdone : o.done = false) (hkind : ∀ d p g m ea sk, o.kind ≠ .vdecode d p g m ea sk) :
    (addLoad s o).me.ops = s.me.ops ++ [o.complete] ∧ (addLoad s o).mem = s.mem := by
  constructor
  · rw [addLoad_me hnew hall hdone hkind, Brick.freeSeq_ops, Brick.modOp_ops]
    show ((s.addOp o).me.ops).map _ = _
    rw [State.addOp_me]
    exact map_complete_new hnew
  · rw [addLoad_eq hnew hall hdone hkind]
    rfl

end

end

/-! Bytes of a register (R17, R111). -/

/-- The low and the high register of a number of two. -/
theorem toNat_ofNat_add_mul {n x : Nat} (hx : x < 2 ^ n) (y : Nat) : (BitVec.ofNat n (x + y * 2 ^ n)).toNat = x := by
  rw [BitVec.toNat_ofNat, Nat.add_mul_mod_self_right, Nat.mod_eq_of_lt hx]
theorem toNat_ofNat_add_mul_div {n x y : Nat} (hx : x < 2 ^ n) (hy : y < 2 ^ n) : (BitVec.ofNat n ((x + y * 2 ^ n) / 2 ^ n)).toNat = y := by
  rw [Nat.add_mul_div_right _ _ (Nat.two_pow_pos n), Nat.div_eq_of_lt hx, Nat.zero_add, toNat_ofNat_of_lt hy]

theorem byteOf_of_toNat {v : VReg} {l : List Byte} {j : Nat} (hl : j < l.length) (hv : v.toNat = leNat l) : byteOf v j = l[j] := by
  refine BitVec.eq_of_toNat_eq ?_
  rw [byteOf, BitVec.extractLsb'_toNat, hv, Nat.shiftRight_eq_div_pow, Nat.pow_mul]
  exact leNat_div_mod hl

/-- Bytes that are put above all others. -/
theorem putBytes_above {buf off : Nat} (h : buf < 256 ^ off) (l : List Byte) : putBytes buf off l = buf + leNat l * 256 ^ off := by
  simp [putBytes, Nat.div_eq_of_lt h]

theorem putBytes_lines {l r : List Byte} (hl : l.length = 64) : putBytes (putBytes 0 0 l) 64 r = leNat l + leNat r * 2 ^ 512 := by
  have hpow : 2 ^ 512 = 256 ^ 64 := by rw [show 512 = 8 * 64 from rfl, Nat.pow_mul]
  have hlow : putBytes 0 0 l = leNat l := by rw [putBytes_above (by decide), pow_zero, mul_one, Nat.zero_add]
  rw [hlow, hpow]
  exact putBytes_above (hl ▸ leNat_lt l) r

theorem length_bytes (s : State) (pa n : Nat) : (s.bytes pa n).length = n := by simp [State.bytes]
theorem getElem_bytes (s : State) {pa n j : Nat} (h : j < (s.bytes pa n).length) : (s.bytes pa n)[j] = s.byte (pa + j) := by simp [State.bytes]

theorem leNat_line_lt (s : State) (pa : Nat) : leNat (s.bytes pa 64) < 2 ^ 512 := by
  have h := s.num_lt pa 64
  rwa [show 8 * 64 = 512 from rfl] at h

theorem byteOf_line {s : State} {v : VReg} {pa j : Nat} (hv : v.toNat = leNat (s.bytes pa 64)) (hj : j < 64) : byteOf v j = s.byte (pa + j) := by
  rw [byteOf_of_toNat (by rwa [length_bytes]) hv, getElem_bytes]

/-! The lines of a raw load of the local window (R111, R137). -/

/-- Without a reply no access of an instruction is skipped or sent elsewhere (R117). -/
theorem State.answer_of_none {s : State} (h : s.me.answers = []) (ord : Nat) (ea : Word) : s.answer ord ea = some ea := by
  rw [State.answer, h]
  rfl

/-- An operation that has read a line of the local window. -/
def Op.withLine (o : Op) (s : State) (a : Word) (off : Nat) : Op :=
  { o with buf := putBytes o.buf off (s.bytes (s.hereAt a) 64), accs := o.accs ++ [⟨a, s.hereAt a, 64, off, none, true, 0, 0, .done⟩] }

theorem loadLinesGo_here {s : State} {ea : Word} {o : Op} {skips : List Nat} {ord off : Nat} {t : List (Nat × Nat × Nat)} (hnone : s.me.answers = [])
    (hal : (ea + BitVec.ofNat 64 off).toNat % 64 = 0) (hea : (ea + BitVec.ofNat 64 off).toNat < Config.sramBytes) (hown : s.ownBusy = false)
    (hp : s.readPoison (s.hereAt (ea + BitVec.ofNat 64 off)) 64 = false) :
    loadLinesGo s ea 64 o skips ((ord, off, 64) :: t) = loadLinesGo s ea 64 (o.withLine s (ea + BitVec.ofNat 64 off) off) skips t := by
  rw [loadLinesGo, reach_local needLoad 0 (State.answer_of_none hnone ord _) hal hea]
  simp only [bind, Except.bind, loadAt_here ord off s.me.home .load 0 hea hown hp]
  rfl

/-- The operation of a raw vector load before its lines. -/
def State.vloadOp (s : State) (L : BitVec 4) : Op := { (newOp s L .plain none) with commit := ⟨none, [], s.me.zeroing⟩ }

@[simp] theorem State.vloadOp_id (s : State) (L : BitVec 4) : (s.vloadOp L).id = s.nextId := rfl
@[simp] theorem State.vloadOp_left (s : State) (L : BitVec 4) : (s.vloadOp L).left = some (L.toNat + 1) := rfl
@[simp] theorem State.vloadOp_done (s : State) (L : BitVec 4) : (s.vloadOp L).done = false := rfl
@[simp] theorem State.vloadOp_zero (s : State) (L : BitVec 4) : (s.vloadOp L).commit.zero = s.me.zeroing := rfl
@[simp] theorem State.vloadOp_buf (s : State) (L : BitVec 4) : (s.vloadOp L).buf = 0 := rfl
@[simp] theorem State.vloadOp_allDone (s : State) (L : BitVec 4) : (s.vloadOp L).allDone = true := rfl

section
variable {s : State} {d : BitVec 5} {b : BitVec 4} {o : BitVec 11} {L : BitVec 4} {pair : Bool}

/-- A vector load that is misaligned as a load of any form traps (R136). -/
theorem vloadBody_misaligned (hgate : gate s 0 = .ok ()) (hal : (s.mAddr b o (if pair then 128 else 64)).toNat % 4 ≠ 0) :
    vloadBody d b o L pair s = .error (.trap .misaligned) := by
  rw [vloadBody, hgate]
  exact if_pos hal

/-- A raw load of the local window reads its lines, and is complete. -/
theorem vloadBody_here {m : Nat} (hmask : s.me.pred ≠ 0) (hm : (if pair then 128 else 64) = m)
    (h : FreeLocal s (s.mAddr b o m) m) {u : Op}
    (hlines : loadLinesGo (s.traceMe 3 0 (s.mAddr b o m)) (s.mAddr b o m) 64 (s.vloadOp L) []
      (loadLines (s.mAddr b o m) none pair s.me.pred) = .ok (u, [], s.traceMe 3 0 (s.mAddr b o m))) :
    vloadBody d b o L pair s = .ok (addLoad (s.traceMe 3 0 (s.mAddr b o m)) { u with kind := .vload d pair s.me.pred }) := by
  obtain ⟨⟨hgate, hans, hal⟩, hea, hown⟩ := h
  have hdvd : 64 ∣ m := by subst hm; cases pair <;> decide
  have hal64 : (s.mAddr b o m).toNat % 64 = 0 := Nat.mod_eq_zero_of_dvd (hdvd.trans (Nat.dvd_of_mod_eq_zero hal))
  have hal4 : (s.mAddr b o m).toNat % 4 = 0 := by omega
  have hraw : decodes s.me.rawf (s.mAddr b o m) (localPlace s.cur.1 (s.mAddr b o m).toNat).attr = false := by
    simp [decodes, Nat.not_le.2 hea]
  rw [vloadBody, hgate]
  simp only [bind, Except.bind, hm]
  rw [← State.mAddr, if_neg (by omega), if_neg hmask, reach_local needLoad 0 hans (Nat.mod_one _) hea]
  simp only [Option.orElse, hraw, Bool.false_eq_true, if_false, Option.isNone_none, hal, ne_eq, not_true, and_false, hmask]
  rw [State.vloadOp] at hlines
  simp only [if_true, hlines]

/-- A raw vector load of the local window is complete as it executes (R132, R136). -/
theorem vload_gives {i : Instr} {m : Nat} {u : Op} (he : exec i s = run i s (vloadBody d b o L pair)) (hm : (if pair then 128 else 64) = m)
    (hnew : NewId s) (ha : Accepts i s) (hmask : s.me.pred ≠ 0) (h : FreeLocal s (s.mAddr b o m) m) (hid : u.id = s.nextId)
    (hleft : u.left = some (L.toNat + 1)) (hall : u.allDone = true) (hdone : u.done = false) (hzero : u.commit.zero = s.me.zeroing)
    (hlines : loadLinesGo (s.traceMe 3 0 (s.mAddr b o m)) (s.mAddr b o m) 64 (s.vloadOp L) []
      (loadLines (s.mAddr b o m) none pair s.me.pred) = .ok (u, [], s.traceMe 3 0 (s.mAddr b o m))) :
    ∃ t p, Completes i s t ∧ t.me.ops = s.me.ops ++ [p] ∧ p.left = some (L.toNat + 1) ∧ p.done = true ∧
      p.commit = pairCommit d pair (BitVec.ofNat 512 u.buf, BitVec.ofNat 512 (u.buf / 2 ^ 512)) s.me.pred s.me.zeroing ∧ t.mem = s.mem := by
  obtain ⟨hops, hmem⟩ := addLoad_ops (s := s.traceMe 3 0 (s.mAddr b o m)) (o := { u with kind := .vload d pair s.me.pred })
    (by rw [(sameCores_traceMe ..).me]; exact fun q hq => hid ▸ hnew q hq) hall hdone (by intros; simp)
  rw [(sameCores_traceMe ..).me] at hops
  refine ⟨_, _, he.trans (run_ok ha (vloadBody_here hmask hm h hlines)), hops, hleft, rfl, ?_, hmem⟩
  rw [← hzero]
  rfl

end

section
variable (p : Op) (s : State) (a : Word) (off : Nat)

@[simp] theorem Op.withLine_id : (p.withLine s a off).id = p.id := rfl
@[simp] theorem Op.withLine_left : (p.withLine s a off).left = p.left := rfl
@[simp] theorem Op.withLine_done : (p.withLine s a off).done = p.done := rfl
@[simp] theorem Op.withLine_commit : (p.withLine s a off).commit = p.commit := rfl
@[simp] theorem Op.withLine_buf : (p.withLine s a off).buf = putBytes p.buf off (s.bytes (s.hereAt a) 64) := rfl
@[simp] theorem Op.withLine_allDone : (p.withLine s a off).allDone = p.allDone := by simp [Op.allDone, Op.withLine]

end

section
variable {s : State} {b : BitVec 4} {o : BitVec 11} {L : BitVec 4}

/-- The first line of a raw load that nothing stands in the way of. -/
theorem loadLinesGo_first {m : Nat} {t : List (Nat × Nat × Nat)} (hnone : s.me.answers = []) (h : FreeLocal s (s.mAddr b o m) m) (hm : 64 ∣ m)
    (hp : s.readPoison (s.hereAt (s.mAddr b o m)) 64 = false) :
    loadLinesGo (s.traceMe 3 0 (s.mAddr b o m)) (s.mAddr b o m) 64 (s.vloadOp L) [] ((0, 0, 64) :: t) =
      loadLinesGo (s.traceMe 3 0 (s.mAddr b o m)) (s.mAddr b o m) 64 ((s.vloadOp L).withLine (s.traceMe 3 0 (s.mAddr b o m)) (s.mAddr b o m) 0) [] t := by
  obtain ⟨⟨-, -, hal⟩, hea, hown⟩ := h
  have hal64 : (s.mAddr b o m).toNat % 64 = 0 := Nat.mod_eq_zero_of_dvd (hm.trans (Nat.dvd_of_mod_eq_zero hal))
  have hfirst : s.mAddr b o m + BitVec.ofNat 64 0 = s.mAddr b o m := BitVec.add_zero _
  refine (loadLinesGo_here ?_ (by rwa [hfirst]) (by rwa [hfirst]) (by simpa using hown) (by rw [hfirst]; simpa using hp)).trans ?_
  · rw [(sameCores_traceMe ..).me, hnone]
  · rw [hfirst]

theorem vld_here {d : BitVec 5} (hnone : s.me.answers = []) (hnew : NewId s) (ha : Accepts (.vld d b o L) s) (hmask : s.me.pred ≠ 0)
    (h : FreeLocal s (s.mAddr b o 64) 64) (hp : s.readPoison (s.hereAt (s.mAddr b o 64)) 64 = false) :
    ∃ t p v, Completes (.vld d b o L) s t ∧ t.me.ops = s.me.ops ++ [p] ∧ p.left = some (L.toNat + 1) ∧ p.done = true ∧
      p.commit = ⟨none, [(d, v, s.me.pred)], s.me.zeroing⟩ ∧ (∀ j, j < 64 → byteOf v j = s.byte (s.hereAt (s.mAddr b o 64) + j)) ∧ t.mem = s.mem := by
  obtain ⟨t, p, hc, hops, hleft, hdone, hcommit, hmem⟩ := vload_gives (exec_vld ..) rfl hnew ha hmask h (by simp) (by simp) (by simp) (by simp) (by simp)
    (loadLinesGo_first hnone h (by decide) hp)
  refine ⟨t, p, _, hc, hops, hleft, hdone, hcommit, fun j hj => byteOf_line ?_ hj, hmem⟩
  rw [Op.withLine_buf, State.vloadOp_buf, putBytes_above (by decide), State.hereAt_traceMe, State.bytes_traceMe, pow_zero, mul_one, Nat.zero_add]
  exact toNat_ofNat_of_lt (leNat_line_lt ..)

/-- The second line of a pair in the local window. -/
theorem second_line {ea : Word} (hal : ea.toNat % 128 = 0) (hea : ea.toNat < Config.sramBytes) :
    (ea + 64).toNat = ea.toNat + 64 ∧ (ea + 64).toNat % 64 = 0 ∧ (ea + 64).toNat < Config.sramBytes := by
  unfold Config.sramBytes at *
  have h : (ea + 64).toNat = ea.toNat + 64 := by rw [BitVec.toNat_add]; simp; omega
  omega

theorem State.hereAt_add (s : State) {ea : Word} {n : Nat} {a : Word} (h : a.toNat = ea.toNat + n) : s.hereAt a = s.hereAt ea + n := by
  simp only [State.hereAt, sramPa, h]
  split <;> omega

theorem vldp_here {q : BitVec 4} (hnone : s.me.answers = []) (hnew : NewId s) (ha : Accepts (.vldp q b o L) s) (hmask : s.me.pred ≠ 0)
    (h : FreeLocal s (s.mAddr b o 128) 128) (hp : s.readPoison (s.hereAt (s.mAddr b o 128)) 64 = false)
    (hp' : s.readPoison (s.hereAt (s.mAddr b o 128) + 64) 64 = false) :
    ∃ t p v w, Completes (.vldp q b o L) s t ∧ t.me.ops = s.me.ops ++ [p] ∧ p.left = some (L.toNat + 1) ∧ p.done = true ∧
      p.commit = ⟨none, [(q ++ 0#1, v, s.me.pred), (q ++ 0#1 + 1, w, s.me.pred)], s.me.zeroing⟩ ∧
      (∀ j, j < 64 → byteOf v j = s.byte (s.hereAt (s.mAddr b o 128) + j)) ∧
      (∀ j, j < 64 → byteOf w j = s.byte (s.hereAt (s.mAddr b o 128) + 64 + j)) ∧ t.mem = s.mem := by
  have hfirst := loadLinesGo_first (L := L) (t := [(1, 64, 64)]) hnone h (by decide) hp
  obtain ⟨⟨-, -, hal⟩, hea, hown⟩ := id h
  obtain ⟨hadd, hal', hea'⟩ := second_line hal hea
  have hat := s.hereAt_add hadd
  have hsecond := loadLinesGo_here (s := s.traceMe 3 0 (s.mAddr b o 128)) (ea := s.mAddr b o 128) (off := 64) (ord := 1) (skips := []) (t := [])
    (o := (s.vloadOp L).withLine (s.traceMe 3 0 (s.mAddr b o 128)) (s.mAddr b o 128) 0)
    (by rw [(sameCores_traceMe ..).me, hnone]) hal' hea' (by simpa using hown)
    (by rw [State.readPoison_traceMe, State.hereAt_traceMe]; exact hat ▸ hp')
  obtain ⟨t, p, hc, hops, hleft, hdone, hcommit, hmem⟩ := vload_gives (exec_vldp ..) rfl hnew ha hmask h (by simp) (by simp) (by simp) (by simp) (by simp)
    (hfirst.trans hsecond)
  have hsecond_at : (s.traceMe 3 0 (s.mAddr b o 128)).hereAt (s.mAddr b o 128 + BitVec.ofNat 64 64) = s.hereAt (s.mAddr b o 128) + 64 := hat
  rw [Op.withLine_buf, Op.withLine_buf, State.vloadOp_buf, putBytes_lines (length_bytes ..), hsecond_at, State.hereAt_traceMe, State.bytes_traceMe,
    State.bytes_traceMe] at hcommit
  exact ⟨t, p, _, _, hc, hops, hleft, hdone, hcommit, fun j hj => byteOf_line (toNat_ofNat_add_mul (leNat_line_lt ..) _) hj,
    fun j hj => byteOf_line (toNat_ofNat_add_mul_div (leNat_line_lt ..) (leNat_line_lt ..)) hj, hmem⟩

end

end Sys2Proof.Machine
end

section
/-! SUPPORT. Vector stores to the local window: what a store leaves of the holds and accesses under way, the bytes of a masked line, and
the statement about vector loads and stores. -/

open Sys2Proof Sys2Proof.Machine

namespace Sys2Proof.Machine

/-! What is under way after a write of memory, and after a trace entry (R115, R130, R344). -/

section
variable {s t : State} {c : Nat} (hfault : t.paFault = s.paFault) (hwalk : t.walk = s.walk) (hentries : (t.brick c).entries = (s.brick c).entries)
include hfault hwalk hentries

theorem placeOf_translate_congr (space ea : Nat) (rd : Bool) : placeOf (t.translate c space ea rd) = placeOf (s.translate c space ea rd) := by
  simp only [State.translate, hfault, hwalk, hentries]
  split
  · rfl
  · split
    · split <;> rfl
    · split
      · simp only [bind, Except.bind]
        split
        · rfl
        · split <;> rfl
      · simp only [bind, Except.bind]
        split
        · rfl
        · split
          · rfl
          · split <;> rfl

/-- The place that a check answers depends on the faults, the walk and the interface's entries alone. -/
theorem placeOf_check_congr (space ea : Nat) (n : Need) : placeOf (t.check c space ea n) = placeOf (s.check c space ea n) := by
  have hplace := placeOf_translate_congr hfault hwalk hentries space ea (!n.w)
  simp only [State.check]
  split
  · rfl
  · simp only [bind, Except.bind]
    revert hplace
    cases t.translate c space ea (!n.w) <;> cases s.translate c space ea (!n.w) <;> simp only [placeOf] <;> intro hplace
    · exact hplace
    · cases hplace
    · cases hplace
    · injection hplace with e
      rw [e]
      cases n.fault _ <;> rfl

theorem flightPa_congr (f : Flight) : t.flightPa c f = s.flightPa c f := by
  have hplace := placeOf_check_congr hfault hwalk hentries f.space f.ea.toNat ⟨false, true, false, .sealedStore, .store⟩
  simp only [State.flightPa]
  revert hplace
  cases t.check c f.space f.ea.toNat ⟨false, true, false, .sealedStore, .store⟩ <;>
    cases s.check c f.space f.ea.toNat ⟨false, true, false, .sealedStore, .store⟩ <;> simp only [placeOf] <;> intro hplace
  · trivial
  · cases hplace
  · cases hplace
  · injection hplace with e
    rw [e]

end

theorem gate_congr {s t : State} {c : Nat} (hme : t.me = s.me) (hholds : ∀ h, t.holdDone h = s.holdDone h) : gate s c = .ok () → gate t c = .ok () := by
  intro h
  simp only [gate, hme, hholds] at h ⊢
  split at h
  next => cases h
  next hfx =>
    split at h
    next => cases h
    next hops => rw [if_neg hfx, if_neg hops]

section
variable (s : State)

/-- The state with other bytes, their log and their poison. -/
def State.withMemory (m : List Host.Cell) (l : List CodeStore) (p : List Nat) : State := { s with mem := m, codeLog := l, poison := p }

theorem State.flightPa_withMemory (m : List Host.Cell) (l : List CodeStore) (p : List Nat) (b : Nat) :
    (s.withMemory m l p).flightPa b = s.flightPa b := by
  funext f
  exact flightPa_congr (s := s) (t := s.withMemory m l p) rfl rfl rfl f

theorem State.holdDone_withMemory (m : List Host.Cell) (l : List CodeStore) (p : List Nat) (h : FxHold) :
    (s.withMemory m l p).holdDone h = s.holdDone h := by
  simp only [State.holdDone, State.drainedOf, State.copyBusy, State.flightPa_withMemory]
  rfl

theorem State.ownBusy_withMemory (m : List Host.Cell) (l : List CodeStore) (p : List Nat) : (s.withMemory m l p).ownBusy = s.ownBusy := by
  unfold State.ownBusy
  have hflight : (s.withMemory m l p).flightPa (s.withMemory m l p).cur.1 = s.flightPa s.cur.1 := s.flightPa_withMemory ..
  rw [hflight]
  rfl

theorem any_putKey {α : Type} {p : α → Bool} {k : Nat} {x d : α} (l : List (Nat × α)) (hd : p d = false) (hx : p x = p ((findKey k l).getD d)) :
    ((putKey k x l).any fun q => p q.2) = l.any fun q => p q.2 := by
  induction l with
  | nil => simpa [putKey, findKey, hd] using hx
  | cons q l ih =>
    obtain ⟨j, y⟩ := q
    rw [putKey]
    rw [findKey] at hx
    split
    next hj =>
      rw [if_pos hj, Option.getD_some] at hx
      simp [hx]
    next hj =>
      rw [if_neg hj] at hx
      simp [ih hx]

/-- A change of a brick keeps what all bricks' matrix commands say, if it keeps that brick's. -/
theorem State.any_matq_modBrick (b : Nat) {f : Brick → Brick} (hf : ∀ x, (f x).matq = x.matq) (p : MatCmd → Bool) :
    ((s.modBrick b f).bricks.any fun q => q.2.matq.any p) = s.bricks.any fun q => q.2.matq.any p := by
  have hnone : ((Brick.initial b).matq.any p) = false := by
    unfold Brick.initial
    split <;> rfl
  exact any_putKey (p := fun x : Brick => x.matq.any p) s.bricks hnone (by rw [hf]; rfl)

theorem State.holdDone_traceMe (kd ac : Nat) (d : Word) (h : FxHold) : (s.traceMe kd ac d).holdDone h = s.holdDone h := by
  have hkeep {α : Type} (p : Brick → α) (hp : ∀ x e g, p (Brick.record x e g) = p x) (c : Nat) : p ((s.traceMe kd ac d).brick c) = p (s.brick c) :=
    s.field_modBrick s.cur.1 p (fun x => hp x _ _) c
  have hflight (c : Nat) : (s.traceMe kd ac d).flightPa c = s.flightPa c := funext fun g => (sameView_record _ _).flightPa c g
  have hissued (p : MatCmd → Bool) : ((s.traceMe kd ac d).bricks.any fun q => q.2.matq.any p) = s.bricks.any fun q => q.2.matq.any p :=
    s.any_matq_modBrick s.cur.1 (fun x => x.record_matq ..) p
  simp only [State.holdDone, State.drainedOf, State.copyBusy, State.matrixBusy, State.messageBusy, hflight, hissued,
    hkeep Brick.strands Brick.record_strands, hkeep Brick.ready Brick.record_ready, hkeep Brick.away Brick.record_away,
    hkeep Brick.kept (fun x e g => by rw [Brick.record_eq]), hkeep Brick.chans Brick.record_chans,
    hkeep Brick.held Brick.record_held, hkeep Brick.flights Brick.record_flights, hkeep Brick.matq Brick.record_matq, hkeep Brick.panels Brick.record_panels]
  rfl

end

/-! Places of a line of the local window (R31, R36). -/

section
variable (s : State) {ea : Word} {j : Nat}

theorem State.paOff_hereAt_add (hea : ea.toNat + j < Config.sramBytes) : paOff (s.hereAt ea + j) = paOff (s.hereAt ea) + j := by
  unfold Config.sramBytes at hea
  simp only [State.hereAt, paOff, sramPa, bits]
  split <;> omega

/-- A line of the local window lies in the deque's region or outside it as a whole. -/
theorem State.inDeque_line (hal : ea.toNat % 64 = 0) (hea : ea.toNat < Config.sramBytes) (hj : j < 64) :
    s.inDeque (s.hereAt ea + j) = s.inDeque (s.hereAt ea) := by
  unfold Config.sramBytes at hea
  have hplace : paClass (s.hereAt ea + j) = paClass (s.hereAt ea) ∧ paBrick (s.hereAt ea + j) = paBrick (s.hereAt ea) ∧
      (s.hereAt ea + j < 2 ^ 52 ↔ s.hereAt ea < 2 ^ 52) := by
    simp only [State.hereAt, paClass, paBrick, sramPa, bits]
    split <;> omega
  have hoff : paOff (s.hereAt ea + j) = paOff (s.hereAt ea) + j := s.paOff_hereAt_add (by unfold Config.sramBytes; omega)
  have hsmall : paOff (s.hereAt ea) = ea.toNat := by
    simp only [State.hereAt, paOff, sramPa, bits]
    split <;> omega
  obtain ⟨hclass, hbrick, hlow⟩ := hplace
  have hbase : Config.dequeBase ≤ ea.toNat + j ↔ Config.dequeBase ≤ ea.toNat := by unfold Config.dequeBase; omega
  have htop : ea.toNat + j < Config.sramBytes ↔ ea.toNat < Config.sramBytes := by unfold Config.sramBytes; omega
  simp only [State.inDeque, hclass, hbrick, hlow, hoff, hsmall, hbase, htop]

end

/-! The bytes of a masked line (R138). -/

theorem getElem?_maskedBytes (v : VReg) (m : PReg) {j : Nat} (hj : j < 64) :
    (maskedBytes v m)[j]? = some (if m.getLsbD j then some (byteOf v j) else none) := by
  have hbyte : (toBytes v)[j]? = some (byteOf v j) := by
    rw [toBytes, List.getElem?_eq_getElem (by rwa [length_leBytes]), getElem_leBytes]
    refine congrArg some (BitVec.eq_of_toNat_eq ?_)
    rw [BitVec.toNat_ofNat, byteOf, BitVec.extractLsb'_toNat, Nat.shiftRight_eq_div_pow, Nat.pow_mul 2 8 j]
  rw [maskedBytes, List.getElem?_map, List.getElem?_zipIdx, hbyte]
  simp

theorem length_maskedBytes (v : VReg) (m : PReg) : (maskedBytes v m).length = 64 := by simp [maskedBytes, toBytes]

/-- An address is in no CTRL of a chain that the moving strand's brick runs (R196). -/
def State.ctrlFree (s : State) (pa : Nat) : Prop := ∀ r ∈ s.here.chains, paOff pa < r ∨ r + 8 ≤ paOff pa

/-- A store by software outside the CTRLs of running chains writes what it holds. -/
theorem State.getElem?_soft {s : State} {ea : Word} {j : Nat} (l : List (Option Byte)) (hea : ea.toNat + j < Config.sramBytes)
    (hfree : s.ctrlFree (s.hereAt ea + j)) : (s.soft (s.hereAt ea) l)[j]? = l[j]? := by
  rw [State.soft]
  split
  · rfl
  next hrun =>
    have hbrick : paBrick (s.hereAt ea) = s.cur.1 := (paBrick_sramPa (by omega)).resolve_right fun h => hrun (.inr (.inl h))
    have hnone : (s.brick (paBrick (s.hereAt ea))).chains.find? (fun r => decide (r ≤ paOff (s.hereAt ea) + j) &&
        decide (paOff (s.hereAt ea) + j < r + 8)) = none := by
      rw [List.find?_eq_none, hbrick]
      intro r hr
      have := hfree r hr
      rw [s.paOff_hereAt_add hea] at this
      simp
      omega
    rw [List.getElem?_map, List.getElem?_zipIdx]
    cases l[j]? with
    | none => rfl
    | some v => simp [hnone]

/-- A write leaves the bytes that it holds no value for. -/
theorem cellAt_poke_none {s : State} (h : Memory.wf s.mem = true) (pa i : Nat) (l : List (Option Byte)) (hl : l[i]? = some none) :
    cellAt (s.poke pa l).mem (pa + i) = cellAt s.mem (pa + i) := by
  induction l generalizing s pa i with
  | nil => simp at hl
  | cons o l ih =>
    cases i with
    | zero =>
      obtain rfl : o = none := by simpa using hl
      exact cellAt_poke_out h (pa + 1) l (pa + 0) (.inl (by omega))
    | succ i =>
      rw [show pa + (i + 1) = pa + 1 + i by omega]
      cases o with
      | none => exact ih h _ _ hl
      | some v =>
        simp only [State.poke]
        split
        · exact ih h _ _ hl
        · refine (ih (s := { s with mem := cellSet s.mem pa v }) (wf_cellSet h pa v) _ _ hl).trans ?_
          exact cellAt_cellSet_ne h (by omega) v

/-! One line of a vector store (R138). -/

section
variable {s : State} {ea : Word}

/-- The state after a store of bytes to a line of the local window. -/
def State.lineStored (s : State) (ea : Word) (l : List (Option Byte)) (log : List CodeStore) (poison : List Nat) : State :=
  (s.withMemory (s.poke (s.hereAt ea) (s.soft (s.hereAt ea) l)).mem log poison).traceMe 3 Access.store.num ea

theorem storeAccess_ord (hnone : s.me.answers = []) (hlow : ea.toNat < 2 ^ 57) (ord al len : Nat) (act : FAct) (a : Access) :
    storeAccess s ord ea al len act a = storeAccess s 0 ea al len act a := by
  simp only [storeAccess, State.answer_of_none hnone, if_neg (Nat.not_le.2 hlow)]

theorem storeAccess_line (hnone : s.me.answers = []) (h : FreeLocal s ea 64) (hd : s.inDeque (s.hereAt ea) = false) (ord : Nat)
    (l : List (Option Byte)) : ∃ log poison, storeAccess s ord ea 64 64 (.write l) .store = .ok (s.lineStored ea l log poison) := by
  obtain ⟨-, hea, -⟩ := id h
  have hlow : ea.toNat < 2 ^ 57 := by unfold Config.sramBytes at hea; omega
  have hnote : ∃ log, noteCode s s.cur.1 s.cur.2 (s.hereAt ea) 64 = s.withMemory s.mem log s.poison := by
    have hfar : ¬(paClass (s.hereAt ea) = 2 ∧ s.hereAt ea < 2 ^ 52) := not_class_sramPa hea (by decide)
    rw [noteCode, noteBy, State.touchFar, if_neg hfar]
    exact ⟨_, rfl⟩
  obtain ⟨log, hlog⟩ := hnote
  refine ⟨log, s.poison.filter fun u => !unitCovered u (s.hereAt ea) (s.soft (s.hereAt ea) l), ?_⟩
  have hpoke : ((s.withMemory s.mem log s.poison).poke (s.hereAt ea) (s.soft (s.hereAt ea) l)).mem =
      (s.poke (s.hereAt ea) (s.soft (s.hereAt ea) l)).mem := poke_mem_congr (s := s) (t := s.withMemory s.mem log s.poison) rfl (fun _ => rfl) _ _
  have hsoft : (s.withMemory s.mem log s.poison).soft (s.hereAt ea) l = s.soft (s.hereAt ea) l := rfl
  rw [storeAccess_ord hnone hlow, storeAccess_here_ok h (performAct_write (by rw [noteCode, noteBy_inDeque]; exact hd)), hlog, hsoft,
    State.writeOpt_eq, hpoke]
  rfl

variable (l : List (Option Byte)) (log : List CodeStore) (poison : List Nat)

theorem State.sameCores_lineStored : s.SameCores (s.lineStored ea l log poison) :=
  (sameCores_of_bricks (t := s.withMemory (s.poke (s.hereAt ea) (s.soft (s.hereAt ea) l)).mem log poison) rfl rfl).trans (sameCores_traceMe ..)

theorem State.wf_lineStored (h : Memory.wf s.mem = true) : Memory.wf (s.lineStored ea l log poison).mem = true := wf_poke h _ _

theorem State.chains_lineStored : (s.lineStored ea l log poison).here.chains = s.here.chains :=
  (s.withMemory _ log poison).field_modBrick s.cur.1 Brick.chains (fun x => x.record_chains ..) s.cur.1

/-- What may issue before a store of a line may issue after it. -/
theorem State.freeLocal_lineStored {a : Word} {al : Nat} (hnone : s.me.answers = []) (h : FreeLocal s a al) :
    FreeLocal (s.lineStored ea l log poison) a al := by
  obtain ⟨⟨hgate, -, hal⟩, hea, hown⟩ := h
  have hme := (State.sameCores_lineStored (s := s) (ea := ea) l log poison).me
  refine ⟨⟨gate_congr hme (fun h => ?_) hgate, State.answer_of_none (hme ▸ hnone) .., hal⟩, hea, ?_⟩
  · rw [State.lineStored, State.holdDone_traceMe, State.holdDone_withMemory]
  · rw [State.lineStored, State.ownBusy_traceMe, State.ownBusy_withMemory, hown]

theorem State.byte_lineStored_out (hwf : Memory.wf s.mem = true) (hlen : l.length = 64) {a : Nat} (ha : a < s.hereAt ea ∨ s.hereAt ea + 64 ≤ a)
    (hd : s.inDeque a = false) : (s.lineStored ea l log poison).byte a = s.byte a := by
  have hcores := State.sameCores_lineStored (s := s) (ea := ea) l log poison
  rw [State.byte_of_not_inDeque (hcores.inDeque a ▸ hd), State.byte_of_not_inDeque hd]
  exact cellAt_poke_out hwf _ _ _ (by rwa [State.length_soft, hlen])

theorem State.byte_lineStored (v : VReg) (m : PReg) (hwf : Memory.wf s.mem = true) (hal : ea.toNat % 64 = 0) (hea : ea.toNat < Config.sramBytes)
    (hd : s.inDeque (s.hereAt ea) = false) {j : Nat} (hj : j < 64) (hfree : s.ctrlFree (s.hereAt ea + j)) :
    (s.lineStored ea (maskedBytes v m) log poison).byte (s.hereAt ea + j) = if m.getLsbD j then byteOf v j else s.byte (s.hereAt ea + j) := by
  have hline : s.inDeque (s.hereAt ea + j) = false := (s.inDeque_line hal hea hj).trans hd
  have hcores := State.sameCores_lineStored (s := s) (ea := ea) (maskedBytes v m) log poison
  have hheld := (State.getElem?_soft (maskedBytes v m) (by unfold Config.sramBytes at *; omega) hfree).trans (getElem?_maskedBytes v m hj)
  rw [State.byte_of_not_inDeque (hcores.inDeque _ ▸ hline), State.byte_of_not_inDeque hline]
  split
  next hon =>
    rw [if_pos hon] at hheld
    exact cellAt_poke_in hwf _ _ _ _ hheld hline
  next hoff =>
    rw [if_neg hoff] at hheld
    exact cellAt_poke_none hwf _ _ _ hheld

end

/-! Vector stores (R138). -/

section
variable {s : State} {d : BitVec 5} {q b : BitVec 4} {o : BitVec 11} {pair : Bool} {m : Nat}

/-- No reply has passed access 0. -/
theorem fresh_of_none (h : s.me.answers = []) : (s.me.answers.find? fun q => q.1 = 0).isNone = true := by rw [h]; rfl

theorem vstoreBody_misaligned (hnone : s.me.answers = []) (hgate : gate s 0 = .ok ()) (hm : (if pair then 128 else 64) = m)
    (hal : (s.mAddr b o m).toNat % m ≠ 0) (hlow : (s.mAddr b o m).toNat % 4 ≠ 0 ∨ (s.mAddr b o m).toNat < 2 ^ 57 ∨ s.me.pred = 0) :
    vstoreBody d b o pair s = .error (.trap .misaligned) := by
  rw [vstoreBody, hgate]
  simp only [bind, Except.bind, hm, fresh_of_none hnone, true_and]
  rw [← State.mAddr]
  by_cases h4 : (s.mAddr b o m).toNat % 4 ≠ 0
  · rw [if_pos h4]
  · have hin : ¬(s.me.pred ≠ 0 ∧ 2 ^ 57 ≤ (s.mAddr b o m).toNat) := fun ⟨hp, hhigh⟩ =>
      hlow.elim h4 fun h => h.elim (Nat.not_lt.2 hhigh) hp
    rw [if_neg h4, if_neg hin, if_pos hal]

theorem vstoreBody_unmapped (hnone : s.me.answers = []) (hgate : gate s 0 = .ok ()) (hm : (if pair then 128 else 64) = m)
    (hal : (s.mAddr b o m).toNat % 4 = 0) (hhigh : 2 ^ 57 ≤ (s.mAddr b o m).toNat) (hp : s.me.pred ≠ 0) :
    vstoreBody d b o pair s = .error (.post ⟨.notMapped, .store, s.mAddr b o m, 0, 0, []⟩) := by
  rw [vstoreBody, hgate]
  simp only [bind, Except.bind, hm, fresh_of_none hnone, true_and]
  rw [← State.mAddr, if_neg (not_not.2 hal), if_pos ⟨hp, hhigh⟩]

/-- A vector store to the local window makes its lines' stores. -/
theorem vstoreBody_here (hnone : s.me.answers = []) (hp : s.me.pred ≠ 0) (hm : (if pair then 128 else 64) = m) (h : FreeLocal s (s.mAddr b o m) m) :
    vstoreBody d b o pair s = whole s (do
      let t ← storeAccess s 0 (s.mAddr b o m) 64 64 (.write (maskedBytes (s.me.vreg d) s.me.pred)) .store
      if pair then storeAccess t 1 (s.mAddr b o m + 64) 64 64 (.write (maskedBytes (s.me.vreg (d + 1)) s.me.pred)) .store else .ok t) := by
  obtain ⟨⟨hgate, -, hal⟩, hea, -⟩ := h
  have hdvd : 4 ∣ m := by subst hm; cases pair <;> decide
  have hal4 : (s.mAddr b o m).toNat % 4 = 0 := Nat.mod_eq_zero_of_dvd (hdvd.trans (Nat.dvd_of_mod_eq_zero hal))
  have hlow : ¬2 ^ 57 ≤ (s.mAddr b o m).toNat := by unfold Config.sramBytes at hea; omega
  rw [vstoreBody, hgate]
  simp only [bind, Except.bind, hm, fresh_of_none hnone, true_and]
  rw [← State.mAddr, if_neg (not_not.2 hal4), if_neg fun h => hlow h.2, if_neg (not_not.2 hal), if_neg hp]

/-- State t has the bytes v at the n places from pa on where s's predicate lets them through, outside running chains' CTRLs, and s's bytes
elsewhere (R138, R196). -/
def Stored (s t : State) (v : Nat → Byte) (pa n : Nat) : Prop :=
  (∀ j, j < n → (∀ r ∈ s.here.chains, paOff (pa + j) < r ∨ r + 8 ≤ paOff (pa + j)) →
    t.byte (pa + j) = if s.me.pred.getLsbD (j % 64) then v j else s.byte (pa + j)) ∧
  ∀ a, (a < pa ∨ pa + n ≤ a) → s.inDeque a = false → t.byte a = s.byte a

theorem stored_line {ea : Word} (v : VReg) (log : List CodeStore) (poison : List Nat) (hwf : Memory.wf s.mem = true) (hal : ea.toNat % 64 = 0)
    (hea : ea.toNat < Config.sramBytes) (hd : s.inDeque (s.hereAt ea) = false) :
    Stored s (s.lineStored ea (maskedBytes v s.me.pred) log poison) (byteOf v) (s.hereAt ea) 64 := by
  refine ⟨fun j hj hfree => ?_, fun a hout => State.byte_lineStored_out _ log poison hwf (length_maskedBytes ..) hout⟩
  rw [Nat.mod_eq_of_lt hj]
  exact State.byte_lineStored log poison _ _ hwf hal hea hd hj hfree

/-- A line and the line behind it. -/
theorem Stored.append {t u : State} {v w : Nat → Byte} {pa : Nat} (h : Stored s t v pa 64) (h' : Stored t u w (pa + 64) 64)
    (hcores : s.SameCores t) (hchains : t.here.chains = s.here.chains) (hd : ∀ j, j < 64 → s.inDeque (pa + j) = false)
    (hd' : ∀ j, j < 64 → s.inDeque (pa + 64 + j) = false) : Stored s u (fun j => if j < 64 then v j else w (j - 64)) pa 128 := by
  obtain ⟨hin, hout⟩ := h
  obtain ⟨hin', hout'⟩ := h'
  rw [hchains, hcores.me] at hin'
  simp only [hcores.inDeque] at hout'
  refine ⟨fun j hj hfree => ?_, fun a ha hda => ?_⟩
  · by_cases hlow : j < 64
    · rw [hout' _ (.inl (by omega)) (hd j hlow), hin j hlow hfree]
      simp only [if_pos hlow]
    · obtain ⟨i, rfl⟩ : ∃ i, j = 64 + i := ⟨j - 64, by omega⟩
      have hi : i < 64 := by omega
      rw [← Nat.add_assoc] at hfree ⊢
      rw [hin' i hi hfree, hout _ (.inr (by omega)) (hd' i hi)]
      simp only [if_neg hlow, Nat.add_sub_cancel_left, Nat.add_mod_left]
  · rw [hout' a (by omega) hda, hout a (by omega) hda]

theorem vst_here (hnone : s.me.answers = []) (ha : Accepts (.vst d b o) s) (hp : s.me.pred ≠ 0) (h : FreeLocal s (s.mAddr b o 64) 64)
    (hd : s.inDeque (s.hereAt (s.mAddr b o 64)) = false) (hwf : Memory.wf s.mem = true) :
    ∃ t, Completes (.vst d b o) s t ∧ Stored s t (byteOf (s.me.vreg d)) (s.hereAt (s.mAddr b o 64)) 64 ∧ t.me.v = s.me.v ∧
      t.me.unacked = s.me.unacked := by
  obtain ⟨log, poison, hstore⟩ := storeAccess_line hnone h hd 0 (maskedBytes (s.me.vreg d) s.me.pred)
  obtain ⟨⟨-, -, hal⟩, hea, -⟩ := id h
  have hbody := vstoreBody_here (d := d) (pair := false) (m := 64) hnone hp rfl h
  have hme := (State.sameCores_lineStored (s := s) (ea := s.mAddr b o 64) (maskedBytes (s.me.vreg d) s.me.pred) log poison).me
  have hstored := stored_line (s.me.vreg d) log poison hwf hal hea hd
  generalize s.lineStored (s.mAddr b o 64) (maskedBytes (s.me.vreg d) s.me.pred) log poison = t at *
  have hdone : vstoreBody d b o false s = .ok t := by
    rw [hbody, hstore]
    rfl
  exact ⟨t, (exec_vst ..).trans (run_ok ha hdone), hstored, congrArg Strand.v hme, congrArg Strand.unacked hme⟩

theorem vstp_here (hnone : s.me.answers = []) (ha : Accepts (.vstp q b o) s) (hp : s.me.pred ≠ 0) (h : FreeLocal s (s.mAddr b o 128) 128)
    (hd : s.inDeque (s.hereAt (s.mAddr b o 128)) = false) (hd' : s.inDeque (s.hereAt (s.mAddr b o 128) + 64) = false)
    (hwf : Memory.wf s.mem = true) : ∃ t, Completes (.vstp q b o) s t ∧ t.me.v = s.me.v ∧ t.me.unacked = s.me.unacked ∧
      Stored s t (fun j => if j < 64 then byteOf (s.me.vreg (q ++ 0#1)) j else byteOf (s.me.vreg (q ++ 0#1 + 1)) (j - 64))
        (s.hereAt (s.mAddr b o 128)) 128 := by
  have hbody := vstoreBody_here (d := q ++ 0#1) (pair := true) (m := 128) hnone hp rfl h
  obtain ⟨⟨hgate, hans, hal128⟩, hea, hown⟩ := h
  generalize s.mAddr b o 128 = ea at *
  obtain ⟨hadd, hal', hea'⟩ := second_line hal128 hea
  have hal : ea.toNat % 64 = 0 := by omega
  have hat := s.hereAt_add hadd
  -- the first line
  obtain ⟨log, poison, hfirst⟩ := storeAccess_line hnone ⟨⟨hgate, hans, hal⟩, hea, hown⟩ hd 0 (maskedBytes (s.me.vreg (q ++ 0#1)) s.me.pred)
  have hcores := State.sameCores_lineStored (s := s) (ea := ea) (maskedBytes (s.me.vreg (q ++ 0#1)) s.me.pred) log poison
  have hstored := stored_line (s.me.vreg (q ++ 0#1)) log poison hwf hal hea hd
  have hwf' := State.wf_lineStored (ea := ea) (maskedBytes (s.me.vreg (q ++ 0#1)) s.me.pred) log poison hwf
  have hchains := State.chains_lineStored (s := s) (ea := ea) (maskedBytes (s.me.vreg (q ++ 0#1)) s.me.pred) log poison
  have hfree := State.freeLocal_lineStored (ea := ea) (maskedBytes (s.me.vreg (q ++ 0#1)) s.me.pred) log poison hnone
    (show FreeLocal s (ea + 64) 64 from ⟨⟨hgate, State.answer_of_none hnone .., hal'⟩, hea', hown⟩)
  generalize s.lineStored ea (maskedBytes (s.me.vreg (q ++ 0#1)) s.me.pred) log poison = t at *
  -- the second line
  have hat' : t.hereAt (ea + 64) = s.hereAt ea + 64 := by rw [← hat, State.hereAt, hcores.1, ← State.hereAt]
  have hdt : t.inDeque (t.hereAt (ea + 64)) = false := by rw [hat', hcores.inDeque, hd']
  obtain ⟨log', poison', hsecond⟩ := storeAccess_line (hcores.me ▸ hnone) hfree hdt 1 (maskedBytes (s.me.vreg (q ++ 0#1 + 1)) t.me.pred)
  have hcores' := State.sameCores_lineStored (s := t) (ea := ea + 64) (maskedBytes (s.me.vreg (q ++ 0#1 + 1)) t.me.pred) log' poison'
  have hstored' := stored_line (s.me.vreg (q ++ 0#1 + 1)) log' poison' hwf' hal' hea' hdt
  generalize t.lineStored (ea + 64) (maskedBytes (s.me.vreg (q ++ 0#1 + 1)) t.me.pred) log' poison' = u at *
  rw [hat'] at hstored'
  rw [hcores.me] at hsecond
  have hdone : vstoreBody (q ++ 0#1) b o true s = .ok u := by
    rw [hbody, hfirst]
    exact congrArg (whole s) hsecond
  have hme := (hcores.trans hcores').me
  refine ⟨u, (exec_vstp ..).trans (run_ok ha hdone), congrArg Strand.v hme, congrArg Strand.unacked hme, ?_⟩
  exact hstored.append hstored' hcores hchains (fun j hj => (s.inDeque_line hal hea hj).trans hd)
    fun j hj => by rw [← hat, s.inDeque_line hal' hea' hj, hat, hd']

end

end Sys2Proof.Machine

/-- Settles O19: a raw load reads its lines into one operation, and a store is one masked line, or two of which the second finds the holds
and the accesses under way as the first found them. -/
theorem vectorLoadsAndStoresMoveTheirLines : Obligations.VectorLoadsAndStoresMoveTheirLines := by
  unfold Obligations.VectorLoadsAndStoresMoveTheirLines
  intro s d q b o l hnone hnew
  exact ⟨vld_here hnone hnew, vldp_here hnone hnew, vst_here hnone, vstp_here hnone,
    fun ha hgate hal => (exec_vld ..).trans (run_trap ha (vloadBody_misaligned hgate hal)),
    fun ha hgate hal => (exec_vldp ..).trans (run_trap ha (vloadBody_misaligned hgate hal)),
    fun ha hgate hal hlow => (exec_vst ..).trans (run_trap ha (vstoreBody_misaligned hnone hgate rfl hal hlow)),
    fun ha hgate hal hlow => (exec_vstp ..).trans (run_trap ha (vstoreBody_misaligned hnone hgate rfl hal hlow)),
    fun ha hgate hal hhigh hp => (exec_vst ..).trans (run_post ha (vstoreBody_unmapped hnone hgate rfl hal hhigh hp)),
    fun ha hgate hal hhigh hp => (exec_vstp ..).trans (run_post ha (vstoreBody_unmapped hnone hgate rfl hal hhigh hp))⟩

end

section
/-! SUPPORT. Gathers and scatters: the elements that pass their checks, the operation and the ring entry of a gather, the response to an element
of it, and the elements of a scatter on their way; and the statement about them. -/

open Sys2Proof Sys2Proof.Machine

namespace Sys2Proof.Machine

/-! The elements at issue (R140). -/

section
variable (s : State) (a : Src) (b : BitVec 5) (w : Nat)

/-- The address of element j of a gather or scatter. -/
def State.elemAddr (j : Nat) : Word := s.scalar a false + BitVec.ofInt 64 (toS (elem (s.me.vreg b) w j) (8 * w) * w)

/-- The active elements of width w. -/
def State.activeElems : List Nat := (List.range (64 / w)).filter fun j => active s.me.pred w j

/-- The active elements with their addresses and their places in the local window. -/
def State.localElems : List (Nat × Word × Nat) := (s.activeElems w).map fun j => (j, s.elemAddr a b w j, s.hereAt (s.elemAddr a b w j))

theorem elemEa_eq (j : Nat) : elemEa (s.scalar a false) (s.me.vreg b) w j = s.elemAddr a b w j := by
  rw [elemEa, State.elemAddr, BitVec.ofInt_mul, BitVec.ofInt_natCast]

variable {s a b w}

theorem gsCheck_local {wr : Bool} {j : Nat} (hnone : s.me.answers = []) (hal : (s.elemAddr a b w j).toNat % w = 0)
    (hea : (s.elemAddr a b w j).toNat < Config.sramBytes) :
    gsCheck s (s.scalar a false) (s.me.vreg b) w wr j = .ok (some (s.elemAddr a b w j, s.hereAt (s.elemAddr a b w j)), s) := by
  have hplaced : s.placed j = none := by rw [State.placed, hnone]; rfl
  have hclass := not_class_sramPa (b := s.cur.1) hea (c := 4) (by decide)
  rw [gsCheck, hplaced]
  simp only [elemEa_eq, reach_local (needGather wr) 0 (State.answer_of_none hnone j _) hal hea, bind, Except.bind, localPlace, if_neg hclass]
  rfl

theorem gsChecks_local {wr : Bool} (hnone : s.me.answers = []) (l : List (Nat × Word × Nat)) {js : List Nat}
    (h : ∀ j ∈ js, (s.elemAddr a b w j).toNat % w = 0 ∧ (s.elemAddr a b w j).toNat < Config.sramBytes) :
    gsChecks s (s.scalar a false) (s.me.vreg b) w wr l js =
      .ok (l ++ js.map fun j => (j, s.elemAddr a b w j, s.hereAt (s.elemAddr a b w j)), s) := by
  induction js generalizing l with
  | nil => simp [gsChecks]
  | cons j js ih =>
    obtain ⟨hal, hea⟩ := h j (by simp)
    rw [gsChecks, gsCheck_local hnone hal hea]
    simp only
    rw [ih _ fun j hj => h j (List.mem_cons_of_mem _ hj)]
    simp

/-- The state in which the checks of a gather or scatter have passed: their outcome is kept. -/
def State.withPlaced (s : State) (l : List (Nat × Word × Nat)) : State := s.modMe fun x =>
  { x with answers := x.answers.filter (fun q => decide (q.1 < 1000 ∨ 2000 ≤ q.1)) ++ gsChecks.kept s l }

theorem gsBegin_local {wr : Bool} (hnone : s.me.answers = []) (hgate : gate s 3 = .ok ())
    (h : ∀ j ∈ s.activeElems w, (s.elemAddr a b w j).toNat % w = 0 ∧ (s.elemAddr a b w j).toNat < Config.sramBytes) :
    gsBegin s a b w wr = .ok (s.localElems a b w, s.withPlaced (s.localElems a b w)) := by
  have hal : ¬(gsBegin.actives s w).any (fun j => decide ((elemEa (s.scalar a false) (s.me.vreg b) w j).toNat % w ≠ 0)) = true := by
    rw [List.any_eq_true]
    rintro ⟨j, hj, hne⟩
    rw [elemEa_eq] at hne
    exact of_decide_eq_true hne (h j hj).1
  rw [gsBegin, hgate]
  simp only [bind, Except.bind]
  rw [if_neg hal, gsBegin.actives, show elems w = 64 / w from rfl, ← State.activeElems, gsChecks_local hnone [] h]
  rfl

theorem gsBegin_misaligned {wr : Bool} (hgate : gate s 3 = .ok ()) (h : ∃ j ∈ s.activeElems w, (s.elemAddr a b w j).toNat % w ≠ 0) :
    gsBegin s a b w wr = .error (.trap .misaligned) := by
  obtain ⟨j, hj, hne⟩ := h
  have hal : (gsBegin.actives s w).any (fun j => decide ((elemEa (s.scalar a false) (s.me.vreg b) w j).toNat % w ≠ 0)) = true :=
    List.any_eq_true.2 ⟨j, hj, decide_eq_true (by rwa [elemEa_eq])⟩
  rw [gsBegin, hgate]
  simp only [bind, Except.bind]
  rw [if_pos hal]

end

/-! The dispatch of a gather or scatter under its ring entry (R23, R140). -/

section
variable (s : State) (l : List (Nat × Word × Nat))

@[simp] theorem State.withPlaced_me : (s.withPlaced l).me = { s.me with
    answers := s.me.answers.filter (fun q => decide (q.1 < 1000 ∨ 2000 ≤ q.1)) ++ gsChecks.kept s l } := State.me_modMe ..

/-- What no trace entry changes, the trace of the elements leaves. -/
theorem gsTrace_keeps {α : Type} (p : State → α) (hp : ∀ t kd ac d, p (State.traceMe t kd ac d) = p t) : p (gsTrace s l) = p s := by
  induction l generalizing s with
  | nil => rfl
  | cons q l ih => exact (ih _).trans (hp ..)

@[simp] theorem gsTrace_me : (gsTrace s l).me = s.me := gsTrace_keeps s l State.me fun _ _ _ _ => State.me_traceMe ..
@[simp] theorem gsTrace_mem : (gsTrace s l).mem = s.mem := gsTrace_keeps s l State.mem fun _ _ _ _ => rfl
@[simp] theorem gsTrace_nextId : (gsTrace s l).nextId = s.nextId := gsTrace_keeps s l State.nextId fun _ _ _ _ => rfl
@[simp] theorem gsTrace_flights : (gsTrace s l).here.flights = s.here.flights := gsTrace_keeps s l (fun t => t.here.flights) fun t _ _ _ =>
  t.field_modBrick _ Brick.flights (fun x => x.record_flights ..) _

/-- The state in which a gather or scatter i has passed its checks, taken its ring entry and been traced. -/
def State.issuing (i : Instr) : State :=
  gsTrace ((s.withPlaced l).withEntry ((s.withPlaced l).ringEntry i 2 0 0)) l

variable (i : Instr)

@[simp] theorem State.issuing_me : (s.issuing l i).me = { s.me with
    answers := s.me.answers.filter (fun q => decide (q.1 < 1000 ∨ 2000 ≤ q.1)) ++ gsChecks.kept s l
    seqNext := s.me.seqNext + 1, ring := s.me.ring ++ [(s.withPlaced l).ringEntry i 2 0 0] } := by
  rw [State.issuing, gsTrace_me, State.withEntry_me, State.withPlaced_me]
@[simp] theorem State.issuing_mem : (s.issuing l i).mem = s.mem := by rw [State.issuing, gsTrace_mem]; rfl
@[simp] theorem State.issuing_nextId : (s.issuing l i).nextId = s.nextId := by rw [State.issuing, gsTrace_nextId]; rfl
@[simp] theorem State.issuing_flights : (s.issuing l i).here.flights = s.here.flights := by
  rw [State.issuing, gsTrace_flights]
  exact ((s.withPlaced l).field_modMe _ Brick.flights (fun _ => rfl) _).trans (s.field_modMe _ Brick.flights (fun _ => rfl) _)

end

section
variable {s : State}

theorem ringTake_placed (h : RingFree s) (l : List (Nat × Word × Nat)) (i : Instr) :
    ringTake (s.withPlaced l) i 2 0 0 = .ok ((s.withPlaced l).withEntry ((s.withPlaced l).ringEntry i 2 0 0), s.me.seqNext) := by
  have hfree : RingFree (s.withPlaced l) := by rw [RingFree, State.withPlaced_me]; exact h
  rw [ringTake_ok hfree, State.withPlaced_me]

/-- The access of an element in the local window is on its way (R112). -/
theorem gatherAcc_local {t : State} {w : Nat} {q : Nat × Word × Nat} (h : homeHere t.cur.1 q.2.2 = true) :
    let c := (gatherAcc t w q).1
    (c.ea, c.pa, c.len, c.off) = (q.2.1, q.2.2, w, w * q.1) ∧ c.st = .pending ∧ (gatherAcc t w q).2 = 0 := by
  simp [gatherAcc, h]

end

/-! Gathers (R139, R140). -/

section
variable {s : State} {g : BitVec 2} {d : BitVec 5} {a : Src} {b : BitVec 5} {l : BitVec 4}

/-- The operation of a gather of elements els. -/
def State.gatherOp (s : State) (w : Nat) (d : BitVec 5) (l : BitVec 4) (els : List (Nat × Word × Nat)) (accs : List (PAcc × Nat))
    (i : Instr) : Op :=
  { (newOp (s.issuing els i) l (.gather d w (activeLanes s.me.pred w)) (some s.me.seqNext)) with
    accs := accs.map (·.1), buf := (accs.map (·.2)).sum, commit := ⟨none, [], s.me.zeroing⟩ }

theorem exec_vgather_local {els : List (Nat × Word × Nat)} (hels : s.localElems a b (widthOf g) = els) (hnone : s.me.answers = [])
    (hfree : RingFree s) (ha : Accepts (.vgather g d a b l) s) (hgate : gate s 3 = .ok ())
    (h : ∀ j ∈ s.activeElems (widthOf g), (s.elemAddr a b (widthOf g) j).toNat % widthOf g = 0 ∧
      (s.elemAddr a b (widthOf g) j).toNat < Config.sramBytes) :
    Completes (.vgather g d a b l) s (addLoad (s.issuing els (.vgather g d a b l)) (s.gatherOp (widthOf g) d l els
      (els.map (gatherAcc ((s.withPlaced els).withEntry ((s.withPlaced els).ringEntry (.vgather g d a b l) 2 0 0)) (widthOf g))) (.vgather g d a b l))) := by
  rw [Completes, exec_vgather, execVgather]
  subst hels
  refine run_ok ha ?_
  simp only [bind, Except.bind, gsBegin_local hnone hgate h, ringTake_placed hfree]
  have hme := State.issuing_me s (s.localElems a b (widthOf g)) (.vgather g d a b l)
  have hpred : (s.issuing (s.localElems a b (widthOf g)) (.vgather g d a b l)).me.pred = s.me.pred := by rw [hme]; rfl
  have hzero : (s.issuing (s.localElems a b (widthOf g)) (.vgather g d a b l)).me.zeroing = s.me.zeroing := by rw [hme]; rfl
  rw [State.gatherOp, ← hpred, ← hzero]
  rfl

/-- An operation of a gather is finished with its last access (R140). -/
theorem gather_not_vdecode {o : Op} {w : Nat} {m : PReg} (h : o.kind = .gather d w m) :
    ∀ d' p g' m' ea sk, o.kind ≠ .vdecode d' p g' m' ea sk := by
  intros
  simp [h]

theorem Op.complete_gather {o : Op} {w : Nat} {m : PReg} (h : o.kind = .gather d w m) :
    o.complete = { o with done := true, commit := ⟨none, [(d, BitVec.ofNat 512 o.buf, m)], o.commit.zero⟩ } := by
  rw [Op.complete, h]

theorem localElems_eq_nil {w : Nat} : s.localElems a b w = [] ↔ s.activeElems w = [] := List.map_eq_nil_iff

/-- The accesses of a gather in the local window: one for each element, none of them performed. -/
theorem gatherAccs_local {t : State} {w : Nat} (hcur : t.cur = s.cur) (h : ∀ j ∈ s.activeElems w, (s.elemAddr a b w j).toNat < Config.sramBytes) :
    let accs := ((s.localElems a b w).map (gatherAcc t w)).map (·.1)
    accs.map (fun c => (c.ea, c.pa, c.len, c.off)) = (s.activeElems w).map (fun j => (s.elemAddr a b w j, s.hereAt (s.elemAddr a b w j), w, w * j)) ∧
      ∀ c ∈ accs, c.st = .pending := by
  have hlocal (j : Nat) (hj : j ∈ s.activeElems w) := gatherAcc_local (t := t) (w := w) (q := (j, s.elemAddr a b w j, s.hereAt (s.elemAddr a b w j)))
    (by rw [hcur]; exact homeHere_sramPa _ _ (h j hj))
  constructor
  · rw [State.localElems, List.map_map, List.map_map, List.map_map]
    exact List.map_congr_left fun j hj => (hlocal j hj).1
  · intro c hc
    simp only [State.localElems, List.map_map, List.mem_map] at hc
    obtain ⟨j, hj, rfl⟩ := hc
    exact (hlocal j hj).2.1

/-- A ring entry that completes leaves its ring; those of other numbers stay. -/
theorem Brick.ring_freeSeq (x : Brick) (ctx : Nat) (q : BitVec 32) (j : Fin 5) : ((x.freeSeq ctx (some q)).strand j).ring =
    (x.strand j).ring.filter fun e => !(e.seq == q && e.tag = ctx && e.fault.isNone) := by
  simp only [Brick.freeSeq, Brick.strand, Vector.get_eq_getElem, Vector.getElem_map]

theorem Brick.ring_modOp (x : Brick) (n : Nat) (f : Op → Op) (j : Fin 5) : ((x.modOp n f).strand j).ring = (x.strand j).ring := by
  simp only [Brick.modOp, Brick.strand, Vector.get_eq_getElem, Vector.getElem_map]

theorem addLoad_ring {o : Op} {q : BitVec 32} (hnew : ∀ q ∈ s.me.ops, q.id ≠ o.id) (hall : o.allDone = true) (hdone : o.done = false)
    (hkind : ∀ d p g m ea sk, o.kind ≠ .vdecode d p g m ea sk) (hseq : o.seq = some q) :
    (addLoad s o).me.ring = s.me.ring.filter fun e => !(e.seq == q && e.tag = s.me.ctxKey && e.fault.isNone) := by
  rw [addLoad_me hnew hall hdone hkind, hseq, Brick.ring_freeSeq, Brick.ring_modOp]
  show ((s.addOp o).me.ring).filter _ = _
  rw [State.addOp_me]

/-- The entry of the next number frees alone (R23). -/
theorem filter_ring_new (hfree : RingFree s) {e : RingEntry} (hseq : e.seq = s.me.seqNext) (htag : e.tag = s.me.ctxKey) (hfault : e.fault = none) :
    (s.me.ring ++ [e]).filter (fun e => !(e.seq == s.me.seqNext && e.tag = s.me.ctxKey && e.fault.isNone)) = s.me.ring := by
  have hold : s.me.ring.filter (fun e => !(e.seq == s.me.seqNext && e.tag = s.me.ctxKey && e.fault.isNone)) = s.me.ring := by
    refine List.filter_eq_self.2 fun e' he' => ?_
    have hne : e'.seq ≠ s.me.seqNext := fun heq => hfree e' he' (by rw [heq])
    simp [hne]
  rw [List.filter_append, hold]
  simp [hseq, htag, hfault]

section
variable (w : Nat) (els : List (Nat × Word × Nat)) (accs : List (PAcc × Nat)) (i : Instr)

@[simp] theorem State.gatherOp_id : (s.gatherOp w d l els accs i).id = s.nextId := State.issuing_nextId ..
@[simp] theorem State.gatherOp_kind : (s.gatherOp w d l els accs i).kind = .gather d w (activeLanes s.me.pred w) := rfl
@[simp] theorem State.gatherOp_accs : (s.gatherOp w d l els accs i).accs = accs.map (·.1) := rfl
@[simp] theorem State.gatherOp_done : (s.gatherOp w d l els accs i).done = false := rfl
@[simp] theorem State.gatherOp_seq : (s.gatherOp w d l els accs i).seq = some s.me.seqNext := rfl

end

/-- A gather of the local window issues (R140). -/
theorem vgather_local (hnone : s.me.answers = []) (hnew : NewId s) (hfree : RingFree s) (ha : Accepts (.vgather g d a b l) s)
    (hgate : gate s 3 = .ok ()) (h : ∀ j ∈ s.activeElems (widthOf g), (s.elemAddr a b (widthOf g) j).toNat % widthOf g = 0 ∧
      (s.elemAddr a b (widthOf g) j).toNat < Config.sramBytes) :
    ∃ t o e, Completes (.vgather g d a b l) s t ∧ t.me.ops = s.me.ops ++ [o] ∧ o.kind = .gather d (widthOf g) (activeLanes s.me.pred (widthOf g)) ∧
      o.accs.map (fun c => (c.ea, c.pa, c.len, c.off)) = (s.activeElems (widthOf g)).map
        (fun j => (s.elemAddr a b (widthOf g) j, s.hereAt (s.elemAddr a b (widthOf g) j), widthOf g, widthOf g * j)) ∧
      (o.done = true ↔ s.activeElems (widthOf g) = []) ∧
      t.me.ring = s.me.ring ++ (if s.activeElems (widthOf g) = [] then [] else [e]) ∧ e.kind = 2 ∧ t.mem = s.mem := by
  have hc := exec_vgather_local rfl hnone hfree ha hgate h
  obtain ⟨hmap, hpending⟩ := gatherAccs_local (s := s) (a := a) (b := b) (w := widthOf g)
    (t := (s.withPlaced (s.localElems a b (widthOf g))).withEntry
      ((s.withPlaced (s.localElems a b (widthOf g))).ringEntry (.vgather g d a b l) 2 0 0)) rfl fun j hj => (h j hj).2
  generalize (s.localElems a b (widthOf g)).map (gatherAcc ((s.withPlaced (s.localElems a b (widthOf g))).withEntry
    ((s.withPlaced (s.localElems a b (widthOf g))).ringEntry (.vgather g d a b l) 2 0 0)) (widthOf g)) = accs at *
  generalize widthOf g = w at *
  generalize s.localElems a b w = els at *
  have hme := s.issuing_me els (.vgather g d a b l)
  have hnew' : ∀ q ∈ (s.issuing els (.vgather g d a b l)).me.ops, q.id ≠ (s.gatherOp w d l els accs (.vgather g d a b l)).id := by
    rw [hme, State.gatherOp_id]
    exact hnew
  by_cases hnil : s.activeElems w = []
  · have hall : (s.gatherOp w d l els accs (.vgather g d a b l)).allDone = true := by
      rw [hnil, List.map_nil, List.map_eq_nil_iff] at hmap
      rw [Op.allDone, State.gatherOp_accs, hmap, List.all_nil]
    obtain ⟨hops, hmem⟩ := addLoad_ops hnew' hall (State.gatherOp_done ..) (gather_not_vdecode (State.gatherOp_kind ..))
    have hfreed := addLoad_ring hnew' hall (State.gatherOp_done ..) (gather_not_vdecode (State.gatherOp_kind ..)) (State.gatherOp_seq ..)
    rw [hme] at hops hfreed
    refine ⟨_, _, (s.withPlaced els).ringEntry (.vgather g d a b l) 2 0 0, hc, hops, ?_, ?_, ?_, ?_, rfl, hmem.trans (State.issuing_mem ..)⟩
    · rw [Op.complete_gather (State.gatherOp_kind ..)]
      rfl
    · rw [Op.complete_gather (State.gatherOp_kind ..)]
      exact hmap
    · rw [Op.complete_gather (State.gatherOp_kind ..)]
      simp [hnil]
    · rw [if_pos hnil, List.append_nil]
      refine hfreed.trans (filter_ring_new hfree ?_ ?_ rfl)
      · rw [State.ringEntry, State.withPlaced_me]
      · rw [State.ringEntry, State.withPlaced_me]
        rfl
  · have hall : (s.gatherOp w d l els accs (.vgather g d a b l)).allDone = false := by
      rw [Op.allDone, State.gatherOp_accs]
      refine List.all_eq_false.2 ?_
      obtain ⟨c, hc⟩ := List.exists_mem_of_ne_nil (accs.map (·.1)) fun hempty => hnil (by
        rw [hempty, List.map_nil] at hmap
        exact List.map_eq_nil_iff.1 hmap.symm)
      exact ⟨c, hc, by simp [hpending c hc]⟩
    rw [addLoad_pending hnew' hall] at hc
    refine ⟨_, s.gatherOp w d l els accs (.vgather g d a b l), (s.withPlaced els).ringEntry (.vgather g d a b l) 2 0 0, hc, ?_, rfl, hmap, ?_, ?_,
      rfl, ?_⟩
    · rw [State.addOp_me, hme]
    · simp [hnil]
    · rw [State.addOp_me, hme, if_neg hnil]
    · exact State.issuing_mem ..

end

/-! The response to an element of a gather (R111, R141). -/

section
variable {s : State} {b id : Nat} {k : Fin 5} {o : Op} {c : PAcc} {w : Nat} {d : BitVec 5} {m : PReg}

theorem findOp_finishOp (h : (s.brick b).findOp id = some (k, o)) (hall : o.allDone = true) (hdone : o.done = false)
    (hkind : ∀ d p g m ea sk, o.kind ≠ .vdecode d p g m ea sk) :
    ((finishOp s b k id).brick b).findOp id = some (k, o.complete) ∧ (finishOp s b k id).mem = s.mem := by
  rw [finishOp_of_find (Brick.find_ops_of_findOp h) hall hdone hkind]
  refine ⟨?_, rfl⟩
  rw [State.brick_modBrick_same, Brick.findOp_congr (Brick.freeSeq_ops _ _ _)]
  exact Brick.findOp_modOp Op.complete_id h

/-- The response to an element that nothing stands in the way of: its bytes go to its buffer, and the operation goes on. -/
theorem loadResponse_gather (h : (s.brick b).findOp o.id = some (k, o)) (hg : o.isGather = true) (hst : c.st = .pending) (hamo : c.amo = none)
    (hready : s.homeReady c.pa = true) (hap : ¬(paClass c.pa = 4 ∧ c.pa < 2 ^ 52)) (hbad : s.readBad b o.space c.ea.toNat c.pa c.len = false) :
    ∃ u : State, loadResponse s b k o 0 c = finishOp u b k o.id ∧ u.mem = s.mem ∧
      (u.brick b).findOp o.id = some (k, putAcc o 0 (s.bytes c.pa c.len)) := by
  have hmay : s.mayReach o.id c.pa = true := by rw [State.mayReach, hready, Bool.true_or]
  have hearlier : earlierAcc o 0 c = false := rfl
  have hput := Brick.findOp_modOp (f := fun q => putAcc q 0 (s.bytes c.pa c.len)) (fun q => putAcc_id q 0 _) h
  simp only [loadResponse, hst, hmay, hg, hearlier, if_neg hap, hbad, hamo, Bool.not_true, ne_eq, not_true, Bool.false_eq_true,
    false_and, or_self, reduceCtorEq, if_false]
  refine ⟨_, rfl, ?_⟩
  obtain ⟨hmem, hfound⟩ := fill_keeps_ops (s.modBrick b fun x => x.modOp o.id fun q => putAcc q 0 (s.bytes c.pa c.len)).bumpFree b o.space
    (lineOf c.ea.toNat) o.id (s.bytes (c.pa / 64 * 64) 64) (!c.nofill && !s.readPoison (c.pa / 64 * 64) 64 &&
      decide (c.epoch = (s.brick b).epoch) && !(s.brick b).cutSince c.cut o.space (lineOf c.ea.toNat))
  rw [State.bumpFree_brick, State.brick_modBrick_same, hput] at hfound
  exact ⟨hmem, hfound⟩

/-- The only element of a gather is performed: its bytes stand at its place in the buffer. -/
theorem putAcc_element (haccs : o.accs = [c]) (hbuf : o.buf = 0) (l : List Byte) :
    putAcc o 0 l = { o with buf := leNat l * 256 ^ c.off, accs := [{ c with st := .done }] } := by
  simp [putAcc, haccs, hbuf, putBytes]

theorem gather_delivers (h : (s.brick b).findOp id = some (k, o)) (hkind : o.kind = .gather d w m) (haccs : o.accs = [c]) (hdone : o.done = false)
    (hbuf : o.buf = 0) (hst : c.st = .pending) (hamo : c.amo = none) (hlen : c.len = w) (hready : s.homeReady c.pa = true)
    (hbad : s.readBad b o.space c.ea.toNat c.pa w = false) (hap : ¬(paClass c.pa = 4 ∧ c.pa < 2 ^ 52)) :
    ∃ t p, exec (.loadResponse b id 0) s = .next t ∧ (t.brick b).findOp id = some (k, p) ∧ p.done = true ∧
      p.commit.vs = [(d, BitVec.ofNat 512 (s.num c.pa w * 256 ^ c.off), m)] ∧ t.mem = s.mem := by
  obtain rfl := Brick.id_of_findOp h
  subst hlen
  have hpending : o.allDone = false := by simp [Op.allDone, haccs, hst]
  have hg : o.isGather = true := by rw [Op.isGather, hkind]
  obtain ⟨u, hu, hmem, hfound⟩ := loadResponse_gather h hg hst hamo hready hap hbad
  rw [putAcc_element haccs hbuf] at hfound
  obtain ⟨hfind, hmem'⟩ := findOp_finishOp hfound rfl hdone (gather_not_vdecode hkind)
  have hexec : exec (.loadResponse b o.id 0) s = .next (finishOp u b k o.id) := by
    rw [exec_loadResponse, execLoadResponse, h]
    simp only [haccs, List.getElem?_cons_zero, hpending, Bool.false_eq_true, false_and, if_false, hu]
  refine ⟨_, _, hexec, hfind, ?_, ?_, hmem'.trans hmem⟩
  · simp only [Op.complete, hkind]
  · simp only [Op.complete, hkind, State.num]
end

/-! Scatters (R139 to R141). -/

/-- What elements fs that set out leave of the machine. -/
structure Sent (s t : State) (fs : List Flight) : Prop where
  ops : t.me.ops = s.me.ops
  ring : t.me.ring = s.me.ring
  unacked : t.me.unacked = s.me.unacked
  mem : t.mem = s.mem
  flights : t.here.flights = s.here.flights ++ fs

section
variable {s t u : State}

theorem Sent.append {fs gs : List Flight} (h : Sent s t fs) (h' : Sent t u gs) : Sent s u (fs ++ gs) :=
  ⟨h'.ops.trans h.ops, h'.ring.trans h.ring, h'.unacked.trans h.unacked, h'.mem.trans h.mem, by rw [h'.flights, h.flights, List.append_assoc]⟩

/-- The access of an element as it sets out: no strand counts it (R140). -/
def State.sending (s : State) (ea : Word) (len : Nat) (act : FAct) (access : Access) (op pa : Option Nat) : Flight :=
  ⟨s.nextId, s.cur.2, s.me.ctxKey, s.me.space, s.me.pc, ea, len, act, op, [], false, false, false, s.here.epoch, access, pa⟩

theorem retireRemote_sent (s : State) (ea : Word) (len : Nat) (act : FAct) (access : Access) (op pa : Option Nat) : ∃ t,
    retireRemote s ea len act access op pa false = .ok t ∧ Sent s t [s.sending ea len act access op pa] := by
  obtain ⟨t, hr, hme, hmem, hflights⟩ : ∃ t, retireRemote s ea len act access op pa false = .ok t ∧
      t.me = { s.me with binds := bumpBinds s.me.binds [] (· + 1) } ∧ t.mem = s.mem ∧
      t.here.flights = s.here.flights ++ [s.sending ea len act access op pa] := by
    rw [retireRemote]
    simp only [Bool.false_eq_true, false_and, if_false]
    refine ⟨_, rfl, ?me, rfl, ?flights⟩
    case me =>
      rw [State.me_modHere_of, State.bumpId_me, State.me_modMe, State.me_modHere_of]
      · exact fun _ => rfl
      · exact fun _ => rfl
    case flights =>
      rw [State.here_modHere, State.bumpId_here, State.here_modMe, State.here_modHere]
      rfl
  exact ⟨t, hr, (congrArg Strand.ops hme).trans rfl, (congrArg Strand.ring hme).trans rfl, (congrArg Strand.unacked hme).trans rfl, hmem,
    hflights⟩

/-- The elements of a scatter set out one behind the other (R140, R141). -/
theorem scatterGo_sent (s : State) (v : VReg) (w op : Nat) (els : List (Nat × Word × Nat)) : ∃ t fs, scatterGo s v w op els = .ok t ∧ Sent s t fs ∧
    fs.map (fun f => (f.ea, f.len, f.act)) = els.map (fun q => (q.2.1, w, .write ((leBytes w (elem v w q.1)).map some))) ∧
    ∀ f ∈ fs, f.counted = false ∧ f.op = some op := by
  induction els generalizing s with
  | nil => exact ⟨s, [], rfl, ⟨rfl, rfl, rfl, rfl, by simp⟩, rfl, by simp⟩
  | cons q els ih =>
    obtain ⟨j, ea, pa⟩ := q
    obtain ⟨t, hr, hsent⟩ := retireRemote_sent s ea w (.write ((leBytes w (elem v w j)).map some)) .gather (some op) (some pa)
    obtain ⟨u, fs, hgo, hsent', hfs, hown'⟩ := ih t
    refine ⟨u, _, ?_, hsent.append hsent', ?_, ?_⟩
    · rw [scatterGo, hr]
      exact hgo
    · rw [List.map_append, hfs]
      rfl
    · exact List.forall_mem_cons.2 ⟨⟨rfl, rfl⟩, hown'⟩

end

section
variable {s : State} {g : BitVec 2} {d : BitVec 5} {a : Src} {b : BitVec 5} {l : BitVec 4}

theorem State.flights_addOp (s : State) (o : Op) : (s.addOp o).here.flights = s.here.flights :=
  s.field_modMe _ Brick.flights (fun _ => rfl) _

/-- The operation of a scatter of elements els. -/
def State.scatterOp (s : State) (l : BitVec 4) (els : List (Nat × Word × Nat)) (i : Instr) : Op :=
  { (newOp (s.issuing els i) l (.scatter els.length) (some s.me.seqNext)) with done := els.isEmpty }

theorem exec_vscatter_local {els : List (Nat × Word × Nat)} (hels : s.localElems a b (widthOf g) = els) (hnone : s.me.answers = [])
    (hfree : RingFree s) (ha : Accepts (.vscatter g d a b l) s) (hgate : gate s 3 = .ok ())
    (h : ∀ j ∈ s.activeElems (widthOf g), (s.elemAddr a b (widthOf g) j).toNat % widthOf g = 0 ∧
      (s.elemAddr a b (widthOf g) j).toNat < Config.sramBytes) {t : State}
    (hgo : scatterGo ((s.issuing els (.vscatter g d a b l)).addOp (s.scatterOp l els (.vscatter g d a b l))) (s.me.vreg d) (widthOf g)
      (s.scatterOp l els (.vscatter g d a b l)).id els = .ok t) : Completes (.vscatter g d a b l) s t := by
  rw [Completes, exec_vscatter, execVscatter]
  subst hels
  refine run_ok ha ?_
  simp only [bind, Except.bind, gsBegin_local hnone hgate h, ringTake_placed hfree]
  have hvreg : (s.issuing (s.localElems a b (widthOf g)) (.vscatter g d a b l)).me.vreg d = s.me.vreg d := by
    rw [State.issuing_me]
    rfl
  rw [← hvreg] at hgo
  exact hgo

/-- A scatter of the local window issues: its elements are on their way (R140, R141). -/
theorem vscatter_local (hnone : s.me.answers = []) (hfree : RingFree s) (ha : Accepts (.vscatter g d a b l) s) (hgate : gate s 3 = .ok ())
    (h : ∀ j ∈ s.activeElems (widthOf g), (s.elemAddr a b (widthOf g) j).toNat % widthOf g = 0 ∧
      (s.elemAddr a b (widthOf g) j).toNat < Config.sramBytes) (hsome : s.activeElems (widthOf g) ≠ []) :
    ∃ t o e fs, Completes (.vscatter g d a b l) s t ∧ t.me.ops = s.me.ops ++ [o] ∧ o.kind = .scatter (s.activeElems (widthOf g)).length ∧
      o.done = false ∧ t.me.ring = s.me.ring ++ [e] ∧ e.kind = 2 ∧ t.here.flights = s.here.flights ++ fs ∧
      fs.map (fun f => (f.ea, f.len, f.act)) = (s.activeElems (widthOf g)).map (fun j => (s.elemAddr a b (widthOf g) j, widthOf g,
        .write ((leBytes (widthOf g) (elem (s.me.vreg d) (widthOf g) j)).map some))) ∧
      (∀ f ∈ fs, f.counted = false ∧ f.op = some o.id) ∧ t.me.unacked = s.me.unacked ∧ t.mem = s.mem := by
  have hlen : (s.localElems a b (widthOf g)).length = (s.activeElems (widthOf g)).length := List.length_map ..
  have hdone : (s.localElems a b (widthOf g)).isEmpty = false := by
    rw [List.isEmpty_eq_false_iff, ne_eq, localElems_eq_nil]
    exact hsome
  obtain ⟨t, fs, hgo, hsent, hfs, hown⟩ := scatterGo_sent
    ((s.issuing (s.localElems a b (widthOf g)) (.vscatter g d a b l)).addOp (s.scatterOp l (s.localElems a b (widthOf g)) (.vscatter g d a b l)))
    (s.me.vreg d) (widthOf g) (s.scatterOp l (s.localElems a b (widthOf g)) (.vscatter g d a b l)).id (s.localElems a b (widthOf g))
  have hc := exec_vscatter_local rfl hnone hfree ha hgate h hgo
  rw [State.localElems, List.map_map] at hfs
  obtain ⟨hops, hring, hunacked, hmem, hflights⟩ := hsent
  rw [State.addOp_me, State.issuing_me] at hops hring hunacked
  refine ⟨t, _, _, fs, hc, hops, congrArg OpKind.scatter hlen, hdone, hring, rfl, ?_, hfs, hown, hunacked, hmem.trans (State.issuing_mem ..)⟩
  rw [hflights, State.flights_addOp, State.issuing_flights]

end

end Sys2Proof.Machine

/-- Settles O20: the checks of the elements pass one by one; a gather's operation waits for its accesses, a scatter's elements set out, and
the response to an element goes to its place. -/
theorem gathersAndScattersMakeOneAccessPerElement : Obligations.GathersAndScattersMakeOneAccessPerElement := by
  unfold Obligations.GathersAndScattersMakeOneAccessPerElement
  intro s g d a b l hnone hnew hfree
  exact ⟨vgather_local hnone hnew hfree, fun _ _ _ _ _ _ => gather_delivers, vscatter_local hnone hfree,
    fun ha hgate h => (exec_vgather ..).trans (run_trap ha (by simp only [gsBegin_misaligned hgate h, bind, Except.bind])),
    fun ha hgate h => (exec_vscatter ..).trans (run_trap ha (by simp only [gsBegin_misaligned hgate h, bind, Except.bind]))⟩

end
